-- ==== Sys2Proof/Word.lean ====
section
/-! DEFINITION. The word types of the device: the manual's registers are 32 bits wide and its memories are byte
addressed (R6, R58). Plain numbers (line, beat, instance, ring) are natural numbers. -/
namespace Sys2Proof

/-- One byte of memory. -/
abbrev Byte := BitVec 8

/-- A 32-bit register word (R58). -/
abbrev W32 := BitVec 32

end Sys2Proof
end

