-- ==== Sys2Proof/Syntax.lean ====
section
/-! DEFINITION. The commands of the block: the events and register accesses of spec/opcode_table.json with their
operands. The table gives no operand fields; each constructor carries what the rule named in its comment needs. -/
namespace Sys2Proof

/-- Who makes a register access and how (R58, R76): origin ID, AUX, byte enables; `same` says that it reaches its
page on the PERCLK edge of the command before it (R66, R88). -/
structure Req where
  origin : Nat
  aux : Nat := 0
  be : Nat := 15
  same : Bool := false
  deriving DecidableEq, Repr

/-- Where a register write goes: a register-space offset (R54), which origin 0x41 reaches through PF0 BAR0; the same
offset reached by a unit of the device through the device physical view (R55); an offset of VF n's BAR0 (R56); a
configuration-space register of a function that has no row of its own; or an MSI-X table offset of a function (R132). -/
inductive Place where
  | space (off : Nat)
  | dev (off : Nat)
  | vfBar (n off : Nat)
  | cfg (fn off : Nat)
  | msix (fn off : Nat)
  deriving DecidableEq, Repr

/-- What the host answers to a device read of a host page (R126): the bytes, or a failed completion. -/
inductive HostData where
  | bytes (l : List Byte)
  | failed
  /-- The read reaches another endpoint's BAR (R124, UB-0601). -/
  | peer
  deriving DecidableEq, Repr

/-- A CSI-2 packet as it leaves a camera port's FIFO (R330 to R332): virtual channel, data type, word count or short
data, payload, what the header ECC finds (0 no error, 1 one flipped bit, 2 more), whether the payload CRC matches. -/
structure CamPkt where
  vc : Nat
  dt : Nat
  data : Nat
  payload : List Byte
  ecc : Nat
  crcOk : Bool
  deriving DecidableEq, Repr

/-- The commands of the block: one constructor per row of spec/opcode_table.json, each an event or a register access
of the table with the operands that the named rule gives it. -/
inductive Instr where
  /-- PORST_N_RISE (R26): PORST_N rises, the Guard die runs from REFCLK and boot stage S1 begins. -/
  | porstNRise (straps : Nat)
  /-- PORST_N_PULSE (R97): A low pulse on PORST_N of 192 REFCLK or more causes a complete cold reset, and a pulse shorter than 32 REFCLK is ignored. -/
  | porstNPulse (refclk straps : Nat)
  /-- VDD_GRD_LOSS (R102): Loss of VDD_GRD causes a cold reset. -/
  | vddGrdLoss
  /-- XSPI_FIRST_READ (R538): 1,920 REFCLK after XSPI_RESET_N rises, the boot ROM issues its first flash read. -/
  | xspiFirstRead
  /-- GUARD_RESET_COLD (R121): A write of GUARD.RESET.COLD requests a cold reset, and is refused while TUNE.STAT.BUSY is 1. -/
  | guardResetCold (q : Req) (v : W32)
  /-- WARM_N_PULSE (R102): WARM_N held low for 20 REFCLK or more causes a warm reset, which resets the Compute and Port dies and reruns S4 and S5. -/
  | warmNPulse (refclk : Nat)
  /-- GUARD_RESET_WARM (R103): A write of GUARD.RESET.WARM requests a warm reset, which is ignored before the first S6. -/
  | guardResetWarm (q : Req) (v : W32)
  /-- GUARD_RESET_STAVE (R105): A write of GUARD.RESET.STAVE requests a stave reset at the next stave boundary, and is refused before the first S6. -/
  | guardResetStave (q : Req) (v : W32)
  /-- ROOT_LOCK (R26): The root PLL locks and CLOCK.STAT.ROOT_LOCK sets. -/
  | rootLock
  /-- ROOT_LOCK_TIMEOUT (R26): If ROOT_LOCK is not set within 9,600 REFCLK, boot stops in S1 with code ROOT_LOCK. -/
  | rootLockTimeout
  /-- DIVIDER_RELEASE (R26): After lock has held for 256 REFCLK, the dividers are released on one ROOTCLK edge and the stave counter starts at zero. -/
  | dividerRelease
  /-- HART_CLOCK_SWITCH (R26): One beat after divider release, the guard harts switch from REFCLK to FABCLK. -/
  | hartClockSwitch
  /-- LOCK_LOST (R28): Loss of root lock makes the Guard die fall back to REFCLK, freezes the counter, stops the root-derived clocks and raises a CLOCK fault. -/
  | lockLost
  /-- XPLL_LOST (R85): A present PLL outside the root loses lock after having locked, which sets CLOCK.EVT_STAT.XPLL_LOST and makes a CLOCK roll entry. -/
  | xpllLost (pll : Nat)
  /-- REF_CHECK (R29): Every 1,024 REFCLK, the Guard die measures REFCLK against its oscillator and clears REF_OK after two deviations beyond ±2,000 ppm. -/
  | refCheck (ppm : Int)
  /-- IMAGE_SLOT_CHECK (R115): An image slot has been read, and the boot ROM checks its format, key, SVN and signature, then loads it or tries the next source. -/
  | imageSlotCheck (img : List Byte)
  /-- BOOT_STAGE_TIMEOUT (R108): A boot stage exceeds its timeout, so boot stops with the stage's failure code and FAULT_N held low. -/
  | bootStageTimeout (code info : Nat)
  /-- TUNE_LOAD (R117): At S2 the tuning record is read and checked, and its values or the safe defaults are loaded and rolled as TUNE_LOAD. -/
  | tuneLoad (readError : Bool)
  /-- DDR_TRAIN_DONE (R106): S3 locks the PHY PLL and trains every present channel, then S4 begins. -/
  | ddrTrainDone (mr4 : List Nat)
  /-- FABRIC_INIT_DONE (R106): S4 initialises SRAMs, clears the LLC directories and trains the die-to-die links and the Bridge, then S5 begins. -/
  | fabricInitDone
  /-- S5_COMPLETE (R106): The PCIe link is trained, and any host download is verified, so S5 completes. -/
  | s5Complete (speed width : Nat)
  /-- DL_GO (R112): A DL_CTRL.GO write starts verification of the downloaded image. -/
  | dlGo
  /-- DL_RESTART (R112): A DL_CTRL.RESTART write discards the received bytes. -/
  | dlRestart
  /-- DL_DATA (R112): A DL_DATA write appends 4 bytes to the downloaded image. -/
  | dlData (w : W32)
  /-- DL_VERIFY_DONE (R115): Verification of the downloaded image ends in STATE accepted or rejected. -/
  | dlVerifyDone
  /-- OTP_PROG (R114): A GUARD.OTP_PROG write ORs bits into the OTP word at OTP_ADDR, and is refused for words 0 to 48 once SB_EN is set. -/
  | otpProg (q : Req) (v : W32)
  /-- OTP_PROG_DONE (R114): OTP programming completes within 1 line and is rolled with the word before and after. -/
  | otpProgDone
  /-- TUNE_REC_DATA_READ (R119): A read of TUNE.REC_DATA returns the raw MTP word and advances REC_IDX. -/
  | tuneRecDataRead (o : Nat)
  /-- TUNE_BUF_DATA_WRITE (R120): A write of TUNE.BUF_DATA fills the commit buffer and advances BUF_IDX, and is refused while BUSY is 1. -/
  | tuneBufDataWrite (q : Req) (v : W32)
  /-- TUNE_UNLOCK (R120): A write of KEY_A and then KEY_B to TUNE.UNLOCK sets UNLOCKED, and any other value clears it. -/
  | tuneUnlock (q : Req) (v : W32)
  /-- TUNE_UNLOCK_EXPIRY (R120): 75 lines after KEY_A without KEY_B, or after unlocking without GO, UNLOCKED clears. -/
  | tuneUnlockExpiry
  /-- TUNE_COMMIT_GO (R120): A write of TUNE.COMMIT.GO is checked and, if accepted, starts erasing and programming the MTP. -/
  | tuneCommitGo (q : Req) (v : W32)
  /-- TUNE_PROG_DONE (R120): MTP programming and read-back complete, WCOUNT increments and PROG_OK or PROG_ERR sets. -/
  | tuneProgDone (ok : Bool)
  /-- LINE_BOUNDARY (R34): A line boundary advances the counter, ticks the delay lists, makes beat-0 tasks and admitted invocations eligible and sets page events. -/
  | lineBoundary (temps : List Nat)
  /-- STAVE_BOUNDARY (R34): At a stave boundary, staged registers apply, a pending score or alternate placement takes effect and the counter shows the new stave. -/
  | staveBoundary (temps : List Nat)
  /-- NOW_LO_READ (R36): A read of STAVE.NOW_LO or TENANT.NOW_LO returns the low word and latches the high word for the reading origin. -/
  | nowLoRead (o : Nat) (tenantPage : Bool)
  /-- SNUM_LOAD_ARM (R37): A write of STAVE.CTRL.LOAD_ARM arms an SNUM load, and is refused while LINKED is 1. -/
  | snumLoadArm (q : Req) (v : W32)
  /-- HEAD1_DIV_WRITE (R38): A write of CLOCK.HEAD1_DIV below 16 is refused, and otherwise it is accepted for the next stave boundary. -/
  | head1DivWrite (q : Req) (v : W32)
  /-- REGISTER_WRITE (R63): A write to a register that has no row of its own is accepted or refused, counted and rolled by the first matching case. -/
  | registerWrite (q : Req) (p : Place) (v : W32)
  /-- ROLL_HELD_WRITE (R88): A write that found no roll place on its edge is checked again on the next edge. -/
  | rollHeldWrite
  /-- EVT_SET_WRITE (R74): A write of EVT_SET sets EVT_STAT bits exactly as hardware events would. -/
  | evtSetWrite (q : Req) (page : Nat) (v : W32)
  /-- STAGE_DISCARD (R70): A write of PAGE_STAGE.DISCARD copies the in-force values into the shadow and clears PENDING. -/
  | stageDiscard (q : Req) (page : Nat) (v : W32)
  /-- SOFT_RESET (R104): A write of BLK_CTRL.SOFT_RESET starts a block reset, and writes arriving during it are held. -/
  | softReset (q : Req) (page : Nat) (v : W32)
  /-- BLOCK_RESET_DONE (R104): Within 16 PERCLK the block reset completes: registers take reset values, work is abandoned with ABORTED_BY_RESET, and held writes are accepted in order. -/
  | blockResetDone (page : Nat)
  /-- PAGE_OWNER_WRITE (R80): A write of PAGE_OWNER is authorised only from the harts or PF0 and accepts only the permitted owner values. -/
  | pageOwnerWrite (q : Req) (page : Nat) (v : W32)
  /-- PAGE_WMASK_WRITE (R79): A write of PAGE_WMASK is authorised only from the harts, or from PF0 on a page that PF0 or a tenant owns. -/
  | pageWmaskWrite (q : Req) (page : Nat) (v : W32)
  /-- GUARD_HDR_LOCK (R84): A write of AUTH.LOCK.GUARD_HDR locks the headers of Guard-die pages until cold reset. -/
  | guardHdrLock (q : Req) (v : W32)
  /-- ALL_HDR_LOCK (R84): A write of AUTH.LOCK.ALL_HDR locks the headers of every page until cold reset. -/
  | allHdrLock (q : Req) (v : W32)
  /-- ROLL_MODE_WRITE (R93): A write of ROLL.CTRL.MODE switches between WRAP and HOLD on its own edge. -/
  | rollModeWrite (q : Req) (v : W32)
  /-- ROLL_TAIL_WRITE (R95): A write of ROLL.TAIL_SEQ moves the drain point within TAIL_SEQ to NEXT_SEQ, and other values are refused. -/
  | rollTailWrite (q : Req) (v : W32)
  /-- ROLL_RD_SEQ_WRITE (R94): A write of ROLL.RD_SEQ sets the reading origin's cursor. -/
  | rollRdSeqWrite (q : Req) (v : W32)
  /-- ROLL_RD_DATA0_READ (R94): A read of ROLL.RD_DATA0 copies the entry at RD_SEQ into the origin's snapshot and sets RD_STAT OK, GONE or NOT_YET. -/
  | rollRdData0Read (o : Nat) (same : Bool)
  /-- ROLL_RD_DATA7_READ (R94): A read of ROLL.RD_DATA7 returns the last snapshot word and advances RD_SEQ. -/
  | rollRdData7Read (o : Nat)
  /-- PCIE_LINK_UP (R140): The data link comes up again, and LINK_UP sets and a PARTNER entry is rolled. -/
  | pcieLinkUp (speed width : Nat)
  /-- PCIE_LINK_DOWN (R140): The link goes down, with the effects of a PF0 FLR on every function, and a PARTNER entry is rolled. -/
  | pcieLinkDown
  /-- PCIE_HOT_RESET (R140): A received hot reset has the effects of a PF0 FLR on every function. -/
  | pcieHotReset
  /-- PCIE_PERST (R538): PCIE_PERST_N low from S5 onward holds the link down with the effects of R140, and retraining begins when it rises. -/
  | pciePerst (level : Bool)
  /-- VF_FLR (R137): An FLR of VF n discards and abandons its invocations, resets its rings, invalidates its translations and reclaims its pages. -/
  | vfFlr (n : Nat)
  /-- VF_ENABLE_CLEAR (R138): VF Enable going to 0 applies the VF FLR steps to every tenant on one edge, and the tenants cease to exist. -/
  | vfEnableClear
  /-- VF_ENABLE_SET (R131): VF Enable going to 1 makes tenants 1 to NumVFs exist. -/
  | vfEnableSet
  /-- NUMVFS_WRITE (R131): A write of NumVFs takes effect only while VF Enable is 0 and for values 0 to 64. -/
  | numvfsWrite (v : Nat)
  /-- PF0_FLR (R139): An FLR of PF0 resets PF0 configuration, clears VF Enable and resets PF0's rings, while planned work continues. -/
  | pf0Flr
  /-- PMCSR_D3HOT (R180): The host selects D3hot for a function, the function's rings fire early, and it then issues no requests except PME. -/
  | pmcsrD3hot (fn : Nat)
  /-- PMCSR_D0 (R184): A function returns to D0, and its held records are written and pending vectors sent. -/
  | pmcsrD0 (fn : Nat)
  /-- BME_CLEAR (R183): Bus Master Enable going to 0 stops the function's fetches and admissions and holds its records. -/
  | bmeClear (fn : Nat)
  /-- BME_SET (R184): Bus Master Enable returning to 1 writes held records and sends pending vectors. -/
  | bmeSet (fn : Nat)
  /-- HOST_READ_FAILURE (R126): A device-issued read ends in completion timeout, UR, CA or poison, so the requesting job ends ECC_UNCORRECTED. -/
  | hostReadFailure (n : Nat)
  /-- POISONED_WRITE_DROP (R127): A poisoned write TLP hitting a BAR is discarded and counted in POISON_DROPS. -/
  | poisonedWriteDrop
  /-- WINDOW_ACCESS (R133): An access through PF0 BAR2 reaches DRAM at WIN_BASE plus offset, or is dropped beyond installed DRAM. -/
  | windowAccess (off len : Nat) (data : Option (List Byte))
  /-- ASPM_L0S_ENTRY (R135): After L0S_BEATS idle beats, the device requests L0s. -/
  | aspmL0sEntry
  /-- ASPM_L1_ENTRY (R135): After L1_LINES lines without a pending TLP, the device requests L1. -/
  | aspmL1Entry
  /-- PME_TURN_OFF (R180): Receipt of PME_Turn_Off fires every ring with held interrupts before PME_TO_Ack. -/
  | pmeTurnOff
  /-- MSIX_UNMASK (R181): The host unmasks a vector whose PBA bit is set, and the message is sent. -/
  | msixUnmask (fn vec : Nat)
  /-- HOST_NP_OUT_READ (R125): A read of HOST.NP_OUT returns PEAK and restarts it at NOW. -/
  | hostNpOutRead (o : Nat)
  /-- TEN_RINGS_WRITE (R141): A write of TEN_RINGS sets a tenant's ring range, and is refused while enabled or when out of range. -/
  | tenRingsWrite (q : Req) (n : Nat) (v : W32)
  /-- TEN_ENABLE (R142): A write setting TEN_CFG.ENABLE is refused for COUNT 0 or an overlapping range, and otherwise the tenant takes part in admission. -/
  | tenEnable (q : Req) (n : Nat) (v : W32)
  /-- TEN_DISABLE (R143): Clearing TEN_CFG.ENABLE stops admission for the tenant from the next line boundary. -/
  | tenDisable (q : Req) (n : Nat) (v : W32)
  /-- TEN_GUAR_WRITE (R144): A write of TEN_GUAR sets the guaranteed budget for the next stave, and is refused above CEIL. -/
  | tenGuarWrite (q : Req) (n : Nat) (v : W32)
  /-- TEN_CEIL_WRITE (R144): A write of TEN_CEIL sets the elastic ceiling for the next stave, and is refused below GUAR. -/
  | tenCeilWrite (q : Req) (n : Nat) (v : W32)
  /-- TEN_PRIO_WRITE (R145): A write of TEN_CFG.PRIO sets the tenant priority used from the next stave. -/
  | tenPrioWrite (q : Req) (n : Nat) (v : W32)
  /-- JOB_QUOTA_WRITE (R145): A write of TEN_CFG.JOB_QUOTA takes effect at once. -/
  | jobQuotaWrite (q : Req) (n : Nat) (v : W32)
  /-- TENANT_MBOX (R146): A write of TENANT.MBOX raises mailbox source 0x800 + 4(n − 1) + k. -/
  | tenantMbox (q : Req) (n : Nat) (v : W32)
  /-- RING_ENABLE (R149): A write setting CTRL.ENABLE on a DISABLED ring with valid orders moves it to ACTIVE. -/
  | ringEnable (q : Req) (r : Nat) (v : W32)
  /-- RING_DISABLE (R150): Clearing CTRL.ENABLE moves an ACTIVE or STOPPED ring to DISABLED from the next line boundary. -/
  | ringDisable (q : Req) (r : Nat) (v : W32)
  /-- RING_RESET (R150): A write of CTRL.RING_RESET moves the ring to RESETTING and discards its queued invocations. -/
  | ringReset (q : Req) (r : Nat) (v : W32)
  /-- RING_RESET_DONE (R150): When INFLIGHT reaches 0, the ring's counts return to 0, EPOCH increments and STATE becomes DISABLED. -/
  | ringResetDone (r : Nat)
  /-- SQ_TAIL_DOORBELL (R151): A doorbell write of SQ_TAIL within the permitted window covers new descriptors, and is otherwise refused. -/
  | sqTailDoorbell (q : Req) (p : Place) (tail : W32) (head : Option W32)
  /-- CQ_HEAD_DOORBELL (R151): A doorbell write of CQ_HEAD up to CQ_TAIL frees completion slots, and is otherwise refused. -/
  | cqHeadDoorbell (q : Req) (p : Place) (head : W32)
  /-- DESCRIPTOR_FETCH (R153): The device starts descriptor reads for covered slots while fewer than 8 are queued. -/
  | descriptorFetch (r : Nat)
  /-- DESCRIPTOR_ARRIVAL (R153): A fetched descriptor is checked in slot order against SQ_HEAD and EPOCH, and is accepted or stops the ring. -/
  | descriptorArrival (r : Nat) (data : HostData)
  /-- FRAGMENT_HEADER_ARRIVAL (R154): The fragment header and task list of an accepted descriptor arrive, or their failure marks the invocation to end. -/
  | fragmentHeaderArrival (r sub : Nat) (data : HostData)
  /-- MOD_EXPIRY (R178): At the boundary that begins line E, a ring with an open window fires. -/
  | modExpiry (r : Nat)
  /-- MOD_WRITE (R179): A write of MOD fires the ring if p > 0 and then takes the new values. -/
  | modWrite (q : Req) (r : Nat) (v : W32)
  /-- RING_VECTOR_WRITE (R179): A CTRL write changing VECTOR fires the ring with the old vector if p > 0. -/
  | ringVectorWrite (q : Req) (r : Nat) (v : W32)
  /-- MSIX_AFTER_L0 (R182): Once the link returns from L1.x to L0, the held records are written and the MSI-X is sent. -/
  | msixAfterL0
  /-- POOL_ALLOC (R169): An allocation request through a port receives a handle or POOL_EMPTY in the same FABCLK cycle. -/
  | poolAlloc (port pool : Nat)
  /-- POOL_FREE (R170): A free returns a buffer to its pool, or is ignored and counted as stale or bad. -/
  | poolFree (pool handle : Nat)
  /-- POOL_SW_REQ (R174): A write of POOL.SW_REQ allocates through the writer's port and sets SW_RESULT. -/
  | poolSwReq (q : Req) (v : W32)
  /-- POOL_SW_FREE (R174): A write of POOL.SW_FREE frees the named handle. -/
  | poolSwFree (q : Req) (v : W32)
  /-- EVC_DOORBELL (R196): A write of EVC.DOORBELL raises a source within the origin's allowed range. -/
  | evcDoorbell (q : Req) (v : W32)
  /-- EVC_RAISE (R194): A raise message from a device unit acts on the source by its CLASSIC or COUNT mode. -/
  | evcRaise (k : Nat) (same : Bool)
  /-- EVC_RAISE_HELD (R194): Raises beyond 8 on one edge are held by their senders and taken on a later edge. -/
  | evcRaiseHeld
  /-- FWD_COMMIT (R211): 76 FABCLK after PEND sets, one message is committed on the PF0 vector and PEND clears. -/
  | fwdCommit (k : Nat)
  /-- EVC_CLAIM (R204): A read of EVC.CLAIM by a main hart claims its highest-priority claimable source. -/
  | evcClaim (o : Nat)
  /-- EVC_COMPLETE (R205): A write of EVC.COMPLETE by the holder completes the source, and it is otherwise refused. -/
  | evcComplete (q : Req) (v : W32)
  /-- EVC_PEND_SET (R210): A write of EVCSRC.PEND_SET is one raise per bit written as 1. -/
  | evcPendSet (q : Req) (word : Nat) (v : W32)
  /-- EVC_PEND_CLEAR (R210): A write of EVCSRC.PEND clears P or sets C to 0. -/
  | evcPendClear (q : Req) (word : Nat) (v : W32)
  /-- EVC_CFG_WRITE (R199): A write of a source configuration halfword changes its enable, priority or route, and is refused for a MODE change of a busy source. -/
  | evcCfgWrite (q : Req) (word : Nat) (v : W32)
  /-- MEMORY_ACCESS (R242): A requester's access is translated if needed and ordered at the line's home slice. -/
  | memoryAccess (ctx req half job kind va len : Nat) (data : List Byte)
  /-- ACCESS_COMPLETE (R244): An access returns its data or its write completes. -/
  | accessComplete (k err place : Nat) (data : HostData)
  /-- FLOG_TAIL_WRITE (R232): A write of a fault log's FLOG_TAIL within TAIL to HEAD is accepted, and otherwise refused. -/
  | flogTailWrite (q : Req) (page : Nat) (v : W32)
  /-- INV_GO (R227): A write of MMU.INV_GO starts a range, context or all invalidation and increments INV_ISSUED. -/
  | invGo (q : Req) (v : W32)
  /-- INV_DONE (R228): The invalidation completes when no removed entry remains and its accesses are done, and INV_DONE takes INV_ISSUED. -/
  | invDone
  /-- REFRESH_SLOT (R236): At a placed start beat, the channel stops access for 2 beats and may issue one all-bank refresh. -/
  | refreshSlot (c : Nat)
  /-- MR4_POLL (R237): Every 75 lines the controller reads MR4 and sets the refresh density from the next line. -/
  | mr4Poll (c rate : Nat)
  /-- DRAMC_ENABLE_WRITE (R240): Clearing DRAMC ENABLE puts the channel in self-refresh, and setting it resumes service of stalled requests. -/
  | dramcEnableWrite (q : Req) (c : Nat) (v : W32)
  /-- SCRUB_READ (R255): With an empty channel queue, the scrubber reads the next line and rewrites a corrected or poisoned word. -/
  | scrubRead (c word cls : Nat)
  /-- SCRUB_PASS_END (R255): When a pass's s staves end incomplete, SCRUB.BEHIND sets and the pass continues. -/
  | scrubPassEnd (c : Nat)
  /-- NRC_INV_ARM (R249): A write of LLC.NRC_INV arms the named cores' NRCs for the next stave boundary. -/
  | nrcInvArm (q : Req) (h : Nat) (v : W32)
  /-- BRIDGE_REPLAY (R250): A Bridge transfer with a CRC error is repeated, and REPLAYS counts it. -/
  | bridgeReplay
  /-- BRIDGE_DOWN (R250): Bridge loss of training ends crossing accesses ECC_UNCORRECTED and invalidates far copies. -/
  | bridgeDown
  /-- SCORE_LOAD_GO (R267): A write of CANTOR.LOAD.GO starts validation of the image at SCORE_PA. -/
  | scoreLoadGo (q : Req) (v : W32)
  /-- SCORE_LOAD_DONE (R267): Validation ends in ARMED or REFUSED with a code, and LOAD_DONE sets. -/
  | scoreLoadDone
  /-- SCORE_LOAD_CANCEL (R267): A write of CANTOR.LOAD.CANCEL returns ARMED to IDLE. -/
  | scoreLoadCancel (q : Req) (v : W32)
  /-- TASK_FIRE (R279): A ready task whose beat has come, operands match, buffers are taken and core is free fires. -/
  | taskFire (core : Nat)
  /-- TASK_SLIP (R281): A task not fired by planned beat plus GRACE slips, and its job ends SLIP. -/
  | taskSlip (core : Nat)
  /-- FENCED_TASK_CANCEL (R284): At its planned beat, a task on a fenced core ends its job with CORE_FENCED. -/
  | fencedTaskCancel (core : Nat)
  /-- TASK_END (R296): A task's last command completes and its core is free. -/
  | taskEnd (core : Nat)
  /-- SPAN_END (R280): At the end of an invocation's span, a still-running task is stopped and the invocation ends SLIP, cause SPAN. -/
  | spanEnd (half job : Nat)
  /-- TOKEN_ARRIVAL (R275): A token reaches its slot and fills it, is discarded as duplicate, or replaces a stale tag. -/
  | tokenArrival (k : Nat)
  /-- CANTOR_TOKEN_WRITE (R278): A write of CANTOR.TOKEN delivers its token at once. -/
  | cantorTokenWrite (q : Req) (h : Nat) (v : W32)
  /-- CANTOR_TOKEN_AT_WRITE (R278): A write of CANTOR.TOKEN_AT queues a timed token for line TOKEN_AT_LINE. -/
  | cantorTokenAtWrite (q : Req) (h : Nat) (v : W32)
  /-- COMMAND_FETCH (R293): A core prefetches up to 16 commands of a task entering its ready list, and up to 64 ahead while it runs. -/
  | commandFetch (core : Nat) (wait : Option Nat) (data : HostData)
  /-- COMMAND_COMPLETE (R294): A command completes, freeing its unit and releasing later commands waiting on it. -/
  | commandComplete (core unit : Nat)
  /-- NOP (R294): TCMD NOP completes at issue. -/
  | nop (core : Nat)
  /-- LOAD (R300): LOAD copies memory rows to scratch, optionally as near reads. -/
  | load (core : Nat) (data : HostData)
  /-- STORE (R300): A plain STORE copies scratch rows to memory. -/
  | store (core : Nat) (data : HostData)
  /-- ATOMIC_ADD (R301): STORE ATOMIC_ADD adds each 4-byte element to memory as INT32, wrapping. -/
  | atomicAdd (core : Nat) (data : HostData)
  /-- ATOMIC_MAX (R301): STORE ATOMIC_MAX keeps the signed maximum of each 4-byte element. -/
  | atomicMax (core : Nat) (data : HostData)
  /-- MMA (R302): MMA computes C = A × B, or accumulates into C, with grouped rounding. -/
  | mma (core : Nat)
  /-- CONV (R304): CONV computes a 2-D convolution in HWC layout. -/
  | conv (core : Nat)
  /-- EWISE_ADD (R305): EWISE ADD adds two packed operands element by element. -/
  | ewiseAdd (core : Nat)
  /-- EWISE_SUB (R305): EWISE SUB subtracts element by element. -/
  | ewiseSub (core : Nat)
  /-- EWISE_MUL (R305): EWISE MUL multiplies element by element. -/
  | ewiseMul (core : Nat)
  /-- EWISE_MAX (R305): EWISE MAX takes the elementwise maximum. -/
  | ewiseMax (core : Nat)
  /-- EWISE_MIN (R305): EWISE MIN takes the elementwise minimum. -/
  | ewiseMin (core : Nat)
  /-- EWISE_CVT (R305): EWISE CVT converts each element of A to FOUT. -/
  | ewiseCvt (core : Nat)
  /-- EWISE_ABS (R305): EWISE ABS takes the absolute value of each element. -/
  | ewiseAbs (core : Nat)
  /-- EWISE_NEG (R305): EWISE NEG negates each element. -/
  | ewiseNeg (core : Nat)
  /-- ACT (R306): ACT applies a lookup or piecewise-linear table to each element. -/
  | act (core : Nat)
  /-- POOL_MAX (R307): POOL MAX takes the window maximum over an HWC tensor. -/
  | poolMax (core : Nat)
  /-- POOL_AVG (R307): POOL AVG sums the window and multiplies by RECIP. -/
  | poolAvg (core : Nat)
  /-- REDUCE_SUM (R308): REDUCE SUM sums each row in ascending column order. -/
  | reduceSum (core : Nat)
  /-- REDUCE_MAX (R308): REDUCE MAX writes each row's maximum. -/
  | reduceMax (core : Nat)
  /-- REDUCE_MIN (R308): REDUCE MIN writes each row's minimum. -/
  | reduceMin (core : Nat)
  /-- REDUCE_ARGMAX (R308): REDUCE ARGMAX writes the lowest index of each row's maximum. -/
  | reduceArgmax (core : Nat)
  /-- REDUCE_ARGMIN (R308): REDUCE ARGMIN writes the lowest index of each row's minimum. -/
  | reduceArgmin (core : Nat)
  /-- TRANSPOSE (R309): TRANSPOSE writes OUT(c, r) = IN(r, c). -/
  | transpose (core : Nat)
  /-- SCALE (R310): SCALE writes IN × SCL + BIAS per column, with optional RELU and block scales. -/
  | scale (core : Nat)
  /-- SIG (R311): SIG computes a CRC-32C over scratch and, with ROUND, delivers it to the comparator. -/
  | sig (core : Nat)
  /-- TOKEN (R312): TOKEN sends up to 4 tokens to Cantor once every earlier command is complete. -/
  | token (core : Nat)
  /-- CAMERA_FS (R336): A frame start takes the next frame slot, frees its buffers, writes the record head and drives group membership. -/
  | cameraFs (port vc num ecc : Nat)
  /-- CAMERA_FE (R336): A frame end writes the complete frame record. -/
  | cameraFe (port vc num ecc : Nat)
  /-- CAMERA_LONG_PACKET (R337): A long packet is checked, matched to a stream, stored in a pool buffer and given a line entry. -/
  | cameraLongPacket (port vc dt wc ecc : Nat) (crcOk : Bool) (payload : List Byte)
  /-- CAMERA_OTHER_SHORT_PACKET (R330): A short packet other than FS or FE is discarded without counting. -/
  | cameraOtherShortPacket (port vc dt data ecc : Nat)
  /-- CAMERA_DETACH (R341): After DETACH_STAVES boundaries without FS, the stream becomes DETACHED. -/
  | cameraDetach (stream : Nat)
  /-- GROUP_HOLD_EXPIRY (R345): Under HOLD, the group frame is released at the start of line Lg + HOLD_LINES + 1. -/
  | groupHoldExpiry (g : Nat)
  /-- CAM_RELEASE (R339): A write of CAM.RELEASE frees every buffer of a named slot. -/
  | camRelease (q : Req) (port : Nat) (v : W32)
  /-- CHAFER_WINDOW_START (R350): A window event starts SETUP, which reads the descriptor, surveys, map, sprites and lattice. -/
  | chaferWindowStart (h : Nat) (data : HostData)
  /-- CHAFER_OPEN_TAKE (R367): At the end of window line 0, the window takes every queued open survey. -/
  | chaferOpenTake (h : Nat) (data : HostData)
  /-- CHAFER_SETUP_DONE (R361): SETUP completes, the budget is divided, and EVAL begins one pose per CORECLK. -/
  | chaferSetupDone (h : Nat) (data : HostData)
  /-- CHAFER_EVAL_END (R350): At window line 72, EVAL ends, remaining candidates are late, and RESULT writes begin. -/
  | chaferEvalEnd (h stall : Nat) (data : HostData)
  /-- CHAFER_SURVEY_TOKEN (R364): Once a survey's writes complete, its DONE_TOKEN is sent. -/
  | chaferSurveyToken (h : Nat)
  /-- CHAFER_LATE (R366): Result writes or tokens not done by the end of window line 74 set WIN_RESULT.LATE. -/
  | chaferLate (h : Nat)
  /-- SET_BOUNDARY (R375): At a display line's set boundary, the head applies line-table entries, latches the set, selects sprites and starts fetching. -/
  | setBoundary (h : Nat) (bad : List Nat)
  /-- DISPLAY_LINE_START (R387): A display line is composed and scanned, with missing or poisoned data transparent. -/
  | displayLineStart (h : Nat) (late : List (Nat × Nat × Nat))
  /-- SPRITE_TABLE_FETCH (R383): At display line VTOTAL − 2, the head reads the sprite table for the next frame. -/
  | spriteTableFetch (h : Nat) (late : Bool)
  /-- LINE_TABLE_FETCH (R389): A UNIT 2 event makes head 0 load a line-table segment. -/
  | lineTableFetch (h : Nat)
  /-- LINE_TABLE_LOADED (R389): A segment load completes, or is discarded as late at the end of its line. -/
  | lineTableLoaded (h : Nat)
  /-- PAL_DATA_WRITE (R378): A write of PAL_DATA sets a palette entry and advances PAL_IDX. -/
  | palDataWrite (q : Req) (h : Nat) (v : W32)
  /-- PAL_DATA_READ (R378): A read of PAL_DATA returns a palette entry and advances PAL_IDX. -/
  | palDataRead (o h : Nat)
  /-- SAFE_ONLY_WRITE (R397): A hart write of HEAD_CTRL.SAFE_ONLY reduces the head to BG_COLOR and guard-owned planes from the next set boundary. -/
  | safeOnlyWrite (q : Req) (h : Nat) (v : W32)
  /-- DSI_GEN_GO (R401): A write of DSI.GEN_GO queues a DSI generic write, and is refused when busy or malformed. -/
  | dsiGenGo (q : Req) (v : W32)
  /-- DSI_GEN_SEND (R401): The generic write is sent in LP mode during the first vertical-blanking line outside VSYNC. -/
  | dsiGenSend
  /-- CHOIR_KEY_ON_WRITE (R408): A write of CHOIR.KEY_ON is queued for the next line boundary, and is refused when the queue is full. -/
  | choirKeyOnWrite (q : Req) (v : W32)
  /-- KEY_ON_ALLOCATE (R409): At a line boundary, each key-on checks its patch and takes a free voice, steals a lower-priority voice, or is refused. -/
  | keyOnAllocate
  /-- KEY_OFF (R411): A write of CHOIR.KEY_OFF puts the voice into RELEASE from the next sample. -/
  | keyOff (q : Req) (v : W32)
  /-- AUDIO_SAMPLE (R404): At each domain-A sample, voices produce values, envelopes update and the crosspoint forms every output. -/
  | audioSample (late bad : List Nat)
  /-- XP_NODE_WRITE (R413): A write of XP_NODE sets a node's target and ramp and advances XP_IDX, and is refused for a guard node from a non-hart. -/
  | xpNodeWrite (q : Req) (v : W32)
  /-- DOMAIN_C_SAMPLE (R416): At each domain-C sample, the fixed filters decimate and interpolate across the A–C bridge. -/
  | domainCSample
  /-- ASRC_LOCK (R418): The domain-B converter locks within 2,048 frames and B_LOCKED sets. -/
  | asrcLock (p : Nat)
  /-- ASRC_UNLOCK (R418): The domain-B converter loses lock, its inputs become 0 and B_UNLOCK sets. -/
  | asrcUnlock (p : Nat)
  /-- TDM_FRAME_RECEIVE (R420): A port frame's slots are received into the crosspoint inputs. -/
  | tdmFrameReceive (p : Nat) (raw : List Nat) (early : Bool)
  /-- TIMER_TERMINAL_TICK (R423): A channel counting to PERIOD − 1 takes a terminal tick, wraps or stops, and counts CH_TERMS. -/
  | timerTerminalTick (c : Nat)
  /-- TIMER_SW_RESET (R422): A write of CH_CTRL.SW_RESET sets CNT and DONE to 0. -/
  | timerSwReset (q : Req) (c : Nat) (v : W32)
  /-- TIMER_SW_CAP (R428): A write of CH_CTRL.SW_CAP captures on its edge. -/
  | timerSwCap (q : Req) (c : Nat) (v : W32)
  /-- TIMER_CAPTURE (R429): A selected source edge adds a capture entry, or is discarded at a full queue. -/
  | timerCapture (c : Nat) (rising : Bool)
  /-- CAP_POP_READ (R431): A read of CAP_POP returns and removes the oldest capture and latches its stave time. -/
  | capPopRead (o c : Nat)
  /-- TIMER_SNAP (R432): A write of TIMER.SNAP copies every CNT and the stave time. -/
  | timerSnap (q : Req) (v : W32)
  /-- ETH_RX_FRAME (R435): A received frame is filtered, stored in a pool buffer and reported in the receive ring, or dropped and counted. -/
  | ethRxFrame (m : Nat) (frame : List Byte)
  /-- ETH_RX_HEAD_WRITE (R436): A write of RX_HEAD within RX_HEAD to RX_TAIL frees receive entries, and is otherwise refused. -/
  | ethRxHeadWrite (q : Req) (m : Nat) (v : W32)
  /-- ETH_TXQ_TAIL_WRITE (R437): A write of TXQ_TAIL adds descriptors under the doorbell check. -/
  | ethTxqTailWrite (q : Req) (m k : Nat) (v : W32)
  /-- ETH_TX_START (R439): With the link idle, the MAC starts the highest open queue's frame that ends before its gate closes. -/
  | ethTxStart (m : Nat)
  /-- ETH_TX_DONE (R437): A frame is sent, its descriptor written back with DONE and STIME, and TXQ_HEAD increments. -/
  | ethTxDone (m : Nat)
  /-- ETH_LINK_CHANGE (R441): A change of LINK_UP sets EVT_STAT.LINK and rolls a PARTNER entry. -/
  | ethLinkChange (m : Nat) (up : Bool) (speed : Nat) (an : Bool)
  /-- I3C_PRIVATE_XFER (R443): XFER_GO with KIND 0 runs an I3C private transfer. -/
  | i3cPrivateXfer (q : Req) (b : Nat) (v : W32)
  /-- I2C_XFER (R443): XFER_GO with KIND 1 runs a legacy I2C transfer. -/
  | i2cXfer (q : Req) (b : Nat) (v : W32)
  /-- BROADCAST_CCC (R443): XFER_GO with KIND 2 runs a broadcast CCC. -/
  | broadcastCcc (q : Req) (b : Nat) (v : W32)
  /-- ENTDAA (R443): A broadcast ENTDAA runs one dynamic address assignment round. -/
  | entdaa (q : Req) (b : Nat) (v : W32)
  /-- DIRECT_CCC (R443): XFER_GO with KIND 3 runs a direct CCC. -/
  | directCcc (q : Req) (b : Nat) (v : W32)
  /-- I3C_XFER_DONE (R443): A transfer ends, BUSY clears and RESULT and COUNT are set. -/
  | i3cXferDone (b result count : Nat) (data : List Byte)
  /-- I3C_IBI (R444): An in-band interrupt or hot-join enters the IBI queue or is NACKed and counted. -/
  | i3cIbi (b addr : Nat) (payload : List Byte)
  /-- IBI_POP_READ (R444): A read of IBI_POP returns and removes the oldest IBI and latches its data. -/
  | ibiPopRead (o b : Nat)
  /-- SPI_CTL_GO (R445): A write of CTL_GO starts an SPI controller transfer, or arms it for CTL_LINE when TIMED. -/
  | spiCtlGo (q : Req) (k : Nat) (v : W32)
  /-- SPI_TIMED_START (R445): A timed SPI transfer starts at the start of CTL_LINE. -/
  | spiTimedStart (k : Nat)
  /-- SPI_CTL_DONE (R445): An SPI controller transfer completes and BUSY clears. -/
  | spiCtlDone (k : Nat) (data : List Byte)
  /-- SPI_TGT_WRITE (R446): An MCU WRITE transaction fills the receive mailbox, or is discarded when RX_FULL was set. -/
  | spiTgtWrite (off : Nat) (data : List Byte)
  /-- SPI_TGT_READ (R446): An MCU READ transaction returns the published transmit mailbox. -/
  | spiTgtRead (off n : Nat)
  /-- SPI_TGT_STATUS (R446): An MCU STATUS transaction returns the status byte and TX_SEQ, and clears OVR. -/
  | spiTgtStatus
  /-- SPI_TGT_BADCMD (R446): An MCU transaction with another command byte is ignored and counted. -/
  | spiTgtBadcmd
  /-- SPI_PUBLISH (R446): A write of TGT_CTRL.PUBLISH requests publication of TGT_TX. -/
  | spiPublish (q : Req) (v : W32)
  /-- SPI_PUBLISH_APPLY (R446): On the first edge with target CS high, TGT_TX is copied into the mailbox and TX_SEQ increments. -/
  | spiPublishApply
  /-- SPI_RX_FULL_CLEAR (R446): Clearing TGT_CTRL.RX_FULL releases the receive mailbox. -/
  | spiRxFullClear (q : Req) (v : W32)
  /-- GPIO_EDGE (R447): A synchronised pin edge sets its EVT_STAT bit when enabled. -/
  | gpioEdge (pin : Nat) (rising : Bool)
  /-- GPIO_OUT_SET (R447): A write of OUT_SET sets the named OUT bits. -/
  | gpioOutSet (q : Req) (v : W32)
  /-- GPIO_OUT_CLR (R447): A write of OUT_CLR clears the named OUT bits. -/
  | gpioOutClr (q : Req) (v : W32)
  /-- ROUND_SIGNATURE (R451): A round signature arrives at the comparator and is credited to a run or counted as stray. -/
  | roundSignature (k : Nat)
  /-- ROUND_DEADLINE (R452): At the deadline beat with fewer than two credits, the round is INCOMPLETE. -/
  | roundDeadline (id : Nat)
  /-- UNISON_MISMATCH (R455): A failed lockstep comparison stops the pair, completes its sources and raises UNISON. -/
  | unisonMismatch (h pc : Nat)
  /-- HART_RESTART (R456): A write of HART.CTRL.RESTART from another running pair restarts a stopped pair at ENTRY. -/
  | hartRestart (q : Req) (h : Nat) (v : W32)
  /-- AW_CFG_WRITE (R457): A write of AW_CFG configures a watch and resets its AGE. -/
  | awCfgWrite (q : Req) (w : Nat) (v : W32)
  /-- AW_FEED_WRITE (R458): A write of AW_FEED feeds a FEED-4 watch. -/
  | awFeedWrite (q : Req) (v : W32)
  /-- AGE_EXPIRY (R459): A watch whose count reaches LIMIT + 1 expires, raises its source and cause AGE_EXCEEDED and gates its job or ring. -/
  | ageExpiry (w : Nat)
  /-- SAFETY_FENCE_WRITE (R462): A hart write of SAFETY.FENCE fences a core or Chafer on its edge. -/
  | safetyFenceWrite (q : Req) (v : W32)
  /-- FAULT_RAISE_WRITE (R463): A write of FAULT.RAISE raises cause SOFTWARE. -/
  | faultRaiseWrite (q : Req) (v : W32)
  /-- CLASS_MAP_WRITE (R464): A write of CLASS_MAP sets cause classes, refused below minimums or once locked. -/
  | classMapWrite (q : Req) (v : W32)
  /-- CLASS_LOCK_WRITE (R464): A write of CLASS_LOCK.LOCK locks CLASS_MAP until cold reset. -/
  | classLockWrite (q : Req) (v : W32)
  /-- PIN_RELEASE_WRITE (R467): A hart write of FAULT.PIN.RELEASE releases FAULT_N at once or after MIN_LINES. -/
  | pinReleaseWrite (q : Req) (v : W32)
  /-- FAULT_N_RELEASE (R467): MIN_LINES after the last PIN assertion, a pending release lets FAULT_N go high. -/
  | faultNRelease
  /-- WDOG_CFG_WRITE (R468): A write of WDOG_CFG starts the watchdog and then locks it. -/
  | wdogCfgWrite (q : Req) (v : W32)
  /-- WDOG_KICK (R468): A write of WDOG_KICK with 0x5AFE from a hart resets WDOG_AGE, and any other write raises WATCHDOG. -/
  | wdogKick (q : Req) (v : W32)
  /-- WDOG_EXPIRY (R468): WDOG_AGE reaching LINES raises cause WATCHDOG and returns to 0. -/
  | wdogExpiry
  /-- SLINK_ENABLE (R471): Setting SLINK ENABLE starts port training. -/
  | slinkEnable (q : Req) (port : Nat) (v : W32)
  /-- SLINK_TRAINED (R471): Training completes and the port fixes RX_LAT. -/
  | slinkTrained (port lat : Nat)
  /-- SLINK_TRAIN_TIMEOUT (R471): Training not complete within 150 lines leaves the port down and counts TRAIN_FAIL. -/
  | slinkTrainTimeout (port : Nat)
  /-- SLINK_RETRAIN (R472): Loss of lane lock or 32 replays in a line retrains the port and loses its replay buffer. -/
  | slinkRetrain (port : Nat)
  /-- SLINK_ID_SEND (R477): A trained port sends an ID flit every line until it receives one. -/
  | slinkIdSend (port : Nat)
  /-- SLINK_RX_IDLE (R473): An IDLE flit returns credits and acknowledgement. -/
  | slinkRxIdle (port : Nat) (flit : List Byte)
  /-- SLINK_RX_ID (R477): An ID flit records the peer and brings the port UP, or stays down on ID_CONFLICT. -/
  | slinkRxId (port : Nat) (flit : List Byte)
  /-- SLINK_RX_WRITE (R480): A WRITE flit for this device is performed with origin 0x49, or forwarded or refused with AFTER_FAULT. -/
  | slinkRxWrite (port : Nat) (flit : List Byte)
  /-- SLINK_RX_EVENT (R481): An EVENT flit raises source 0xC00 + 128 × s + K. -/
  | slinkRxEvent (port : Nat) (flit : List Byte)
  /-- SLINK_RX_AFTER_FAULT (R483): An AFTER_FAULT flit is logged, raises LINK and may end the job that made the write. -/
  | slinkRxAfterFault (port : Nat) (flit : List Byte)
  /-- SLINK_RX_BARRIER (R490): A barrier from upstream updates BAR_ERR and may load SNUM, or computes conductor time for TAKE. -/
  | slinkRxBarrier (port : Nat) (flit : List Byte) (root : Nat)
  /-- SLINK_RX_CAL (R487): A CAL flit is received for echo. -/
  | slinkRxCal (port : Nat) (flit : List Byte)
  /-- CAL_ECHO_SEND (R487): A CAL_ECHO is launched exactly 512 ROOTCLK after the CAL leaves the crossing. -/
  | calEchoSend
  /-- SLINK_RX_CAL_ECHO (R487): A CAL_ECHO gives the follower one round-trip measurement. -/
  | slinkRxCalEcho (port : Nat) (flit : List Byte) (rtt : Nat)
  /-- SLINK_RX_NAK (R475): A NAK makes the sender resend every unacknowledged flit from the expected FSEQ. -/
  | slinkRxNak (port : Nat) (flit : List Byte)
  /-- SLINK_RX_RESERVED (R474): A flit of a reserved type is discarded and counted in BAD_FLIT. -/
  | slinkRxReserved (port : Nat) (flit : List Byte)
  /-- SLINK_RX_BAD_CRC (R475): A flit with a bad CRC is discarded, counted, and answered with a NAK. -/
  | slinkRxBadCrc (port : Nat) (flit : List Byte)
  /-- BARRIER_FORWARD (R488): A follower forwards an upstream barrier 256 ROOTCLK after arrival, adding to ACC. -/
  | barrierForward
  /-- SLINK_RW_DATA (R479): A write of RW_DATA sends one WRITE flit to RW_DEST. -/
  | slinkRwData (q : Req) (v : W32)
  /-- SLINK_EV_SEND (R481): A write of EV_SEND sends an EVENT flit to EV_DEST. -/
  | slinkEvSend (q : Req) (v : W32)
  /-- LOCK_CAL (R487): A write of LOCK_CTRL.CAL sends 16 CAL flits upstream. -/
  | lockCal (q : Req) (v : W32)
  /-- LOCK_CAL_DONE (R487): Calibration forms LINK_LAT and sets CAL_OK, or fails. -/
  | lockCalDone
  /-- LOCK_TAKE (R489): A write of LOCK_CTRL.TAKE arms lock for the next barrier. -/
  | lockTake (q : Req) (v : W32)
  /-- LOCK_DIVIDER_RELEASE (R489): On the edge where conductor time is a stave boundary, the dividers are released with the conductor's SNUM and LINKED sets. -/
  | lockDividerRelease
  /-- LOCK_RELEASE (R491): A write of LOCK_CTRL.RELEASE ends lock. -/
  | lockRelease (q : Req) (v : W32)
  /-- HYMNAL_ENABLE (R494): Setting HYMNAL ENABLE arms recording or replay from the next stave boundary. -/
  | hymnalEnable (q : Req) (v : W32)
  /-- HYMNAL_RD_SEQ_WRITE (R494): A write of RD_SEQ in RECORD mode drains the ring. -/
  | hymnalRdSeqWrite (q : Req) (v : W32)
  /-- HYMNAL_WR_SEQ_WRITE (R495): A write of WR_SEQ in REPLAY mode marks the filled end of the recording. -/
  | hymnalWrSeqWrite (q : Req) (v : W32)
  /-- HYMNAL_REPLAY_ISSUE (R495): An entry is issued at its STIME + Δ as a write, completion or injected input. -/
  | hymnalReplayIssue
  /-- HYMNAL_READ_TIMEOUT (R496): A device-issued read still outstanding 75 lines after issue with no entry makes replay diverge. -/
  | hymnalReadTimeout
  /-- WEEVIL_ARM_KEY1 (R499): A write of 0x5745 to WEEVIL.ARM sets KEY1. -/
  | weevilArmKey1 (q : Req)
  /-- WEEVIL_ARM_KEY2 (R499): A write of 0x564C as the next write after KEY1 sets ARMED. -/
  | weevilArmKey2 (q : Req)
  /-- WEEVIL_DISARM (R499): A write of 0 to ARM, or another value while KEY1 is 0, clears ARMED. -/
  | weevilDisarm (q : Req) (v : W32)
  /-- WEEVIL_KEY1_EXPIRY (R499): 75 lines after KEY1 without the second key, KEY1 clears. -/
  | weevilKey1Expiry
  /-- WEEVIL_FIRE (R506): A write of WEEVIL.FIRE triggers the named software-triggered rules. -/
  | weevilFire (q : Req) (v : W32)
  /-- WEEVIL_UNIT_RELEASE (R503): A unit held by REORDER or DELAY is released and stamped. -/
  | weevilUnitRelease (point : Nat)
  /-- DEBUG_ALLOW_WRITE (R510): A hart write of DEBUG.CTRL.ALLOW admits the debugger, and clearing it resumes halted harts. -/
  | debugAllowWrite (q : Req) (v : W32)
  /-- DEBUG_HALT (R514): A halt request or trigger puts a unison pair into debug mode together. -/
  | debugHalt (h pc : Nat) (trigger : Bool)
  /-- DEBUG_RESUME (R512): A resume request returns a halted hart to execution. -/
  | debugResume (h : Nat)
  /-- DEBUG_STEP (R512): A single step executes one instruction of a halted hart. -/
  | debugStep (h : Nat)
  /-- ACCESS_REGISTER (R512): The Access Register abstract command reads or writes a GPR or CSR. -/
  | accessRegister (h n : Nat) (write : Option W32)
  /-- SYSTEM_BUS_ACCESS (R513): A System Bus Access reaches the guard-hart address map with origin 0x48. -/
  | systemBusAccess (addr size : Nat) (write : Option W32) (err : Bool)
  /-- IDCODE (R511): The IDCODE instruction shifts out the device identification. -/
  | idcode
  /-- EXTEST (R511): EXTEST drives the balls from the boundary register when available. -/
  | extest (data : Nat)
  /-- SAMPLE_PRELOAD (R511): SAMPLE/PRELOAD samples and preloads the boundary register. -/
  | samplePreload (data : Nat)
  /-- CLAMP (R511): CLAMP holds the balls from the boundary register and selects bypass. -/
  | clamp
  /-- HIGHZ (R511): HIGHZ places the outputs in high impedance. -/
  | highz
  /-- BYPASS (R511): BYPASS, or any unavailable instruction, selects the one-bit bypass register. -/
  | bypass (ir : Nat)
  /-- DTMCS (R512): DTMCS accesses the DTM control and status register. -/
  | dtmcs (v : Nat)
  /-- DMI (R512): DMI accesses a debug module register. -/
  | dmi (op addr data : Nat)
  /-- TAP_RESET (R511): TRST_N or the TAP reset state selects IDCODE. -/
  | tapReset
  /-- HOLD_REQ (R518): A write of DEBUG.HOLD_CTRL.REQ requests a stave hold. -/
  | holdReq (q : Req) (v : W32)
  /-- HOLD_RELEASE (R519): A write of HOLD_CTRL.RELEASE cancels a pending hold or ends one in force at the next stave boundary. -/
  | holdRelease (q : Req) (v : W32)
  /-- TRACE_MARK (R516): A write of TRACE_MARK writes a kind-9 trace entry. -/
  | traceMark (q : Req) (v : W32)
  /-- TRACE_DATA_READ (R516): A read of TRACE_DATA returns a trace RAM word and advances TRACE_IDX. -/
  | traceDataRead (o : Nat)
  /-- AVS_REQUEST (R542): The device requests a new AVS target step of at most 25 mV for a half's rail. -/
  | avsRequest (half : Nat)
  /-- AVS_ACK (R542): The regulator acknowledges a step, allowing the next one. -/
  | avsAck (half : Nat)
  /-- AVS_RETRY (R542): An unacknowledged AVS request is repeated every 75 lines. -/
  | avsRetry (half : Nat)
  /-- POWER_ON (R548): VDD_GRD rises past 0.6 V, FAULT_N is held low from then on, and the Guard die is in S0 with POWER_ON as the cold-reset cause. -/
  | powerOn
  /-- FLASH_TIMEOUT (R106): An image slot is not read within 15,000 lines, so the boot ROM records FLASH_TIMEOUT for that slot and tries slot B or host download, or stops. -/
  | flashTimeout
  /-- PCIE_SPEED_CHANGE (R122): The link changes SPEED or WIDTH while up, which updates HOST.LINK_STAT and sets HOST.EVT_STAT.SPEED_CHANGE. -/
  | pcieSpeedChange (speed width : Nat)
  /-- PHY_UP_CHANGE (R329): A camera port's receiver gains or loses lock to its link, and CAM.PORT_STAT.PHY_UP follows. -/
  | phyUpChange (port : Nat) (up : Bool)
  /-- TIMER_TICK (R423): On a PERCLK edge, a channel clocked every PERCLK (CLK 0) ticks below PERIOD − 1, and OUT falls when CNT becomes CMP. -/
  | timerTick (c : Nat)
  deriving DecidableEq, Repr

end Sys2Proof
end

