-- ==== Sys2Proof/WellFormed.lean ====
section
/-! DEFINITION. Which commands are well formed: the operands lie in the ranges that the named rules give them. A command
out of range has no hardware event that it could stand for; its meaning leaves the block as it was. -/
namespace Sys2Proof

/-- An origin of a register access (R76): a tenant, PF0, the boot ROM, a main hart, an engine, the debugger, a peer, the
Hymnal or Weevil. -/
def originOk (o : Nat) : Bool := decide (1 ≤ o) && decide (o ≤ 0x4B) && o != 0x43

/-- A register access: an origin of R76, and at least one byte of at most two words. -/
def Req.wf (q : Req) : Bool := originOk q.origin && decide (1 ≤ q.be) && decide (q.be ≤ 255)

/-- The operands of a command lie in their ranges. -/
def Instr.wf : Instr → Bool
  | .porstNRise straps => decide (straps < 8)
  | .porstNPulse _ straps => decide (straps < 8)
  | .vddGrdLoss => true
  | .xspiFirstRead => true
  | .guardResetCold q _ => q.wf
  | .warmNPulse _ => true
  | .guardResetWarm q _ => q.wf
  | .guardResetStave q _ => q.wf
  | .rootLock => true
  | .rootLockTimeout => true
  | .dividerRelease => true
  | .hartClockSwitch => true
  | .lockLost => true
  | .xpllLost pll => decide (2 ≤ pll) && decide (pll ≤ 5)
  | .refCheck _ => true
  | .imageSlotCheck _ => true
  | .bootStageTimeout _ _ => true
  | .tuneLoad _ => true
  | .ddrTrainDone _ => true
  | .fabricInitDone => true
  | .s5Complete _ _ => true
  | .dlGo => true
  | .dlRestart => true
  | .dlData _ => true
  | .dlVerifyDone => true
  | .otpProg q _ => q.wf
  | .otpProgDone => true
  | .tuneRecDataRead o => originOk o
  | .tuneBufDataWrite q _ => q.wf
  | .tuneUnlock q _ => q.wf
  | .tuneUnlockExpiry => true
  | .tuneCommitGo q _ => q.wf
  | .tuneProgDone _ => true
  | .lineBoundary _ => true
  | .staveBoundary _ => true
  | .nowLoRead o _ => originOk o
  | .snumLoadArm q _ => q.wf
  | .head1DivWrite q _ => q.wf
  | .registerWrite q _ _ => q.wf
  | .rollHeldWrite => true
  | .evtSetWrite q page _ => q.wf && decide (page ≤ 0x440)
  | .stageDiscard q page _ => q.wf && decide (page ≤ 0x440)
  | .softReset q page _ => q.wf && decide (page ≤ 0x440)
  | .blockResetDone page => decide (page ≤ 0x440)
  | .pageOwnerWrite q page _ => q.wf && decide (page ≤ 0x440)
  | .pageWmaskWrite q page _ => q.wf && decide (page ≤ 0x440)
  | .guardHdrLock q _ => q.wf
  | .allHdrLock q _ => q.wf
  | .rollModeWrite q _ => q.wf
  | .rollTailWrite q _ => q.wf
  | .rollRdSeqWrite q _ => q.wf
  | .rollRdData0Read o _ => originOk o
  | .rollRdData7Read o => originOk o
  | .pcieLinkUp _ _ => true
  | .pcieLinkDown => true
  | .pcieHotReset => true
  | .pciePerst _ => true
  | .vfFlr n => decide (1 ≤ n) && decide (n ≤ 64)
  | .vfEnableClear => true
  | .vfEnableSet => true
  | .numvfsWrite v => decide (v ≤ 64)
  | .pf0Flr => true
  | .pmcsrD3hot fn => decide (fn ≤ 64)
  | .pmcsrD0 fn => decide (fn ≤ 64)
  | .bmeClear fn => decide (fn ≤ 64)
  | .bmeSet fn => decide (fn ≤ 64)
  | .hostReadFailure _ => true
  | .poisonedWriteDrop => true
  | .windowAccess off _ _ => decide (off < 0x10000000)
  | .aspmL0sEntry => true
  | .aspmL1Entry => true
  | .pmeTurnOff => true
  | .msixUnmask fn _ => decide (fn ≤ 64)
  | .hostNpOutRead o => originOk o
  | .tenRingsWrite q n _ => q.wf && decide (n < 65)
  | .tenEnable q n _ => q.wf && decide (n < 65)
  | .tenDisable q n _ => q.wf && decide (n < 65)
  | .tenGuarWrite q n _ => q.wf && decide (n < 65)
  | .tenCeilWrite q n _ => q.wf && decide (n < 65)
  | .tenPrioWrite q n _ => q.wf && decide (n < 65)
  | .jobQuotaWrite q n _ => q.wf && decide (n < 65)
  | .tenantMbox q n _ => q.wf && decide (n < 65)
  | .ringEnable q r _ => q.wf && decide (r < 16384)
  | .ringDisable q r _ => q.wf && decide (r < 16384)
  | .ringReset q r _ => q.wf && decide (r < 16384)
  | .ringResetDone r => decide (r < 16384)
  | .sqTailDoorbell q _ _ _ => q.wf
  | .cqHeadDoorbell q _ _ => q.wf
  | .descriptorFetch r => decide (r < 16384)
  | .descriptorArrival r _ => decide (r < 16384)
  | .fragmentHeaderArrival r _ _ => decide (r < 16384)
  | .modExpiry r => decide (r < 16384)
  | .modWrite q r _ => q.wf && decide (r < 16384)
  | .ringVectorWrite q r _ => q.wf && decide (r < 16384)
  | .msixAfterL0 => true
  | .poolAlloc port pool => decide (port < 32) && decide (pool < 128)
  | .poolFree pool _ => decide (pool < 128)
  | .poolSwReq q _ => q.wf
  | .poolSwFree q _ => q.wf
  | .evcDoorbell q _ => q.wf
  | .evcRaise _ _ => true
  | .evcRaiseHeld => true
  | .fwdCommit k => decide (k < 64)
  | .evcClaim o => originOk o
  | .evcComplete q _ => q.wf
  | .evcPendSet q word _ => q.wf && decide (word < 128)
  | .evcPendClear q word _ => q.wf && decide (word < 128)
  | .evcCfgWrite q word _ => q.wf && decide (word < 2048)
  | .memoryAccess _ _ half _ kind _ _ _ => decide (half < 2) && decide (kind ≤ 3)
  | .accessComplete _ _ _ _ => true
  | .flogTailWrite q page _ => q.wf && decide (page ≤ 0x440)
  | .invGo q _ => q.wf
  | .invDone => true
  | .refreshSlot c => decide (c < 8)
  | .mr4Poll c rate => decide (c < 8) && decide (rate < 8)
  | .dramcEnableWrite q c _ => q.wf && decide (c < 8)
  | .scrubRead c _ cls => decide (c < 8) && decide (cls ≤ 4)
  | .scrubPassEnd c => decide (c < 8)
  | .nrcInvArm q h _ => q.wf && decide (h < 2)
  | .bridgeReplay => true
  | .bridgeDown => true
  | .scoreLoadGo q _ => q.wf
  | .scoreLoadDone => true
  | .scoreLoadCancel q _ => q.wf
  | .taskFire core => decide (core < 32)
  | .taskSlip core => decide (core < 32)
  | .fencedTaskCancel core => decide (core < 32)
  | .taskEnd core => decide (core < 32)
  | .spanEnd half _ => decide (half < 2)
  | .tokenArrival _ => true
  | .cantorTokenWrite q h _ => q.wf && decide (h < 2)
  | .cantorTokenAtWrite q h _ => q.wf && decide (h < 2)
  | .commandFetch core _ _ => decide (core < 32)
  | .commandComplete core _ => decide (core < 32)
  | .nop core => decide (core < 32)
  | .load core _ => decide (core < 32)
  | .store core _ => decide (core < 32)
  | .atomicAdd core _ => decide (core < 32)
  | .atomicMax core _ => decide (core < 32)
  | .mma core => decide (core < 32)
  | .conv core => decide (core < 32)
  | .ewiseAdd core => decide (core < 32)
  | .ewiseSub core => decide (core < 32)
  | .ewiseMul core => decide (core < 32)
  | .ewiseMax core => decide (core < 32)
  | .ewiseMin core => decide (core < 32)
  | .ewiseCvt core => decide (core < 32)
  | .ewiseAbs core => decide (core < 32)
  | .ewiseNeg core => decide (core < 32)
  | .act core => decide (core < 32)
  | .poolMax core => decide (core < 32)
  | .poolAvg core => decide (core < 32)
  | .reduceSum core => decide (core < 32)
  | .reduceMax core => decide (core < 32)
  | .reduceMin core => decide (core < 32)
  | .reduceArgmax core => decide (core < 32)
  | .reduceArgmin core => decide (core < 32)
  | .transpose core => decide (core < 32)
  | .scale core => decide (core < 32)
  | .sig core => decide (core < 32)
  | .token core => decide (core < 32)
  | .cameraFs port vc _ _ => decide (port < 8) && decide (vc < 16)
  | .cameraFe port vc _ _ => decide (port < 8) && decide (vc < 16)
  | .cameraLongPacket port vc dt _ _ _ _ => decide (port < 8) && decide (vc < 16) && decide (0x10 ≤ dt) && decide (dt < 0x40)
  | .cameraOtherShortPacket port vc dt _ _ => decide (port < 8) && decide (vc < 16) && decide (2 ≤ dt) && decide (dt < 0x10)
  | .cameraDetach stream => decide (stream < 32)
  | .groupHoldExpiry g => decide (g < 4)
  | .camRelease q port _ => q.wf && decide (port < 8)
  | .chaferWindowStart h _ => decide (h < 2)
  | .chaferOpenTake h _ => decide (h < 2)
  | .chaferSetupDone h _ => decide (h < 2)
  | .chaferEvalEnd h _ _ => decide (h < 2)
  | .chaferSurveyToken h => decide (h < 2)
  | .chaferLate h => decide (h < 2)
  | .setBoundary h _ => decide (h < 2)
  | .displayLineStart h _ => decide (h < 2)
  | .spriteTableFetch h _ => decide (h < 2)
  | .lineTableFetch h => decide (h < 2)
  | .lineTableLoaded h => decide (h < 2)
  | .palDataWrite q h _ => q.wf && decide (h < 2)
  | .palDataRead o h => originOk o && decide (h < 2)
  | .safeOnlyWrite q h _ => q.wf && decide (h < 2)
  | .dsiGenGo q _ => q.wf
  | .dsiGenSend => true
  | .choirKeyOnWrite q _ => q.wf
  | .keyOnAllocate => true
  | .keyOff q _ => q.wf
  | .audioSample _ _ => true
  | .xpNodeWrite q _ => q.wf
  | .domainCSample => true
  | .asrcLock p => decide (p < 4)
  | .asrcUnlock p => decide (p < 4)
  | .tdmFrameReceive p _ _ => decide (p < 4)
  | .timerTerminalTick c => decide (c < 16)
  | .timerSwReset q c _ => q.wf && decide (c < 16)
  | .timerSwCap q c _ => q.wf && decide (c < 16)
  | .timerCapture c _ => decide (c < 16)
  | .capPopRead o c => originOk o && decide (c < 16)
  | .timerSnap q _ => q.wf
  | .ethRxFrame m _ => decide (m < 2)
  | .ethRxHeadWrite q m _ => q.wf && decide (m < 2)
  | .ethTxqTailWrite q m k _ => q.wf && decide (m < 2) && decide (k < 8)
  | .ethTxStart m => decide (m < 2)
  | .ethTxDone m => decide (m < 2)
  | .ethLinkChange m _ speed _ => decide (m < 2) && decide (speed < 4)
  | .i3cPrivateXfer q b _ => q.wf && decide (b < 4)
  | .i2cXfer q b _ => q.wf && decide (b < 4)
  | .broadcastCcc q b _ => q.wf && decide (b < 4)
  | .entdaa q b _ => q.wf && decide (b < 4)
  | .directCcc q b _ => q.wf && decide (b < 4)
  | .i3cXferDone b _ _ _ => decide (b < 4)
  | .i3cIbi b _ _ => decide (b < 4)
  | .ibiPopRead o b => originOk o && decide (b < 4)
  | .spiCtlGo q k _ => q.wf && decide (k < 2)
  | .spiTimedStart k => decide (k < 2)
  | .spiCtlDone k _ => decide (k < 2)
  | .spiTgtWrite off _ => decide (off < 128)
  | .spiTgtRead off _ => decide (off < 128)
  | .spiTgtStatus => true
  | .spiTgtBadcmd => true
  | .spiPublish q _ => q.wf
  | .spiPublishApply => true
  | .spiRxFullClear q _ => q.wf
  | .gpioEdge pin _ => decide (pin < 32)
  | .gpioOutSet q _ => q.wf
  | .gpioOutClr q _ => q.wf
  | .roundSignature _ => true
  | .roundDeadline _ => true
  | .unisonMismatch h _ => decide (h < 4)
  | .hartRestart q h _ => q.wf && decide (h < 4)
  | .awCfgWrite q w _ => q.wf && decide (w < 256)
  | .awFeedWrite q _ => q.wf
  | .ageExpiry w => decide (w < 256)
  | .safetyFenceWrite q _ => q.wf
  | .faultRaiseWrite q _ => q.wf
  | .classMapWrite q _ => q.wf
  | .classLockWrite q _ => q.wf
  | .pinReleaseWrite q _ => q.wf
  | .faultNRelease => true
  | .wdogCfgWrite q _ => q.wf
  | .wdogKick q _ => q.wf
  | .wdogExpiry => true
  | .slinkEnable q port _ => q.wf && decide (port < 2)
  | .slinkTrained port _ => decide (port < 2)
  | .slinkTrainTimeout port => decide (port < 2)
  | .slinkRetrain port => decide (port < 2)
  | .slinkIdSend port => decide (port < 2)
  | .slinkRxIdle port flit => decide (port < 2) && decide (flit.length = 32)
  | .slinkRxId port flit => decide (port < 2) && decide (flit.length = 32)
  | .slinkRxWrite port flit => decide (port < 2) && decide (flit.length = 32)
  | .slinkRxEvent port flit => decide (port < 2) && decide (flit.length = 32)
  | .slinkRxAfterFault port flit => decide (port < 2) && decide (flit.length = 32)
  | .slinkRxBarrier port flit _ => decide (port < 2) && decide (flit.length = 32)
  | .slinkRxCal port flit => decide (port < 2) && decide (flit.length = 32)
  | .calEchoSend => true
  | .slinkRxCalEcho port flit _ => decide (port < 2) && decide (flit.length = 32)
  | .slinkRxNak port flit => decide (port < 2) && decide (flit.length = 32)
  | .slinkRxReserved port flit => decide (port < 2) && decide (flit.length = 32)
  | .slinkRxBadCrc port flit => decide (port < 2) && decide (flit.length = 32)
  | .barrierForward => true
  | .slinkRwData q _ => q.wf
  | .slinkEvSend q _ => q.wf
  | .lockCal q _ => q.wf
  | .lockCalDone => true
  | .lockTake q _ => q.wf
  | .lockDividerRelease => true
  | .lockRelease q _ => q.wf
  | .hymnalEnable q _ => q.wf
  | .hymnalRdSeqWrite q _ => q.wf
  | .hymnalWrSeqWrite q _ => q.wf
  | .hymnalReplayIssue => true
  | .hymnalReadTimeout => true
  | .weevilArmKey1 q => q.wf
  | .weevilArmKey2 q => q.wf
  | .weevilDisarm q _ => q.wf
  | .weevilKey1Expiry => true
  | .weevilFire q _ => q.wf
  | .weevilUnitRelease _ => true
  | .debugAllowWrite q _ => q.wf
  | .debugHalt h _ _ => decide (h < 4)
  | .debugResume h => decide (h < 4)
  | .debugStep h => decide (h < 4)
  | .accessRegister h _ _ => decide (h < 4)
  | .systemBusAccess _ size _ _ => (size == 1 || size == 2 || size == 4)
  | .idcode => true
  | .extest _ => true
  | .samplePreload _ => true
  | .clamp => true
  | .highz => true
  | .bypass ir => decide (ir < 32)
  | .dtmcs _ => true
  | .dmi op _ _ => decide (op < 4)
  | .tapReset => true
  | .holdReq q _ => q.wf
  | .holdRelease q _ => q.wf
  | .traceMark q _ => q.wf
  | .traceDataRead o => originOk o
  | .avsRequest half => decide (half < 2)
  | .avsAck half => decide (half < 2)
  | .avsRetry half => decide (half < 2)
  | .powerOn => true
  | .flashTimeout => true
  | .pcieSpeedChange _ _ => true
  | .phyUpChange port _ => decide (port < 8)
  | .timerTick c => decide (c < 16)

end Sys2Proof
end

