-- ==== Sys2Proof/Decode.lean ====
section
/-! DEFINITION. The words of the command table: its rows give no bits, since a command is an event of the block and no
instruction word, so no word spells a command. -/
namespace Sys2Proof

/-- The command that a word spells by the table's bits: none, since no row of spec/opcode_table.json gives bits. -/
def decodeTableWord (_nbits _w : Nat) : Option Instr := none

end Sys2Proof
end

