-- ==== Sys2Proof/Machine/Tables.lean ====
section
/-! DEFINITION. Sparse tables: lists of (key, value) pairs with keys strictly rising. The register file, the memories
and the per-instance tables of the device are such lists; an absent key reads as the table's default. -/
namespace Sys2Proof.Machine

/-- The entry under a key, if the table lists one. -/
def kvFind {α : Type} : List (Nat × α) → Nat → Option α
  | [], _ => none
  | (k, v) :: r, x => if x == k then some v else kvFind r x

/-- A table without the entry under a key. -/
def kvErase {α : Type} : List (Nat × α) → Nat → List (Nat × α)
  | [], _ => []
  | (k, v) :: r, x => if x == k then kvErase r x else (k, v) :: kvErase r x

/-- A table with an entry put under a key, keys kept rising. -/
def kvInsert {α : Type} : List (Nat × α) → Nat → α → List (Nat × α)
  | [], x, w => [(x, w)]
  | (k, v) :: r, x, w =>
    if x < k then (x, w) :: (k, v) :: r
    else if x == k then (x, w) :: r
    else (k, v) :: kvInsert r x w

/-- A table with a value under a key: an entry equal to the default is not listed. -/
def kvPut {α : Type} [DecidableEq α] (dflt : α) (l : List (Nat × α)) (k : Nat) (v : α) : List (Nat × α) :=
  if v = dflt then kvErase l k else kvInsert l k v

/-- The value under a key, or the default. -/
def kvGet {α : Type} (dflt : α) (l : List (Nat × α)) (k : Nat) : α :=
  (kvFind l k).getD dflt

/-- Keys are strictly rising. -/
def kvSorted {α : Type} : List (Nat × α) → Bool
  | [] => true
  | [_] => true
  | (a, _) :: (b, w) :: r => decide (a < b) && kvSorted ((b, w) :: r)

/-- The n-th element of a list replaced, or the list itself beyond its end. -/
def setAt {α : Type} : List α → Nat → α → List α
  | [], _, _ => []
  | _ :: r, 0, v => v :: r
  | a :: r, n + 1, v => a :: setAt r n v

/-- The n-th element of a list dropped. -/
def dropAt {α : Type} : List α → Nat → List α
  | [], _ => []
  | _ :: r, 0 => r
  | a :: r, n + 1 => a :: dropAt r n

end Sys2Proof.Machine
end

