-- ==== Sys2Proof/Machine/Bits.lean ====
section
/-! DEFINITION. Bit fields, saturating and wrapping counts, and byte order (R6: little-endian). -/
namespace Sys2Proof.Machine

/-- Bits hi to lo of a number. -/
def bits (w hi lo : Nat) : Nat := (w / 2 ^ lo) % 2 ^ (hi + 1 - lo)

/-- One bit of a number. -/
def bit (w n : Nat) : Bool := (w / 2 ^ n) % 2 == 1

/-- A number with bits hi to lo replaced. -/
def setBits (w hi lo v : Nat) : Nat :=
  w - bits w hi lo * 2 ^ lo + (v % 2 ^ (hi + 1 - lo)) * 2 ^ lo

/-- A flag as a number. -/
def b2n (b : Bool) : Nat := if b then 1 else 0

/-- A 32-bit word of a number. -/
def w32 (n : Nat) : W32 := BitVec.ofNat 32 n

/-- Bits hi to lo of a register word. -/
def fld (w : W32) (hi lo : Nat) : Nat := bits w.toNat hi lo

/-- One bit of a register word. -/
def fbit (w : W32) (n : Nat) : Bool := bit w.toNat n

/-- A register word with bits hi to lo replaced. -/
def setFld (w : W32) (hi lo v : Nat) : W32 := w32 (setBits w.toNat hi lo v)

/-- The mask of bits hi to lo. -/
def maskOf (hi lo : Nat) : W32 := w32 ((2 ^ (hi + 1 - lo) - 1) * 2 ^ lo)

/-- A 32-bit count that saturates at 0xFFFF_FFFF. -/
def satAdd (w : W32) (n : Nat) : W32 := w32 (min (w.toNat + n) 0xFFFFFFFF)

/-- Difference modulo 2^32. -/
def sub32 (a b : Nat) : Nat := (a + 0x100000000 - b % 0x100000000) % 0x100000000

/-- a lies between lo and hi inclusive, modulo 2^32 (R95, R151). -/
def between32 (a lo hi : Nat) : Bool := decide (sub32 a lo ≤ sub32 hi lo)

/-- Two's complement value of an n-bit field. -/
def signed (n v : Nat) : Int := if v % 2 ^ n < 2 ^ (n - 1) then (v % 2 ^ n : Nat) else ((v % 2 ^ n : Nat) : Int) - (2 ^ n : Nat)

/-- An integer as an n-bit two's complement field. -/
def unsigned (n : Nat) (v : Int) : Nat := (v % ((2 ^ n : Nat) : Int)).toNat

/-- Clamp to a signed n-bit range. -/
def satSigned (n : Nat) (v : Int) : Int := max (-((2 ^ (n - 1) : Nat) : Int)) (min v (((2 ^ (n - 1) : Nat) : Int) - 1))

/-- The number spelled by bytes, least significant first (R6). -/
def fromLE : List Byte → Nat
  | [] => 0
  | b :: r => b.toNat + 256 * fromLE r

/-- n bytes of a number, least significant first (R6). -/
def toLE : Nat → Nat → List Byte
  | 0, _ => []
  | n + 1, v => BitVec.ofNat 8 v :: toLE n (v / 256)

/-- Bytes lo to lo + n − 1 of a byte string as a little-endian number; bytes beyond its end read 0. -/
def leAt (l : List Byte) (lo n : Nat) : Nat := fromLE ((l.drop lo).take n)

/-- The number of set bits among the low n. -/
def popcount : Nat → Nat → Nat
  | 0, _ => 0
  | n + 1, v => v % 2 + popcount n (v / 2)

/-- a / b rounded up. -/
def ceilDiv (a b : Nat) : Nat := (a + b - 1) / b

end Sys2Proof.Machine
end

