-- ==== Sys2Proof/Machine/RegNames.lean ====
section
/-! DEFINITION. Names of pages and registers: the page number of instance 0 (R60) and, for each register, its
register-space offset in instance 0 (element 0 of an array). -/
namespace Sys2Proof.Machine

/-- Page GUARD (05_bringup_and_tuning.md) -/
abbrev Pg.GUARD : Nat := 0x1
abbrev Rg.GUARD_RESET : Nat := 0x1040
abbrev Rg.GUARD_RESET_CAUSE : Nat := 0x1044
abbrev Rg.GUARD_SEC : Nat := 0x1048
abbrev Rg.GUARD_OTP_ADDR : Nat := 0x104C
abbrev Rg.GUARD_OTP_DATA : Nat := 0x1050
abbrev Rg.GUARD_OTP_PROG : Nat := 0x1054
/-- Page BOOT (05_bringup_and_tuning.md) -/
abbrev Pg.BOOT : Nat := 0x2
abbrev Rg.BOOT_STAT : Nat := 0x2040
abbrev Rg.BOOT_FAIL_INFO : Nat := 0x2044
abbrev Rg.BOOT_STRAP : Nat := 0x2048
abbrev Rg.BOOT_DROPS : Nat := 0x204C
abbrev Rg.BOOT_S_ENTRY : Nat := 0x2050
/-- Page TUNE (05_bringup_and_tuning.md) -/
abbrev Pg.TUNE : Nat := 0x3
abbrev Rg.TUNE_STAT : Nat := 0x3040
abbrev Rg.TUNE_WCOUNT : Nat := 0x3044
abbrev Rg.TUNE_UNLOCK : Nat := 0x3048
abbrev Rg.TUNE_COMMIT : Nat := 0x304C
abbrev Rg.TUNE_REC_IDX : Nat := 0x3050
abbrev Rg.TUNE_REC_DATA : Nat := 0x3054
abbrev Rg.TUNE_BUF_IDX : Nat := 0x3058
abbrev Rg.TUNE_BUF_DATA : Nat := 0x305C
/-- Page ROLL (04_authority_and_change_roll.md) -/
abbrev Pg.ROLL : Nat := 0x4
abbrev Rg.ROLL_CTRL : Nat := 0x4040
abbrev Rg.ROLL_NEXT_SEQ : Nat := 0x4044
abbrev Rg.ROLL_OLDEST_SEQ : Nat := 0x4048
abbrev Rg.ROLL_TAIL_SEQ : Nat := 0x404C
abbrev Rg.ROLL_LOST : Nat := 0x4050
abbrev Rg.ROLL_OVERRUN : Nat := 0x4054
abbrev Rg.ROLL_FILL : Nat := 0x4058
abbrev Rg.ROLL_THRESH : Nat := 0x405C
abbrev Rg.ROLL_RD_SEQ : Nat := 0x4060
abbrev Rg.ROLL_RD_STAT : Nat := 0x4064
abbrev Rg.ROLL_RD_DATA : Nat := 0x4080
/-- Page AUTH (04_authority_and_change_roll.md) -/
abbrev Pg.AUTH : Nat := 0x5
abbrev Rg.AUTH_LOCK : Nat := 0x5040
abbrev Rg.AUTH_LAST_REFUSED : Nat := 0x5044
abbrev Rg.AUTH_ORIGIN_OF : Nat := 0x5048
/-- Page SAFETY (21_safety.md) -/
abbrev Pg.SAFETY : Nat := 0x6
abbrev Rg.SAFETY_FENCE : Nat := 0x6040
abbrev Rg.SAFETY_COUNTS : Nat := 0x6060
abbrev Rg.SAFETY_RLOG_HEAD : Nat := 0x6080
abbrev Rg.SAFETY_RLOG_TAIL : Nat := 0x6084
abbrev Rg.SAFETY_RLOG_LOST : Nat := 0x6088
abbrev Rg.SAFETY_RLOG : Nat := 0x6400
abbrev Rg.SAFETY_ROUND_EN : Nat := 0x6800
/-- Page AGEWATCH (21_safety.md) -/
abbrev Pg.AGEWATCH : Nat := 0x7
abbrev Rg.AGEWATCH_AW_SEL : Nat := 0x7040
abbrev Rg.AGEWATCH_AW_AGE : Nat := 0x7044
abbrev Rg.AGEWATCH_AW_FEED : Nat := 0x7048
abbrev Rg.AGEWATCH_AW_EXP : Nat := 0x7080
abbrev Rg.AGEWATCH_EXPIRIES : Nat := 0x70A0
abbrev Rg.AGEWATCH_AW_CFG : Nat := 0x7400
abbrev Rg.AGEWATCH_AW_CTRL : Nat := 0x7800
abbrev Rg.AGEWATCH_AW_GATE : Nat := 0x7E00
/-- Page FAULT (21_safety.md) -/
abbrev Pg.FAULT : Nat := 0x8
abbrev Rg.FAULT_CLASS_MAP : Nat := 0x8040
abbrev Rg.FAULT_CLASS_LOCK : Nat := 0x8044
abbrev Rg.FAULT_PIN : Nat := 0x8048
abbrev Rg.FAULT_PIN_CFG : Nat := 0x804C
abbrev Rg.FAULT_RAISE : Nat := 0x8050
abbrev Rg.FAULT_WDOG_CFG : Nat := 0x8054
abbrev Rg.FAULT_WDOG_KICK : Nat := 0x8058
abbrev Rg.FAULT_WDOG_AGE : Nat := 0x805C
abbrev Rg.FAULT_CAUSE_CNT : Nat := 0x8084
abbrev Rg.FAULT_FLOG_HEAD : Nat := 0x80C0
abbrev Rg.FAULT_FLOG_TAIL : Nat := 0x80C4
abbrev Rg.FAULT_FLOG_LOST : Nat := 0x80C8
abbrev Rg.FAULT_FLOG : Nat := 0x8400
/-- Page WEEVIL (23_weevil_and_debug.md) -/
abbrev Pg.WEEVIL : Nat := 0x9
abbrev Rg.WEEVIL_STAT : Nat := 0x9040
abbrev Rg.WEEVIL_ARM : Nat := 0x9044
abbrev Rg.WEEVIL_FIRE : Nat := 0x9048
abbrev Rg.WEEVIL_COUNTS : Nat := 0x9050
abbrev Rg.WEEVIL_WV_CTRL : Nat := 0x9100
abbrev Rg.WEEVIL_WV_TARG : Nat := 0x9104
abbrev Rg.WEEVIL_WV_PER : Nat := 0x9108
abbrev Rg.WEEVIL_WV_MMASK : Nat := 0x910C
abbrev Rg.WEEVIL_WV_MVAL : Nat := 0x9110
abbrev Rg.WEEVIL_WV_ARG : Nat := 0x9114
abbrev Rg.WEEVIL_WV_DATA : Nat := 0x9118
abbrev Rg.WEEVIL_WV_HITS : Nat := 0x911C
/-- Page DEBUG (23_weevil_and_debug.md) -/
abbrev Pg.DEBUG : Nat := 0xA
abbrev Rg.DEBUG_STAT : Nat := 0xA040
abbrev Rg.DEBUG_CTRL : Nat := 0xA044
abbrev Rg.DEBUG_HOLD_CTRL : Nat := 0xA048
abbrev Rg.DEBUG_HOLD_LINE : Nat := 0xA04C
abbrev Rg.DEBUG_HOLD_STAT : Nat := 0xA050
abbrev Rg.DEBUG_HOLD_CUT : Nat := 0xA054
abbrev Rg.DEBUG_HOLDS : Nat := 0xA058
abbrev Rg.DEBUG_TRACE_CTRL : Nat := 0xA080
abbrev Rg.DEBUG_TRACE_HEAD : Nat := 0xA084
abbrev Rg.DEBUG_TRACE_LOST : Nat := 0xA088
abbrev Rg.DEBUG_TRACE_MARK : Nat := 0xA08C
abbrev Rg.DEBUG_TRACE_IDX : Nat := 0xA090
abbrev Rg.DEBUG_TRACE_DATA : Nat := 0xA094
/-- Page HART (21_safety.md) -/
abbrev Pg.HART : Nat := 0xC
abbrev Rg.HART_STAT : Nat := 0xC040
abbrev Rg.HART_ENTRY : Nat := 0xC044
abbrev Rg.HART_CTRL : Nat := 0xC048
abbrev Rg.HART_MISMATCHES : Nat := 0xC04C
abbrev Rg.HART_RESTARTS : Nat := 0xC050
abbrev Rg.HART_MIS_PC : Nat := 0xC054
/-- Page STAVE (01_stave.md) -/
abbrev Pg.STAVE : Nat := 0x10
abbrev Rg.STAVE_NOW_LO : Nat := 0x10040
abbrev Rg.STAVE_NOW_HI : Nat := 0x10044
abbrev Rg.STAVE_GEOM : Nat := 0x10048
abbrev Rg.STAVE_STAT : Nat := 0x1004C
abbrev Rg.STAVE_SNUM_LOAD_LO : Nat := 0x10050
abbrev Rg.STAVE_SNUM_LOAD_HI : Nat := 0x10054
abbrev Rg.STAVE_CTRL : Nat := 0x10058
abbrev Rg.STAVE_MARK_LINE : Nat := 0x1005C
/-- Page CLOCK (01_stave.md) -/
abbrev Pg.CLOCK : Nat := 0x11
abbrev Rg.CLOCK_ROOT_CFG : Nat := 0x11040
abbrev Rg.CLOCK_STAT : Nat := 0x11044
abbrev Rg.CLOCK_HEAD1_DIV : Nat := 0x11048
abbrev Rg.CLOCK_REF_PPM : Nat := 0x1104C
/-- Page TIMER (19_timers.md) -/
abbrev Pg.TIMER : Nat := 0x12
abbrev Rg.TIMER_CH_CNT : Nat := 0x12040
abbrev Rg.TIMER_CH_STAT : Nat := 0x12080
abbrev Rg.TIMER_CH_CTRL : Nat := 0x120C0
abbrev Rg.TIMER_CAP_POP : Nat := 0x12100
abbrev Rg.TIMER_CAP_ST_LO : Nat := 0x12104
abbrev Rg.TIMER_CAP_ST_HI : Nat := 0x12108
abbrev Rg.TIMER_CAP_INFO : Nat := 0x1210C
abbrev Rg.TIMER_SNAP : Nat := 0x12200
abbrev Rg.TIMER_SNAP_ST_LO : Nat := 0x12204
abbrev Rg.TIMER_SNAP_ST_HI : Nat := 0x12208
abbrev Rg.TIMER_CAP_LOST : Nat := 0x1220C
abbrev Rg.TIMER_SNAP_CNT : Nat := 0x12240
abbrev Rg.TIMER_CH_TERMS : Nat := 0x12280
abbrev Rg.TIMER_CFG : Nat := 0x12800
abbrev Rg.TIMER_PERIOD : Nat := 0x12804
abbrev Rg.TIMER_CMP : Nat := 0x12808
abbrev Rg.TIMER_PHASE : Nat := 0x1280C
abbrev Rg.TIMER_CAP_CFG : Nat := 0x12900
/-- Page EVC (09_event_controller.md) -/
abbrev Pg.EVC : Nat := 0x13
abbrev Rg.EVC_DOORBELL : Nat := 0x13040
abbrev Rg.EVC_CLAIM : Nat := 0x13044
abbrev Rg.EVC_COMPLETE : Nat := 0x13048
abbrev Rg.EVC_HART_STAT : Nat := 0x13050
abbrev Rg.EVC_LP_MASK : Nat := 0x13060
abbrev Rg.EVC_SAT_LAST : Nat := 0x13064
abbrev Rg.EVC_FWD : Nat := 0x13100
/-- Page EVCSRC (09_event_controller.md) -/
abbrev Pg.EVCSRC : Nat := 0x14
abbrev Rg.EVCSRC_PEND : Nat := 0x14040
abbrev Rg.EVCSRC_PEND_SET : Nat := 0x14080
abbrev Rg.EVCSRC_ACT : Nat := 0x140C0
abbrev Rg.EVCSRC_TGT : Nat := 0x14100
abbrev Rg.EVCSRC_CFG : Nat := 0x14400
abbrev Rg.EVCSRC_COUNT : Nat := 0x14E00
/-- Page HOST (06_host_link_and_tenants.md) -/
abbrev Pg.HOST : Nat := 0x20
abbrev Rg.HOST_LINK_STAT : Nat := 0x20040
abbrev Rg.HOST_ASPM_IDLE : Nat := 0x20044
abbrev Rg.HOST_WIN_BASE : Nat := 0x20048
abbrev Rg.HOST_NP_OUT : Nat := 0x2004C
abbrev Rg.HOST_CPL_ERR : Nat := 0x20050
abbrev Rg.HOST_POISON_DROPS : Nat := 0x20054
abbrev Rg.HOST_WIN_DROPS : Nat := 0x20058
/-- Page SRIOV (06_host_link_and_tenants.md) -/
abbrev Pg.SRIOV : Nat := 0x21
abbrev Rg.SRIOV_VF_STAT : Nat := 0x21040
abbrev Rg.SRIOV_TEN_STAT : Nat := 0x21200
abbrev Rg.SRIOV_TEN_RINGS : Nat := 0x213F0
abbrev Rg.SRIOV_TEN_GUAR : Nat := 0x213F4
abbrev Rg.SRIOV_TEN_CEIL : Nat := 0x213F8
abbrev Rg.SRIOV_TEN_CFG : Nat := 0x213FC
/-- Page ADMIT (07_rings_and_admission.md) -/
abbrev Pg.ADMIT : Nat := 0x22
abbrev Rg.ADMIT_RR_NEXT : Nat := 0x22040
abbrev Rg.ADMIT_LAST_STOP : Nat := 0x22044
abbrev Rg.ADMIT_COUNTS : Nat := 0x22048
abbrev Rg.ADMIT_CORE_MASK : Nat := 0x22800
abbrev Rg.ADMIT_LIMITS : Nat := 0x22804
/-- Page POOL (07_rings_and_admission.md) -/
abbrev Pg.POOL : Nat := 0x23
abbrev Rg.POOL_ARENA_LO : Nat := 0x23040
abbrev Rg.POOL_ARENA_HI : Nat := 0x23044
abbrev Rg.POOL_LAST_EMPTY : Nat := 0x23048
abbrev Rg.POOL_BAD_FREE : Nat := 0x2304C
abbrev Rg.POOL_STALE_FREE : Nat := 0x23050
abbrev Rg.POOL_SW_REQ : Nat := 0x23060
abbrev Rg.POOL_SW_RESULT : Nat := 0x23064
abbrev Rg.POOL_SW_FREE : Nat := 0x23068
abbrev Rg.POOL_POOL_CFG : Nat := 0x23800
abbrev Rg.POOL_POOL_STAT : Nat := 0x23E00
/-- Page HYMNAL (22_stave_link_and_hymnal.md) -/
abbrev Pg.HYMNAL : Nat := 0x24
abbrev Rg.HYMNAL_STAT : Nat := 0x24040
abbrev Rg.HYMNAL_WR_SEQ : Nat := 0x24044
abbrev Rg.HYMNAL_RD_SEQ : Nat := 0x24048
abbrev Rg.HYMNAL_LOST : Nat := 0x2404C
abbrev Rg.HYMNAL_ISOLATED : Nat := 0x24050
abbrev Rg.HYMNAL_DIV_SEQ : Nat := 0x24054
abbrev Rg.HYMNAL_DELTA_LO : Nat := 0x24058
abbrev Rg.HYMNAL_DELTA_HI : Nat := 0x2405C
abbrev Rg.HYMNAL_CFG : Nat := 0x24C00
abbrev Rg.HYMNAL_REC_MASK : Nat := 0x24C04
abbrev Rg.HYMNAL_RING_LO : Nat := 0x24C08
abbrev Rg.HYMNAL_RING_HI : Nat := 0x24C0C
abbrev Rg.HYMNAL_RING_ORDER : Nat := 0x24C10
/-- Page MMU (10_address_translation.md) -/
abbrev Pg.MMU : Nat := 0x28
abbrev Rg.MMU_INV_CTX : Nat := 0x28040
abbrev Rg.MMU_INV_VA_LO : Nat := 0x28044
abbrev Rg.MMU_INV_VA_HI : Nat := 0x28048
abbrev Rg.MMU_INV_COUNT : Nat := 0x2804C
abbrev Rg.MMU_INV_GO : Nat := 0x28050
abbrev Rg.MMU_INV_STAT : Nat := 0x28054
abbrev Rg.MMU_INV_ISSUED : Nat := 0x28058
abbrev Rg.MMU_INV_DONE : Nat := 0x2805C
abbrev Rg.MMU_FLOG_HEAD : Nat := 0x28080
abbrev Rg.MMU_FLOG_TAIL : Nat := 0x28084
abbrev Rg.MMU_FLOG_LOST : Nat := 0x28088
abbrev Rg.MMU_TLB_MISS : Nat := 0x28090
abbrev Rg.MMU_WALKS : Nat := 0x28094
abbrev Rg.MMU_ROOT_LO : Nat := 0x28100
abbrev Rg.MMU_ROOT_HI : Nat := 0x28104
abbrev Rg.MMU_FLOG : Nat := 0x28400
/-- Page CORE (13_inference_cores.md) -/
abbrev Pg.CORE : Nat := 0x40
abbrev Rg.CORE_TASK_STAT : Nat := 0x40040
abbrev Rg.CORE_CMD_IDX : Nat := 0x40044
abbrev Rg.CORE_SCRATCH_SPLIT : Nat := 0x40048
abbrev Rg.CORE_CMD_ERR : Nat := 0x40050
abbrev Rg.CORE_CMD_ERR_IDX : Nat := 0x40054
abbrev Rg.CORE_CMD_ERR_STIME_LO : Nat := 0x40058
abbrev Rg.CORE_CMD_ERR_STIME_HI : Nat := 0x4005C
abbrev Rg.CORE_CMDS : Nat := 0x40060
abbrev Rg.CORE_ARRAY_BEATS : Nat := 0x40064
abbrev Rg.CORE_MEM_STALL_BEATS : Nat := 0x40068
abbrev Rg.CORE_NRC_LOOKUP : Nat := 0x4006C
abbrev Rg.CORE_NRC_HIT : Nat := 0x40070
abbrev Rg.CORE_NRC_PARITY : Nat := 0x40074
abbrev Rg.CORE_CE_COUNT : Nat := 0x40078
abbrev Rg.CORE_UE_COUNT : Nat := 0x4007C
abbrev Rg.CORE_ERR_INFO : Nat := 0x40080
abbrev Rg.CORE_ERR_OFFSET : Nat := 0x40084
/-- Page CANTOR (12_cantor.md) -/
abbrev Pg.CANTOR : Nat := 0x60
abbrev Rg.CANTOR_SCORE_PA_LO : Nat := 0x60040
abbrev Rg.CANTOR_SCORE_PA_HI : Nat := 0x60044
abbrev Rg.CANTOR_LOAD : Nat := 0x60048
abbrev Rg.CANTOR_LOAD_STAT : Nat := 0x6004C
abbrev Rg.CANTOR_LOAD_INFO : Nat := 0x60050
abbrev Rg.CANTOR_SCORE_STAT : Nat := 0x60054
abbrev Rg.CANTOR_SCORE_ID : Nat := 0x60058
abbrev Rg.CANTOR_FENCED : Nat := 0x60060
abbrev Rg.CANTOR_USED : Nat := 0x60064
abbrev Rg.CANTOR_SLIPS : Nat := 0x60080
abbrev Rg.CANTOR_LATE_FIRES : Nat := 0x60084
abbrev Rg.CANTOR_OVERRUNS : Nat := 0x60088
abbrev Rg.CANTOR_TOK_DUP : Nat := 0x6008C
abbrev Rg.CANTOR_TOK_STALE : Nat := 0x60090
abbrev Rg.CANTOR_TOK_DROP : Nat := 0x60094
abbrev Rg.CANTOR_TOKEN : Nat := 0x600A0
abbrev Rg.CANTOR_TOKEN_AT_LINE : Nat := 0x600A4
abbrev Rg.CANTOR_TOKEN_AT : Nat := 0x600A8
abbrev Rg.CANTOR_JOB_IDX : Nat := 0x600B0
abbrev Rg.CANTOR_JOB_INFO0 : Nat := 0x600B4
abbrev Rg.CANTOR_JOB_INFO1 : Nat := 0x600B8
abbrev Rg.CANTOR_JOB_INFO2 : Nat := 0x600BC
abbrev Rg.CANTOR_JOB_INFO3 : Nat := 0x600C0
abbrev Rg.CANTOR_FLOG_HEAD : Nat := 0x600D0
abbrev Rg.CANTOR_FLOG_TAIL : Nat := 0x600D4
abbrev Rg.CANTOR_FLOG_LOST : Nat := 0x600D8
abbrev Rg.CANTOR_FLOG : Nat := 0x60400
abbrev Rg.CANTOR_ALT_FORCE : Nat := 0x60800
/-- Page LLC (11_memory_and_cache.md) -/
abbrev Pg.LLC : Nat := 0x62
abbrev Rg.LLC_NRC_INV : Nat := 0x62040
abbrev Rg.LLC_CE_COUNT : Nat := 0x62060
abbrev Rg.LLC_UE_COUNT : Nat := 0x62064
abbrev Rg.LLC_ERR_INFO : Nat := 0x62068
abbrev Rg.LLC_ERR_ADDR_LO : Nat := 0x6206C
abbrev Rg.LLC_ERR_ADDR_HI : Nat := 0x62070
abbrev Rg.LLC_LAST : Nat := 0x62080
abbrev Rg.LLC_CUM : Nat := 0x62100
abbrev Rg.LLC_CLS_POLICY : Nat := 0x62800
abbrev Rg.LLC_NRC_CTRL : Nat := 0x62804
/-- Page BRIDGE (11_memory_and_cache.md) -/
abbrev Pg.BRIDGE : Nat := 0x64
abbrev Rg.BRIDGE_STAT : Nat := 0x64040
abbrev Rg.BRIDGE_REPLAYS : Nat := 0x64044
abbrev Rg.BRIDGE_FLITS_WE : Nat := 0x64048
abbrev Rg.BRIDGE_FLITS_EW : Nat := 0x6404C
/-- Page DRAMC (11_memory_and_cache.md) -/
abbrev Pg.DRAMC : Nat := 0x65
abbrev Rg.DRAMC_STAT : Nat := 0x65040
abbrev Rg.DRAMC_REF_STOLEN : Nat := 0x65044
abbrev Rg.DRAMC_CE_COUNT : Nat := 0x65048
abbrev Rg.DRAMC_UE_COUNT : Nat := 0x6504C
abbrev Rg.DRAMC_ERR_ADDR_LO : Nat := 0x65050
abbrev Rg.DRAMC_ERR_ADDR_HI : Nat := 0x65054
abbrev Rg.DRAMC_ERR_INFO : Nat := 0x65058
abbrev Rg.DRAMC_ERR_STIME_LO : Nat := 0x6505C
abbrev Rg.DRAMC_ERR_STIME_HI : Nat := 0x65060
abbrev Rg.DRAMC_SCRUB : Nat := 0x65064
abbrev Rg.DRAMC_SCRUB_POS : Nat := 0x65068
abbrev Rg.DRAMC_PWR : Nat := 0x65C00
/-- Page CHAFER (16_chafer.md) -/
abbrev Pg.CHAFER : Nat := 0x70
abbrev Rg.CHAFER_STAT : Nat := 0x70040
abbrev Rg.CHAFER_LAT_STAT : Nat := 0x70044
abbrev Rg.CHAFER_WIN_LINE : Nat := 0x70048
abbrev Rg.CHAFER_WIN_RESULT : Nat := 0x7004C
abbrev Rg.CHAFER_COUNTS : Nat := 0x70060
abbrev Rg.CHAFER_OPEN_CFG : Nat := 0x70800
/-- Page WINGCASE (17_wingcase.md) -/
abbrev Pg.WINGCASE : Nat := 0x80
abbrev Rg.WINGCASE_HEAD_STAT : Nat := 0x80040
abbrev Rg.WINGCASE_FRAME : Nat := 0x80044
abbrev Rg.WINGCASE_HEAD_CTRL : Nat := 0x80048
abbrev Rg.WINGCASE_BG_COLOR : Nat := 0x8004C
abbrev Rg.WINGCASE_OVF_STAT : Nat := 0x80050
abbrev Rg.WINGCASE_OVF_LINES : Nat := 0x80054
abbrev Rg.WINGCASE_SPR_BASE_LO : Nat := 0x80058
abbrev Rg.WINGCASE_SPR_BASE_HI : Nat := 0x8005C
abbrev Rg.WINGCASE_COUNTS : Nat := 0x80060
abbrev Rg.WINGCASE_PAL_IDX : Nat := 0x80080
abbrev Rg.WINGCASE_PAL_DATA : Nat := 0x80084
abbrev Rg.WINGCASE_LT_PAL_IDX : Nat := 0x80088
abbrev Rg.WINGCASE_LT_PAL_DATA : Nat := 0x8008C
abbrev Rg.WINGCASE_LT1_BASE_LO : Nat := 0x80090
abbrev Rg.WINGCASE_LT1_BASE_HI : Nat := 0x80094
abbrev Rg.WINGCASE_LT1_CTRL : Nat := 0x80098
abbrev Rg.WINGCASE_COLL : Nat := 0x800A0
abbrev Rg.WINGCASE_TT_STAT : Nat := 0x800B0
abbrev Rg.WINGCASE_TP_CTRL : Nat := 0x80100
abbrev Rg.WINGCASE_P_WIN0 : Nat := 0x80104
abbrev Rg.WINGCASE_P_WIN1 : Nat := 0x80108
abbrev Rg.WINGCASE_TP_MAP_LO : Nat := 0x8010C
abbrev Rg.WINGCASE_TP_MAP_HI : Nat := 0x80110
abbrev Rg.WINGCASE_TP_PAT_LO : Nat := 0x80114
abbrev Rg.WINGCASE_TP_PAT_HI : Nat := 0x80118
abbrev Rg.WINGCASE_TP_SCROLL : Nat := 0x8011C
abbrev Rg.WINGCASE_TP_GPAL : Nat := 0x80120
abbrev Rg.WINGCASE_VP_CTRL : Nat := 0x80200
abbrev Rg.WINGCASE_VP_SRC_LO : Nat := 0x8020C
abbrev Rg.WINGCASE_VP_SRC_HI : Nat := 0x80210
abbrev Rg.WINGCASE_VP_SIZE : Nat := 0x80214
abbrev Rg.WINGCASE_VP_STRIDE : Nat := 0x80218
abbrev Rg.WINGCASE_VP_WA : Nat := 0x8021C
abbrev Rg.WINGCASE_VP_WB : Nat := 0x80220
abbrev Rg.WINGCASE_VP_WC : Nat := 0x80224
abbrev Rg.WINGCASE_VP_WD : Nat := 0x80228
abbrev Rg.WINGCASE_VP_TX : Nat := 0x8022C
abbrev Rg.WINGCASE_VP_TY : Nat := 0x80230
abbrev Rg.WINGCASE_TT_TL : Nat := 0x80400
abbrev Rg.WINGCASE_TT_BR : Nat := 0x80404
abbrev Rg.WINGCASE_TT_EXPECT : Nat := 0x80408
abbrev Rg.WINGCASE_TT_EN : Nat := 0x8040C
abbrev Rg.WINGCASE_TT_CRC : Nat := 0x80500
abbrev Rg.WINGCASE_TIMING0 : Nat := 0x80800
abbrev Rg.WINGCASE_TIMING1 : Nat := 0x80804
abbrev Rg.WINGCASE_TIMING2 : Nat := 0x80808
abbrev Rg.WINGCASE_TIMING3 : Nat := 0x8080C
abbrev Rg.WINGCASE_COLL_CFG : Nat := 0x80E00
abbrev Rg.WINGCASE_COLL_HIT : Nat := 0x80F00
/-- Page DSI (17_wingcase.md) -/
abbrev Pg.DSI : Nat := 0x82
abbrev Rg.DSI_STAT : Nat := 0x82040
abbrev Rg.DSI_GEN_HDR : Nat := 0x82044
abbrev Rg.DSI_GEN_DATA : Nat := 0x82048
abbrev Rg.DSI_GEN_GO : Nat := 0x82058
abbrev Rg.DSI_GEN_STAT : Nat := 0x8205C
abbrev Rg.DSI_CFG : Nat := 0x82C00
/-- Page LVDS (17_wingcase.md) -/
abbrev Pg.LVDS : Nat := 0x83
abbrev Rg.LVDS_STAT : Nat := 0x83040
abbrev Rg.LVDS_CFG : Nat := 0x83C00
/-- Page CAM (15_camera_intake.md) -/
abbrev Pg.CAM : Nat := 0x90
abbrev Rg.CAM_PORT_STAT : Nat := 0x90040
abbrev Rg.CAM_COUNTS : Nat := 0x90044
abbrev Rg.CAM_STREAM_STAT : Nat := 0x90060
abbrev Rg.CAM_STREAM_COUNTS : Nat := 0x90080
abbrev Rg.CAM_RELEASE : Nat := 0x900C0
abbrev Rg.CAM_FSYNC_SEL : Nat := 0x900C4
abbrev Rg.CAM_SCFG0 : Nat := 0x90800
abbrev Rg.CAM_SCFG1 : Nat := 0x90804
abbrev Rg.CAM_SCFG2 : Nat := 0x90808
abbrev Rg.CAM_SCFG3 : Nat := 0x9080C
abbrev Rg.CAM_PHY_CFG : Nat := 0x90C00
/-- Page STREAMGRP (15_camera_intake.md) -/
abbrev Pg.STREAMGRP : Nat := 0x98
abbrev Rg.STREAMGRP_ALIGN_STATUS : Nat := 0x98040
abbrev Rg.STREAMGRP_GFRAME : Nat := 0x98044
abbrev Rg.STREAMGRP_SLIPS : Nat := 0x98060
abbrev Rg.STREAMGRP_GRP_MASK : Nat := 0x98800
abbrev Rg.STREAMGRP_GRP_CFG : Nat := 0x98804
/-- Page CHOIR (18_choir.md) -/
abbrev Pg.CHOIR : Nat := 0xA0
abbrev Rg.CHOIR_KEY_ON : Nat := 0xA0040
abbrev Rg.CHOIR_KEY_OFF : Nat := 0xA0044
abbrev Rg.CHOIR_KEY_STAT : Nat := 0xA0048
abbrev Rg.CHOIR_COUNTS : Nat := 0xA0050
abbrev Rg.CHOIR_BUSY : Nat := 0xA0060
abbrev Rg.CHOIR_VOICE_STAT : Nat := 0xA0080
abbrev Rg.CHOIR_VOICE_KEY : Nat := 0xA0084
abbrev Rg.CHOIR_P_CTRL : Nat := 0xA0100
abbrev Rg.CHOIR_P_FREQ : Nat := 0xA0104
abbrev Rg.CHOIR_P_ADDR_LO : Nat := 0xA0108
abbrev Rg.CHOIR_P_ADDR_HI : Nat := 0xA010C
abbrev Rg.CHOIR_P_LEN : Nat := 0xA0110
abbrev Rg.CHOIR_P_LOOP : Nat := 0xA0114
abbrev Rg.CHOIR_P_ENV0 : Nat := 0xA0118
abbrev Rg.CHOIR_P_ENV1 : Nat := 0xA011C
abbrev Rg.CHOIR_VOICE_CTRL : Nat := 0xA0800
abbrev Rg.CHOIR_C_COEF : Nat := 0xA0E00
/-- Page CHOIRXP (18_choir.md) -/
abbrev Pg.CHOIRXP : Nat := 0xA1
abbrev Rg.CHOIRXP_XP_IDX : Nat := 0xA1040
abbrev Rg.CHOIRXP_XP_NODE : Nat := 0xA1044
abbrev Rg.CHOIRXP_XP_CUR : Nat := 0xA1048
abbrev Rg.CHOIRXP_OUT_PEAK : Nat := 0xA1080
abbrev Rg.CHOIRXP_OUT_GAIN : Nat := 0xA1800
abbrev Rg.CHOIRXP_IN_SRC : Nat := 0xA1840
/-- Page TDM (18_choir.md) -/
abbrev Pg.TDM : Nat := 0xA2
abbrev Rg.TDM_STAT : Nat := 0xA2040
abbrev Rg.TDM_FRAME_ERR : Nat := 0xA2044
abbrev Rg.TDM_CFG : Nat := 0xA2C00
abbrev Rg.TDM_TX_MAP : Nat := 0xA2C40
/-- Page ETH (20_side_ports.md) -/
abbrev Pg.ETH : Nat := 0xB0
abbrev Rg.ETH_LINK_STAT : Nat := 0xB0040
abbrev Rg.ETH_RX_TAIL : Nat := 0xB0044
abbrev Rg.ETH_RX_HEAD : Nat := 0xB0048
abbrev Rg.ETH_GATE : Nat := 0xB004C
abbrev Rg.ETH_COUNTS : Nat := 0xB0060
abbrev Rg.ETH_TXQ_TAIL : Nat := 0xB0080
abbrev Rg.ETH_TXQ_HEAD : Nat := 0xB00A0
abbrev Rg.ETH_GATE_BASE : Nat := 0xB0800
abbrev Rg.ETH_MAC_CFG : Nat := 0xB0C00
abbrev Rg.ETH_MAC_ADDR_LO : Nat := 0xB0C04
abbrev Rg.ETH_MAC_ADDR_HI : Nat := 0xB0C08
abbrev Rg.ETH_RX_RING_LO : Nat := 0xB0C0C
abbrev Rg.ETH_RX_RING_HI : Nat := 0xB0C10
abbrev Rg.ETH_RX_ORDER : Nat := 0xB0C14
abbrev Rg.ETH_TXQ_BASE_LO : Nat := 0xB0C40
abbrev Rg.ETH_TXQ_BASE_HI : Nat := 0xB0C44
abbrev Rg.ETH_TXQ_ORDER : Nat := 0xB0C80
/-- Page I3C (20_side_ports.md) -/
abbrev Pg.I3C : Nat := 0xB2
abbrev Rg.I3C_XFER_CTRL : Nat := 0xB2040
abbrev Rg.I3C_XFER_DATA : Nat := 0xB2044
abbrev Rg.I3C_XFER_GO : Nat := 0xB2048
abbrev Rg.I3C_XFER_STAT : Nat := 0xB204C
abbrev Rg.I3C_IBI_POP : Nat := 0xB2050
abbrev Rg.I3C_IBI_DATA : Nat := 0xB2054
abbrev Rg.I3C_IBI_ST_LO : Nat := 0xB2058
abbrev Rg.I3C_IBI_ST_HI : Nat := 0xB205C
abbrev Rg.I3C_IBI_NACKED : Nat := 0xB2060
abbrev Rg.I3C_CFG : Nat := 0xB2C00
/-- Page SPI (20_side_ports.md) -/
abbrev Pg.SPI : Nat := 0xB6
abbrev Rg.SPI_CTL_CTRL : Nat := 0xB6040
abbrev Rg.SPI_CTL_LINE : Nat := 0xB6044
abbrev Rg.SPI_CTL_DATA : Nat := 0xB6048
abbrev Rg.SPI_CTL_GO : Nat := 0xB604C
abbrev Rg.SPI_CTL_STAT : Nat := 0xB6050
abbrev Rg.SPI_TGT_CTRL : Nat := 0xB60C0
abbrev Rg.SPI_TGT_SEQ : Nat := 0xB60C4
abbrev Rg.SPI_TGT_OVERRUN : Nat := 0xB60C8
abbrev Rg.SPI_TGT_BADCMD : Nat := 0xB60CC
abbrev Rg.SPI_TGT_RX : Nat := 0xB6100
abbrev Rg.SPI_TGT_TX : Nat := 0xB6180
abbrev Rg.SPI_CFG : Nat := 0xB6C00
/-- Page GPIO (20_side_ports.md) -/
abbrev Pg.GPIO : Nat := 0xB7
abbrev Rg.GPIO_IN : Nat := 0xB7040
abbrev Rg.GPIO_OUT : Nat := 0xB7044
abbrev Rg.GPIO_OUT_SET : Nat := 0xB7048
abbrev Rg.GPIO_OUT_CLR : Nat := 0xB704C
abbrev Rg.GPIO_DIR : Nat := 0xB7050
abbrev Rg.GPIO_OD : Nat := 0xB7054
abbrev Rg.GPIO_RISE : Nat := 0xB7058
abbrev Rg.GPIO_FALL : Nat := 0xB705C
abbrev Rg.GPIO_SEL : Nat := 0xB7080
/-- Page SLINK (22_stave_link_and_hymnal.md) -/
abbrev Pg.SLINK : Nat := 0xC0
abbrev Rg.SLINK_PORT_STAT : Nat := 0xC0040
abbrev Rg.SLINK_PEER : Nat := 0xC0044
abbrev Rg.SLINK_PEER_SERIAL_LO : Nat := 0xC0048
abbrev Rg.SLINK_PEER_SERIAL_HI : Nat := 0xC004C
abbrev Rg.SLINK_RX_LAT : Nat := 0xC0050
abbrev Rg.SLINK_LINK_LAT : Nat := 0xC0054
abbrev Rg.SLINK_LSEQ : Nat := 0xC0058
abbrev Rg.SLINK_COUNTS : Nat := 0xC0060
abbrev Rg.SLINK_RW_DEST : Nat := 0xC0080
abbrev Rg.SLINK_RW_ADDR_LO : Nat := 0xC0084
abbrev Rg.SLINK_RW_ADDR_HI : Nat := 0xC0088
abbrev Rg.SLINK_RW_DATA : Nat := 0xC008C
abbrev Rg.SLINK_EV_DEST : Nat := 0xC0090
abbrev Rg.SLINK_EV_SEND : Nat := 0xC0094
abbrev Rg.SLINK_LOCK_CTRL : Nat := 0xC00A0
abbrev Rg.SLINK_LOCK_STAT : Nat := 0xC00A4
abbrev Rg.SLINK_BAR_ERR : Nat := 0xC00A8
abbrev Rg.SLINK_FLOG_HEAD : Nat := 0xC00B0
abbrev Rg.SLINK_FLOG_TAIL : Nat := 0xC00B4
abbrev Rg.SLINK_FLOG : Nat := 0xC0400
abbrev Rg.SLINK_RX_CFG : Nat := 0xC0C00
abbrev Rg.SLINK_DEV_NUM : Nat := 0xC0C40
abbrev Rg.SLINK_ROUTE : Nat := 0xC0C44
/-- Page RINGSTATE (07_rings_and_admission.md) -/
abbrev Pg.RINGSTATE : Nat := 0x100
abbrev Rg.RINGSTATE_SQ_BASE_LO : Nat := 0x100000
abbrev Rg.RINGSTATE_SQ_BASE_HI : Nat := 0x100004
abbrev Rg.RINGSTATE_CQ_BASE_LO : Nat := 0x100008
abbrev Rg.RINGSTATE_CQ_BASE_HI : Nat := 0x10000C
abbrev Rg.RINGSTATE_SIZE : Nat := 0x100010
abbrev Rg.RINGSTATE_CTRL : Nat := 0x100014
abbrev Rg.RINGSTATE_MOD : Nat := 0x100018
abbrev Rg.RINGSTATE_SQ_TAIL : Nat := 0x100020
abbrev Rg.RINGSTATE_SQ_HEAD : Nat := 0x100024
abbrev Rg.RINGSTATE_CQ_TAIL : Nat := 0x100028
abbrev Rg.RINGSTATE_CQ_HEAD : Nat := 0x10002C
abbrev Rg.RINGSTATE_STATE : Nat := 0x100030
abbrev Rg.RINGSTATE_STOP_INFO : Nat := 0x100034
abbrev Rg.RINGSTATE_COUNTS : Nat := 0x100038
abbrev Rg.RINGSTATE_ADMITTED : Nat := 0x10003C
/-- Page TENANT (06_host_link_and_tenants.md) -/
abbrev Pg.TENANT : Nat := 0x400
abbrev Rg.TENANT_INFO : Nat := 0x400040
abbrev Rg.TENANT_GUAR : Nat := 0x400044
abbrev Rg.TENANT_CEIL : Nat := 0x400048
abbrev Rg.TENANT_CFG : Nat := 0x40004C
abbrev Rg.TENANT_USE : Nat := 0x400050
abbrev Rg.TENANT_NOW_LO : Nat := 0x400054
abbrev Rg.TENANT_NOW_HI : Nat := 0x400058
abbrev Rg.TENANT_MBOX : Nat := 0x40005C
/-- HEADER.BLK_ID -/
abbrev Hdr.BLK_ID : Nat := 0x0
/-- HEADER.BLK_CAP -/
abbrev Hdr.BLK_CAP : Nat := 0x4
/-- HEADER.BLK_CTRL -/
abbrev Hdr.BLK_CTRL : Nat := 0x8
/-- HEADER.BLK_STAT -/
abbrev Hdr.BLK_STAT : Nat := 0xC
/-- HEADER.EVT_STAT -/
abbrev Hdr.EVT_STAT : Nat := 0x10
/-- HEADER.EVT_EN -/
abbrev Hdr.EVT_EN : Nat := 0x14
/-- HEADER.EVT_SET -/
abbrev Hdr.EVT_SET : Nat := 0x18
/-- HEADER.EVT_SRC -/
abbrev Hdr.EVT_SRC : Nat := 0x1C
/-- HEADER.PAGE_OWNER -/
abbrev Hdr.PAGE_OWNER : Nat := 0x20
/-- HEADER.PAGE_WMASK -/
abbrev Hdr.PAGE_WMASK : Nat := 0x24
/-- HEADER.PAGE_WSEQ -/
abbrev Hdr.PAGE_WSEQ : Nat := 0x28
/-- HEADER.PAGE_WDROP -/
abbrev Hdr.PAGE_WDROP : Nat := 0x2C
/-- HEADER.PAGE_STAGE -/
abbrev Hdr.PAGE_STAGE : Nat := 0x30
/-- HEADER.PAGE_STAGE_SNUM -/
abbrev Hdr.PAGE_STAGE_SNUM : Nat := 0x34

end Sys2Proof.Machine
end

