-- ==== Sys2Proof/Machine/RegTable.lean ====
section
/-! DEFINITION. The register tables of the chapters: every listed page with its registers, their offsets, fields,
access codes (00_scope.md, Access codes) and reset values, and the block map of R60 with the event runs of R197. -/
namespace Sys2Proof.Machine

/-- Access codes of a field (00_scope.md). `rh` is RW for the guard harts only. -/
inductive Acc where
  | ro | rw | rh | wo | w1c | w1s | rc | rl
  deriving DecidableEq, Repr

/-- The block types of R60, with the tenant control page of R56 and an unlisted page. -/
inductive Kind where
  | guard | boot | tune | roll | auth | safety | agewatch | fault | weevil | debug | hart | stave | clock | timer | evc | evcsrc | host | sriov | admission | pool | hymnal | mmu | core | cantor | llc | bridge | dramc | chafer | wingcase | dsi | lvds | cam | streamgrp | choir | choirxp | tdm | eth | i3c | spi | gpio | slink | ringstate | tenant | unlisted
  deriving DecidableEq, Repr

/-- A field of a register: bits hi to lo, its access code and its reset value. -/
structure Fld where
  hi : Nat
  lo : Nat
  acc : Acc
  rst : Nat
  deriving DecidableEq, Repr

/-- A register, or an array of count registers a stride apart; dp marks a data port (R85); only names the one
instance that has it. -/
structure RegDesc where
  off : Nat
  count : Nat
  stride : Nat
  dp : Bool
  only : Option Nat
  flds : List Fld
  deriving DecidableEq, Repr

/-- A page type: its block-map row (R60), its defined EVT_STAT bits, its event run (R197) and its registers. -/
structure PageDesc where
  kind : Kind
  base : Nat
  count : Nat
  guardDie : Bool
  staged : Bool
  fixed : Bool
  evt : Nat
  first : Nat
  run : Nat
  runStep : Nat
  regs : List RegDesc
  deriving DecidableEq, Repr

/-- The GUARD page (05_bringup_and_tuning.md). -/
def regsGuard : List RegDesc := [
  ⟨0x40, 1, 4, false, none, [⟨0, 0, .w1s, 0⟩, ⟨1, 1, .w1s, 0⟩, ⟨2, 2, .w1s, 0⟩]⟩,
  ⟨0x44, 1, 4, false, none, [⟨0, 0, .ro, 0⟩, ⟨1, 1, .ro, 0⟩, ⟨2, 2, .ro, 0⟩, ⟨3, 3, .w1c, 0⟩, ⟨4, 4, .w1c, 0⟩, ⟨5, 5, .w1c, 0⟩, ⟨6, 6, .w1c, 0⟩]⟩,
  ⟨0x48, 1, 4, false, none, [⟨0, 0, .ro, 0⟩, ⟨4, 1, .ro, 0⟩, ⟨10, 5, .ro, 0⟩]⟩,
  ⟨0x4C, 1, 4, false, none, [⟨7, 0, .rw, 0⟩]⟩,
  ⟨0x50, 1, 4, false, none, [⟨31, 0, .ro, 0⟩]⟩,
  ⟨0x54, 1, 4, false, none, [⟨31, 0, .wo, 0⟩]⟩]

/-- The BOOT page (05_bringup_and_tuning.md). -/
def regsBoot : List RegDesc := [
  ⟨0x40, 1, 4, false, none, [⟨2, 0, .ro, 0⟩, ⟨3, 3, .ro, 0⟩, ⟨15, 8, .ro, 0⟩, ⟨17, 16, .ro, 0⟩, ⟨18, 18, .ro, 0⟩, ⟨19, 19, .ro, 0⟩]⟩,
  ⟨0x44, 1, 4, false, none, [⟨31, 0, .ro, 0⟩]⟩,
  ⟨0x48, 1, 4, false, none, [⟨2, 0, .ro, 0⟩]⟩,
  ⟨0x4C, 1, 4, false, none, [⟨31, 0, .ro, 0⟩]⟩,
  ⟨0x50, 5, 4, false, none, [⟨31, 0, .ro, 0⟩]⟩]

/-- The TUNE page (05_bringup_and_tuning.md). -/
def regsTune : List RegDesc := [
  ⟨0x40, 1, 4, false, none, [⟨0, 0, .ro, 0⟩, ⟨1, 1, .ro, 0⟩, ⟨2, 2, .ro, 0⟩, ⟨3, 3, .ro, 0⟩, ⟨4, 4, .ro, 0⟩, ⟨5, 5, .ro, 0⟩, ⟨6, 6, .ro, 0⟩, ⟨7, 7, .ro, 0⟩]⟩,
  ⟨0x44, 1, 4, false, none, [⟨10, 0, .ro, 0⟩]⟩,
  ⟨0x48, 1, 4, false, none, [⟨15, 0, .wo, 0⟩]⟩,
  ⟨0x4C, 1, 4, false, none, [⟨0, 0, .w1s, 0⟩]⟩,
  ⟨0x50, 1, 4, true, none, [⟨7, 0, .rw, 0⟩]⟩,
  ⟨0x54, 1, 4, false, none, [⟨31, 0, .ro, 0⟩]⟩,
  ⟨0x58, 1, 4, true, none, [⟨7, 0, .rw, 0⟩]⟩,
  ⟨0x5C, 1, 4, true, none, [⟨31, 0, .rw, 0⟩]⟩]

/-- The ROLL page (04_authority_and_change_roll.md). -/
def regsRoll : List RegDesc := [
  ⟨0x40, 1, 4, false, none, [⟨0, 0, .rw, 0⟩]⟩,
  ⟨0x44, 1, 4, false, none, [⟨31, 0, .ro, 0⟩]⟩,
  ⟨0x48, 1, 4, false, none, [⟨31, 0, .ro, 0⟩]⟩,
  ⟨0x4C, 1, 4, true, none, [⟨31, 0, .rw, 0⟩]⟩,
  ⟨0x50, 1, 4, false, none, [⟨31, 0, .ro, 0⟩]⟩,
  ⟨0x54, 1, 4, false, none, [⟨31, 0, .ro, 0⟩]⟩,
  ⟨0x58, 1, 4, false, none, [⟨14, 0, .ro, 0⟩]⟩,
  ⟨0x5C, 1, 4, false, none, [⟨14, 0, .rw, 0x3000⟩]⟩,
  ⟨0x60, 1, 4, true, none, [⟨31, 0, .rw, 0⟩]⟩,
  ⟨0x64, 1, 4, false, none, [⟨1, 0, .ro, 0⟩]⟩,
  ⟨0x80, 8, 4, false, none, [⟨31, 0, .ro, 0⟩]⟩]

/-- The AUTH page (04_authority_and_change_roll.md). -/
def regsAuth : List RegDesc := [
  ⟨0x40, 1, 4, false, none, [⟨0, 0, .w1s, 0⟩, ⟨1, 1, .w1s, 0⟩]⟩,
  ⟨0x44, 1, 4, false, none, [⟨7, 0, .ro, 0⟩, ⟨11, 8, .ro, 0⟩, ⟨21, 12, .ro, 0⟩]⟩,
  ⟨0x48, 1, 4, false, none, [⟨7, 0, .ro, 0⟩, ⟨15, 8, .ro, 0⟩]⟩]

/-- The SAFETY page (21_safety.md). -/
def regsSafety : List RegDesc := [
  ⟨0x40, 1, 4, true, none, [⟨7, 0, .wo, 0⟩]⟩,
  ⟨0x60, 5, 4, false, none, [⟨31, 0, .ro, 0⟩]⟩,
  ⟨0x80, 1, 4, false, none, [⟨31, 0, .ro, 0⟩]⟩,
  ⟨0x84, 1, 4, true, none, [⟨31, 0, .rw, 0⟩]⟩,
  ⟨0x88, 1, 4, false, none, [⟨31, 0, .ro, 0⟩]⟩,
  ⟨0x400, 128, 4, false, none, [⟨31, 0, .ro, 0⟩]⟩,
  ⟨0x800, 1, 4, false, none, [⟨0, 0, .rw, 1⟩]⟩]

/-- The AGEWATCH page (21_safety.md). -/
def regsAgewatch : List RegDesc := [
  ⟨0x40, 1, 4, true, none, [⟨7, 0, .rw, 0⟩]⟩,
  ⟨0x44, 1, 4, false, none, [⟨15, 0, .ro, 0⟩, ⟨16, 16, .ro, 0⟩, ⟨17, 17, .ro, 0⟩]⟩,
  ⟨0x48, 1, 4, true, none, [⟨7, 0, .wo, 0⟩]⟩,
  ⟨0x80, 8, 4, false, none, [⟨31, 0, .ro, 0⟩]⟩,
  ⟨0xA0, 1, 4, false, none, [⟨31, 0, .ro, 0⟩]⟩,
  ⟨0x400, 256, 4, false, none, [⟨2, 0, .rw, 0⟩, ⟨15, 3, .rw, 0⟩, ⟨31, 16, .rw, 0⟩]⟩,
  ⟨0x800, 1, 4, false, none, [⟨0, 0, .rw, 0⟩]⟩,
  ⟨0xE00, 128, 4, false, none, [⟨15, 0, .rw, 0⟩, ⟨31, 16, .rw, 0⟩]⟩]

/-- The FAULT page (21_safety.md). -/
def regsFault : List RegDesc := [
  ⟨0x40, 1, 4, false, none, [⟨31, 0, .rw, 0x5E6AD658⟩]⟩,
  ⟨0x44, 1, 4, false, none, [⟨0, 0, .w1s, 0⟩]⟩,
  ⟨0x48, 1, 4, false, none, [⟨0, 0, .ro, 0⟩, ⟨1, 1, .ro, 0⟩, ⟨2, 2, .w1s, 0⟩, ⟨3, 3, .ro, 0⟩]⟩,
  ⟨0x4C, 1, 4, false, none, [⟨7, 0, .rw, 0x4B⟩]⟩,
  ⟨0x50, 1, 4, true, none, [⟨15, 0, .wo, 0⟩]⟩,
  ⟨0x54, 1, 4, false, none, [⟨15, 0, .rw, 0⟩]⟩,
  ⟨0x58, 1, 4, true, none, [⟨15, 0, .wo, 0⟩]⟩,
  ⟨0x5C, 1, 4, false, none, [⟨15, 0, .ro, 0⟩]⟩,
  ⟨0x84, 15, 4, false, none, [⟨31, 0, .ro, 0⟩]⟩,
  ⟨0xC0, 1, 4, false, none, [⟨31, 0, .ro, 0⟩]⟩,
  ⟨0xC4, 1, 4, true, none, [⟨31, 0, .rw, 0⟩]⟩,
  ⟨0xC8, 1, 4, false, none, [⟨31, 0, .ro, 0⟩]⟩,
  ⟨0x400, 128, 4, false, none, [⟨31, 0, .ro, 0⟩]⟩]

/-- The WEEVIL page (23_weevil_and_debug.md). -/
def regsWeevil : List RegDesc := [
  ⟨0x40, 1, 4, false, none, [⟨0, 0, .ro, 0⟩, ⟨1, 1, .ro, 0⟩, ⟨2, 2, .ro, 0⟩, ⟨3, 3, .ro, 0⟩]⟩,
  ⟨0x44, 1, 4, false, none, [⟨15, 0, .wo, 0⟩]⟩,
  ⟨0x48, 1, 4, true, none, [⟨7, 0, .w1s, 0⟩]⟩,
  ⟨0x50, 4, 4, false, none, [⟨31, 0, .ro, 0⟩]⟩,
  ⟨0x100, 8, 32, false, none, [⟨0, 0, .rw, 0⟩, ⟨3, 1, .rw, 0⟩, ⟨11, 4, .rw, 0⟩, ⟨14, 12, .rw, 0⟩, ⟨31, 16, .rw, 0⟩]⟩,
  ⟨0x104, 8, 32, false, none, [⟨31, 0, .rw, 0⟩]⟩,
  ⟨0x108, 8, 32, false, none, [⟨15, 0, .rw, 0⟩, ⟨31, 16, .rw, 0⟩]⟩,
  ⟨0x10C, 8, 32, false, none, [⟨31, 0, .rw, 0⟩]⟩,
  ⟨0x110, 8, 32, false, none, [⟨31, 0, .rw, 0⟩]⟩,
  ⟨0x114, 8, 32, false, none, [⟨21, 0, .rw, 0⟩]⟩,
  ⟨0x118, 8, 32, false, none, [⟨31, 0, .rw, 0⟩]⟩,
  ⟨0x11C, 8, 32, false, none, [⟨15, 0, .ro, 0⟩, ⟨30, 30, .ro, 0⟩, ⟨31, 31, .ro, 0⟩]⟩]

/-- The DEBUG page (23_weevil_and_debug.md). -/
def regsDebug : List RegDesc := [
  ⟨0x40, 1, 4, false, none, [⟨0, 0, .ro, 0⟩, ⟨1, 1, .ro, 0⟩, ⟨7, 4, .ro, 0⟩]⟩,
  ⟨0x44, 1, 4, false, none, [⟨0, 0, .rh, 1⟩, ⟨1, 1, .rw, 0⟩]⟩,
  ⟨0x48, 1, 4, false, none, [⟨0, 0, .w1s, 0⟩, ⟨1, 1, .w1s, 0⟩, ⟨2, 2, .rw, 0⟩]⟩,
  ⟨0x4C, 1, 4, false, none, [⟨10, 0, .rw, 0⟩]⟩,
  ⟨0x50, 1, 4, false, none, [⟨0, 0, .ro, 0⟩, ⟨1, 1, .ro, 0⟩, ⟨2, 2, .ro, 0⟩]⟩,
  ⟨0x54, 1, 4, false, none, [⟨31, 0, .ro, 0⟩]⟩,
  ⟨0x58, 1, 4, false, none, [⟨31, 0, .ro, 0⟩]⟩,
  ⟨0x80, 1, 4, false, none, [⟨0, 0, .rw, 0⟩, ⟨1, 1, .rw, 0⟩, ⟨2, 2, .rw, 0⟩, ⟨12, 4, .rw, 0⟩]⟩,
  ⟨0x84, 1, 4, false, none, [⟨31, 0, .ro, 0⟩]⟩,
  ⟨0x88, 1, 4, false, none, [⟨31, 0, .ro, 0⟩]⟩,
  ⟨0x8C, 1, 4, true, none, [⟨31, 0, .wo, 0⟩]⟩,
  ⟨0x90, 1, 4, true, none, [⟨13, 0, .rw, 0⟩]⟩,
  ⟨0x94, 1, 4, true, none, [⟨31, 0, .ro, 0⟩]⟩]

/-- The HART page (21_safety.md). -/
def regsHart : List RegDesc := [
  ⟨0x40, 1, 4, false, none, [⟨0, 0, .ro, 0⟩, ⟨1, 1, .ro, 0⟩, ⟨2, 2, .ro, 0⟩]⟩,
  ⟨0x44, 1, 4, false, none, [⟨31, 0, .rw, 0⟩]⟩,
  ⟨0x48, 1, 4, false, none, [⟨0, 0, .w1s, 0⟩]⟩,
  ⟨0x4C, 1, 4, false, none, [⟨31, 0, .ro, 0⟩]⟩,
  ⟨0x50, 1, 4, false, none, [⟨31, 0, .ro, 0⟩]⟩,
  ⟨0x54, 1, 4, false, none, [⟨31, 0, .ro, 0⟩]⟩]

/-- The STAVE page (01_stave.md). -/
def regsStave : List RegDesc := [
  ⟨0x40, 1, 4, false, none, [⟨31, 0, .rl, 0⟩]⟩,
  ⟨0x44, 1, 4, false, none, [⟨31, 0, .ro, 0⟩]⟩,
  ⟨0x48, 1, 4, false, none, [⟨10, 0, .ro, 0x4E2⟩, ⟨17, 12, .ro, 0x3F⟩]⟩,
  ⟨0x4C, 1, 4, false, none, [⟨0, 0, .ro, 0⟩, ⟨1, 1, .ro, 0⟩, ⟨2, 2, .ro, 0⟩, ⟨3, 3, .ro, 0⟩, ⟨4, 4, .ro, 0⟩]⟩,
  ⟨0x50, 1, 4, false, none, [⟨31, 0, .rw, 0⟩]⟩,
  ⟨0x54, 1, 4, false, none, [⟨9, 0, .rw, 0⟩]⟩,
  ⟨0x58, 1, 4, false, none, [⟨0, 0, .w1s, 0⟩]⟩,
  ⟨0x5C, 1, 4, false, none, [⟨10, 0, .rw, 0x7FF⟩]⟩]

/-- The CLOCK page (01_stave.md). -/
def regsClock : List RegDesc := [
  ⟨0x40, 1, 4, false, none, [⟨7, 0, .ro, 0x80⟩, ⟨15, 8, .ro, 0xC0⟩]⟩,
  ⟨0x44, 1, 4, false, none, [⟨0, 0, .ro, 0⟩, ⟨1, 1, .ro, 1⟩, ⟨2, 2, .ro, 0⟩, ⟨3, 3, .ro, 0⟩, ⟨4, 4, .ro, 0⟩, ⟨5, 5, .ro, 0⟩]⟩,
  ⟨0x48, 1, 4, false, none, [⟨7, 0, .rw, 0x20⟩]⟩,
  ⟨0x4C, 1, 4, false, none, [⟨15, 0, .ro, 0⟩]⟩]

/-- The TIMER page (19_timers.md). -/
def regsTimer : List RegDesc := [
  ⟨0x40, 16, 4, false, none, [⟨31, 0, .ro, 0⟩]⟩,
  ⟨0x80, 16, 4, false, none, [⟨0, 0, .ro, 0⟩, ⟨1, 1, .ro, 0⟩, ⟨6, 4, .ro, 0⟩, ⟨8, 8, .w1c, 0⟩]⟩,
  ⟨0xC0, 16, 4, true, none, [⟨0, 0, .w1s, 0⟩, ⟨1, 1, .w1s, 0⟩]⟩,
  ⟨0x100, 16, 16, false, none, [⟨31, 0, .rl, 0⟩]⟩,
  ⟨0x104, 16, 16, false, none, [⟨31, 0, .ro, 0⟩]⟩,
  ⟨0x108, 16, 16, false, none, [⟨31, 0, .ro, 0⟩]⟩,
  ⟨0x10C, 16, 16, false, none, [⟨0, 0, .ro, 0⟩, ⟨1, 1, .ro, 0⟩, ⟨2, 2, .ro, 0⟩]⟩,
  ⟨0x200, 1, 4, true, none, [⟨0, 0, .w1s, 0⟩]⟩,
  ⟨0x204, 1, 4, false, none, [⟨31, 0, .ro, 0⟩]⟩,
  ⟨0x208, 1, 4, false, none, [⟨31, 0, .ro, 0⟩]⟩,
  ⟨0x20C, 1, 4, false, none, [⟨31, 0, .ro, 0⟩]⟩,
  ⟨0x240, 16, 4, false, none, [⟨31, 0, .ro, 0⟩]⟩,
  ⟨0x280, 16, 4, false, none, [⟨31, 0, .ro, 0⟩]⟩,
  ⟨0x800, 16, 16, false, none, [⟨0, 0, .rw, 0⟩, ⟨1, 1, .rw, 0⟩, ⟨3, 2, .rw, 0⟩, ⟨7, 4, .rw, 0⟩, ⟨8, 8, .rw, 0⟩, ⟨15, 12, .rw, 0⟩, ⟨16, 16, .rw, 0⟩, ⟨23, 20, .rw, 0⟩, ⟨24, 24, .rw, 0⟩, ⟨25, 25, .rw, 0⟩, ⟨26, 26, .rw, 0⟩, ⟨27, 27, .rw, 0⟩]⟩,
  ⟨0x804, 16, 16, false, none, [⟨31, 0, .rw, 0⟩]⟩,
  ⟨0x808, 16, 16, false, none, [⟨31, 0, .rw, 0⟩]⟩,
  ⟨0x80C, 16, 16, false, none, [⟨31, 0, .rw, 0⟩]⟩,
  ⟨0x900, 16, 4, false, none, [⟨6, 0, .rw, 0⟩, ⟨9, 8, .rw, 0⟩]⟩]

/-- The EVC page (09_event_controller.md). -/
def regsEvc : List RegDesc := [
  ⟨0x40, 1, 4, true, none, [⟨11, 0, .wo, 0⟩, ⟨31, 12, .wo, 0⟩]⟩,
  ⟨0x44, 1, 4, false, none, [⟨11, 0, .ro, 0⟩, ⟨19, 12, .ro, 0⟩, ⟨23, 20, .ro, 0⟩, ⟨31, 31, .ro, 0⟩]⟩,
  ⟨0x48, 1, 4, true, none, [⟨11, 0, .wo, 0⟩, ⟨31, 12, .wo, 0⟩]⟩,
  ⟨0x50, 4, 4, false, none, [⟨4, 0, .ro, 0x1F⟩, ⟨8, 8, .ro, 0⟩, ⟨9, 9, .ro, 0⟩, ⟨10, 10, .ro, 1⟩]⟩,
  ⟨0x60, 1, 4, false, none, [⟨3, 0, .rw, 15⟩]⟩,
  ⟨0x64, 1, 4, false, none, [⟨11, 0, .ro, 0⟩]⟩,
  ⟨0x100, 64, 4, false, none, [⟨11, 0, .rw, 0⟩, ⟨23, 16, .rw, 0⟩, ⟨30, 30, .ro, 0⟩, ⟨31, 31, .rw, 0⟩]⟩]

/-- The EVCSRC page (09_event_controller.md). -/
def regsEvcsrc : List RegDesc := [
  ⟨0x40, 16, 4, false, none, [⟨31, 0, .w1c, 0⟩]⟩,
  ⟨0x80, 16, 4, true, none, [⟨31, 0, .w1s, 0⟩]⟩,
  ⟨0xC0, 16, 4, false, none, [⟨31, 0, .ro, 0⟩]⟩,
  ⟨0x100, 32, 4, false, none, [⟨31, 0, .ro, 0⟩]⟩,
  ⟨0x400, 256, 4, false, none, [⟨15, 0, .rw, 0⟩, ⟨31, 16, .rw, 0⟩]⟩,
  ⟨0xE00, 128, 4, false, none, [⟨31, 0, .ro, 0⟩]⟩]

/-- The HOST page (06_host_link_and_tenants.md). -/
def regsHost : List RegDesc := [
  ⟨0x40, 1, 4, false, none, [⟨3, 0, .ro, 0⟩, ⟨9, 4, .ro, 0⟩, ⟨10, 10, .ro, 0⟩, ⟨13, 11, .ro, 0⟩, ⟨15, 14, .ro, 0⟩]⟩,
  ⟨0x44, 1, 4, false, none, [⟨7, 0, .rw, 0x20⟩, ⟨15, 8, .rw, 8⟩]⟩,
  ⟨0x48, 1, 4, false, none, [⟨6, 0, .rw, 0⟩]⟩,
  ⟨0x4C, 1, 4, false, none, [⟨9, 0, .ro, 0⟩, ⟨25, 16, .ro, 0⟩]⟩,
  ⟨0x50, 1, 4, false, none, [⟨31, 0, .ro, 0⟩]⟩,
  ⟨0x54, 1, 4, false, none, [⟨31, 0, .ro, 0⟩]⟩,
  ⟨0x58, 1, 4, false, none, [⟨31, 0, .ro, 0⟩]⟩]

/-- The SRIOV page (06_host_link_and_tenants.md). -/
def regsSriov : List RegDesc := [
  ⟨0x40, 1, 4, false, none, [⟨6, 0, .ro, 0⟩, ⟨7, 7, .ro, 0⟩]⟩,
  ⟨0x200, 65, 4, false, none, [⟨0, 0, .ro, 0⟩, ⟨1, 1, .ro, 0⟩, ⟨2, 2, .ro, 0⟩, ⟨3, 3, .ro, 0⟩, ⟨4, 4, .w1c, 0⟩, ⟨28, 16, .ro, 0⟩]⟩,
  ⟨0x3F0, 65, 16, false, none, [⟨13, 0, .rw, 0⟩, ⟨28, 16, .rw, 0⟩]⟩,
  ⟨0x3F4, 65, 16, false, none, [⟨21, 0, .rw, 0⟩]⟩,
  ⟨0x3F8, 65, 16, false, none, [⟨21, 0, .rw, 0⟩]⟩,
  ⟨0x3FC, 65, 16, false, none, [⟨2, 0, .rw, 0⟩, ⟨16, 4, .rw, 0⟩, ⟨31, 31, .rw, 0⟩]⟩]

/-- The ADMIT page (07_rings_and_admission.md). -/
def regsAdmit : List RegDesc := [
  ⟨0x40, 1, 4, false, none, [⟨6, 0, .ro, 0⟩]⟩,
  ⟨0x44, 1, 4, false, none, [⟨13, 0, .ro, 0⟩, ⟨19, 16, .ro, 0⟩]⟩,
  ⟨0x48, 6, 4, false, none, [⟨31, 0, .ro, 0⟩]⟩,
  ⟨0x800, 1, 4, false, none, [⟨31, 0, .rw, 0xFFFFFFFF⟩]⟩,
  ⟨0x804, 1, 4, false, none, [⟨6, 0, .rw, 0x40⟩]⟩]

/-- The POOL page (07_rings_and_admission.md). -/
def regsPool : List RegDesc := [
  ⟨0x40, 1, 4, false, none, [⟨31, 16, .rw, 0⟩]⟩,
  ⟨0x44, 1, 4, false, none, [⟨15, 0, .rw, 0⟩]⟩,
  ⟨0x48, 1, 4, false, none, [⟨6, 0, .ro, 0⟩, ⟨12, 8, .ro, 0⟩]⟩,
  ⟨0x4C, 1, 4, false, none, [⟨31, 0, .ro, 0⟩]⟩,
  ⟨0x50, 1, 4, false, none, [⟨31, 0, .ro, 0⟩]⟩,
  ⟨0x60, 1, 4, true, none, [⟨6, 0, .wo, 0⟩]⟩,
  ⟨0x64, 1, 4, false, none, [⟨15, 0, .ro, 0⟩, ⟨30, 30, .ro, 0⟩, ⟨31, 31, .ro, 0⟩]⟩,
  ⟨0x68, 1, 4, true, none, [⟨15, 0, .wo, 0⟩, ⟨22, 16, .wo, 0⟩]⟩,
  ⟨0x800, 128, 4, false, none, [⟨15, 0, .rw, 0⟩, ⟨19, 16, .rw, 0⟩, ⟨31, 20, .rw, 0⟩]⟩,
  ⟨0xE00, 128, 4, false, none, [⟨11, 0, .ro, 0⟩, ⟨15, 12, .ro, 0⟩, ⟨31, 16, .ro, 0⟩]⟩]

/-- The HYMNAL page (22_stave_link_and_hymnal.md). -/
def regsHymnal : List RegDesc := [
  ⟨0x40, 1, 4, false, none, [⟨0, 0, .ro, 0⟩, ⟨1, 1, .ro, 0⟩, ⟨2, 2, .ro, 0⟩, ⟨3, 3, .ro, 0⟩]⟩,
  ⟨0x44, 1, 4, true, none, [⟨31, 0, .rw, 0⟩]⟩,
  ⟨0x48, 1, 4, true, none, [⟨31, 0, .rw, 0⟩]⟩,
  ⟨0x4C, 1, 4, false, none, [⟨31, 0, .ro, 0⟩]⟩,
  ⟨0x50, 1, 4, false, none, [⟨31, 0, .ro, 0⟩]⟩,
  ⟨0x54, 1, 4, false, none, [⟨31, 0, .ro, 0⟩]⟩,
  ⟨0x58, 1, 4, false, none, [⟨31, 0, .ro, 0⟩]⟩,
  ⟨0x5C, 1, 4, false, none, [⟨9, 0, .ro, 0⟩]⟩,
  ⟨0xC00, 1, 4, false, none, [⟨0, 0, .rw, 0⟩, ⟨1, 1, .rw, 0⟩, ⟨8, 2, .rw, 0⟩]⟩,
  ⟨0xC04, 1, 4, false, none, [⟨11, 0, .rw, 1⟩]⟩,
  ⟨0xC08, 1, 4, false, none, [⟨31, 6, .rw, 0⟩]⟩,
  ⟨0xC0C, 1, 4, false, none, [⟨15, 0, .rw, 0⟩]⟩,
  ⟨0xC10, 1, 4, false, none, [⟨4, 0, .rw, 10⟩]⟩]

/-- The MMU page (10_address_translation.md). -/
def regsMmu : List RegDesc := [
  ⟨0x40, 1, 4, false, some 0, [⟨6, 0, .rw, 0⟩, ⟨9, 8, .rw, 0⟩]⟩,
  ⟨0x44, 1, 4, false, some 0, [⟨31, 12, .rw, 0⟩]⟩,
  ⟨0x48, 1, 4, false, some 0, [⟨15, 0, .rw, 0⟩]⟩,
  ⟨0x4C, 1, 4, false, some 0, [⟨31, 0, .rw, 0⟩]⟩,
  ⟨0x50, 1, 4, true, some 0, [⟨0, 0, .w1s, 0⟩]⟩,
  ⟨0x54, 1, 4, false, some 0, [⟨0, 0, .ro, 0⟩]⟩,
  ⟨0x58, 1, 4, false, some 0, [⟨31, 0, .ro, 0⟩]⟩,
  ⟨0x5C, 1, 4, false, some 0, [⟨31, 0, .ro, 0⟩]⟩,
  ⟨0x80, 1, 4, false, none, [⟨31, 0, .ro, 0⟩]⟩,
  ⟨0x84, 1, 4, true, none, [⟨31, 0, .rw, 0⟩]⟩,
  ⟨0x88, 1, 4, false, none, [⟨31, 0, .ro, 0⟩]⟩,
  ⟨0x90, 1, 4, false, none, [⟨31, 0, .ro, 0⟩]⟩,
  ⟨0x94, 1, 4, false, none, [⟨31, 0, .ro, 0⟩]⟩,
  ⟨0x100, 65, 8, false, some 0, [⟨0, 0, .rw, 0⟩, ⟨31, 12, .rw, 0⟩]⟩,
  ⟨0x104, 65, 8, false, some 0, [⟨15, 0, .rw, 0⟩]⟩,
  ⟨0x400, 128, 4, false, none, [⟨31, 0, .ro, 0⟩]⟩]

/-- The CORE page (13_inference_cores.md). -/
def regsCore : List RegDesc := [
  ⟨0x40, 1, 4, false, none, [⟨0, 0, .ro, 0⟩, ⟨1, 1, .ro, 0⟩, ⟨15, 4, .ro, 0⟩]⟩,
  ⟨0x44, 1, 4, false, none, [⟨31, 0, .ro, 0⟩]⟩,
  ⟨0x48, 1, 4, false, none, [⟨5, 0, .rw, 0⟩, ⟨13, 8, .ro, 0⟩]⟩,
  ⟨0x50, 1, 4, false, none, [⟨2, 0, .ro, 0⟩, ⟨15, 8, .ro, 0⟩, ⟨27, 16, .ro, 0⟩, ⟨28, 28, .ro, 0⟩]⟩,
  ⟨0x54, 1, 4, false, none, [⟨31, 0, .ro, 0⟩]⟩,
  ⟨0x58, 1, 4, false, none, [⟨31, 0, .ro, 0⟩]⟩,
  ⟨0x5C, 1, 4, false, none, [⟨31, 0, .ro, 0⟩]⟩,
  ⟨0x60, 1, 4, false, none, [⟨31, 0, .ro, 0⟩]⟩,
  ⟨0x64, 1, 4, false, none, [⟨31, 0, .ro, 0⟩]⟩,
  ⟨0x68, 1, 4, false, none, [⟨31, 0, .ro, 0⟩]⟩,
  ⟨0x6C, 1, 4, false, none, [⟨31, 0, .ro, 0⟩]⟩,
  ⟨0x70, 1, 4, false, none, [⟨31, 0, .ro, 0⟩]⟩,
  ⟨0x74, 1, 4, false, none, [⟨31, 0, .ro, 0⟩]⟩,
  ⟨0x78, 1, 4, false, none, [⟨31, 0, .ro, 0⟩]⟩,
  ⟨0x7C, 1, 4, false, none, [⟨31, 0, .ro, 0⟩]⟩,
  ⟨0x80, 1, 4, false, none, [⟨2, 0, .ro, 0⟩]⟩,
  ⟨0x84, 1, 4, false, none, [⟨20, 0, .ro, 0⟩]⟩]

/-- The CANTOR page, part 0 (12_cantor.md). -/
def regsCantor0 : List RegDesc := [
  ⟨0x40, 1, 4, false, some 0, [⟨31, 12, .rw, 0⟩]⟩,
  ⟨0x44, 1, 4, false, some 0, [⟨15, 0, .rw, 0⟩]⟩,
  ⟨0x48, 1, 4, false, some 0, [⟨0, 0, .w1s, 0⟩, ⟨1, 1, .w1s, 0⟩]⟩,
  ⟨0x4C, 1, 4, false, some 0, [⟨2, 0, .ro, 0⟩, ⟨11, 8, .ro, 0⟩]⟩,
  ⟨0x50, 1, 4, false, some 0, [⟨7, 0, .ro, 0⟩, ⟨31, 8, .ro, 0⟩]⟩,
  ⟨0x54, 1, 4, false, some 0, [⟨0, 0, .ro, 0⟩, ⟨7, 4, .ro, 0⟩, ⟨8, 8, .ro, 0⟩]⟩,
  ⟨0x58, 1, 4, false, some 0, [⟨31, 0, .ro, 0⟩]⟩,
  ⟨0x60, 1, 4, false, none, [⟨31, 0, .ro, 0⟩]⟩,
  ⟨0x64, 1, 4, false, none, [⟨12, 0, .ro, 0⟩, ⟨28, 16, .ro, 0⟩]⟩,
  ⟨0x80, 1, 4, false, none, [⟨31, 0, .ro, 0⟩]⟩,
  ⟨0x84, 1, 4, false, none, [⟨31, 0, .ro, 0⟩]⟩,
  ⟨0x88, 1, 4, false, none, [⟨31, 0, .ro, 0⟩]⟩,
  ⟨0x8C, 1, 4, false, none, [⟨31, 0, .ro, 0⟩]⟩,
  ⟨0x90, 1, 4, false, none, [⟨31, 0, .ro, 0⟩]⟩,
  ⟨0x94, 1, 4, false, none, [⟨31, 0, .ro, 0⟩]⟩,
  ⟨0xA0, 1, 4, true, none, [⟨31, 0, .wo, 0⟩]⟩,
  ⟨0xA4, 1, 4, true, none, [⟨10, 0, .rw, 0⟩]⟩,
  ⟨0xA8, 1, 4, true, none, [⟨31, 0, .wo, 0⟩]⟩,
  ⟨0xB0, 1, 4, true, none, [⟨11, 0, .rw, 0⟩]⟩,
  ⟨0xB4, 1, 4, false, none, [⟨1, 0, .ro, 0⟩, ⟨3, 2, .ro, 0⟩, ⟨4, 4, .ro, 0⟩, ⟨7, 5, .ro, 0⟩, ⟨10, 8, .ro, 0⟩, ⟨31, 16, .ro, 0⟩]⟩,
  ⟨0xB8, 1, 4, false, none, [⟨13, 0, .ro, 0⟩]⟩,
  ⟨0xBC, 1, 4, false, none, [⟨31, 0, .ro, 0⟩]⟩,
  ⟨0xC0, 1, 4, false, none, [⟨10, 0, .ro, 0⟩]⟩,
  ⟨0xD0, 1, 4, false, none, [⟨31, 0, .ro, 0⟩]⟩]

/-- The CANTOR page, part 1 (12_cantor.md). -/
def regsCantor1 : List RegDesc := [
  ⟨0xD4, 1, 4, true, none, [⟨31, 0, .rw, 0⟩]⟩,
  ⟨0xD8, 1, 4, false, none, [⟨31, 0, .ro, 0⟩]⟩,
  ⟨0x400, 128, 4, false, none, [⟨31, 0, .ro, 0⟩]⟩,
  ⟨0x800, 1, 4, false, some 0, [⟨3, 0, .rw, 0⟩, ⟨4, 4, .rw, 0⟩]⟩]

/-- The CANTOR page (12_cantor.md). -/
def regsCantor : List RegDesc := regsCantor0 ++ regsCantor1

/-- The LLC page (11_memory_and_cache.md). -/
def regsLlc : List RegDesc := [
  ⟨0x40, 1, 4, false, none, [⟨15, 0, .w1s, 0⟩]⟩,
  ⟨0x60, 1, 4, false, none, [⟨31, 0, .ro, 0⟩]⟩,
  ⟨0x64, 1, 4, false, none, [⟨31, 0, .ro, 0⟩]⟩,
  ⟨0x68, 1, 4, false, none, [⟨2, 0, .ro, 0⟩, ⟨5, 4, .ro, 0⟩]⟩,
  ⟨0x6C, 1, 4, false, none, [⟨31, 0, .ro, 0⟩]⟩,
  ⟨0x70, 1, 4, false, none, [⟨15, 0, .ro, 0⟩]⟩,
  ⟨0x80, 16, 4, false, none, [⟨31, 0, .ro, 0⟩]⟩,
  ⟨0x100, 16, 4, false, none, [⟨31, 0, .ro, 0⟩]⟩,
  ⟨0x800, 1, 4, false, none, [⟨15, 0, .rw, 0⟩]⟩,
  ⟨0x804, 1, 4, false, none, [⟨0, 0, .rw, 0⟩]⟩]

/-- The BRIDGE page (11_memory_and_cache.md). -/
def regsBridge : List RegDesc := [
  ⟨0x40, 1, 4, false, none, [⟨0, 0, .ro, 0⟩]⟩,
  ⟨0x44, 1, 4, false, none, [⟨31, 0, .ro, 0⟩]⟩,
  ⟨0x48, 1, 4, false, none, [⟨31, 0, .ro, 0⟩]⟩,
  ⟨0x4C, 1, 4, false, none, [⟨31, 0, .ro, 0⟩]⟩]

/-- The DRAMC page (11_memory_and_cache.md). -/
def regsDramc : List RegDesc := [
  ⟨0x40, 1, 4, false, none, [⟨0, 0, .ro, 0⟩, ⟨1, 1, .ro, 0⟩, ⟨2, 2, .ro, 0⟩, ⟨6, 4, .ro, 0⟩, ⟨12, 8, .ro, 0x10⟩]⟩,
  ⟨0x44, 1, 4, false, none, [⟨31, 0, .ro, 0⟩]⟩,
  ⟨0x48, 1, 4, false, none, [⟨31, 0, .ro, 0⟩]⟩,
  ⟨0x4C, 1, 4, false, none, [⟨31, 0, .ro, 0⟩]⟩,
  ⟨0x50, 1, 4, false, none, [⟨31, 0, .ro, 0⟩]⟩,
  ⟨0x54, 1, 4, false, none, [⟨15, 0, .ro, 0⟩]⟩,
  ⟨0x58, 1, 4, false, none, [⟨2, 0, .ro, 0⟩, ⟨3, 3, .ro, 0⟩]⟩,
  ⟨0x5C, 1, 4, false, none, [⟨31, 0, .ro, 0⟩]⟩,
  ⟨0x60, 1, 4, false, none, [⟨31, 0, .ro, 0⟩]⟩,
  ⟨0x64, 1, 4, false, none, [⟨15, 0, .rw, 0⟩, ⟨31, 31, .ro, 0⟩]⟩,
  ⟨0x68, 1, 4, false, none, [⟨25, 0, .ro, 0⟩]⟩,
  ⟨0xC00, 1, 4, false, none, [⟨7, 0, .rw, 0⟩]⟩]

/-- The CHAFER page (16_chafer.md). -/
def regsChafer : List RegDesc := [
  ⟨0x40, 1, 4, false, none, [⟨0, 0, .ro, 0⟩, ⟨2, 1, .ro, 0⟩, ⟨20, 16, .ro, 0⟩]⟩,
  ⟨0x44, 1, 4, false, none, [⟨12, 0, .ro, 0⟩, ⟨16, 16, .ro, 0⟩]⟩,
  ⟨0x48, 1, 4, false, none, [⟨10, 0, .ro, 0⟩]⟩,
  ⟨0x4C, 1, 4, false, none, [⟨0, 0, .ro, 0⟩, ⟨1, 1, .ro, 0⟩, ⟨2, 2, .ro, 0⟩, ⟨3, 3, .ro, 0⟩]⟩,
  ⟨0x60, 6, 4, false, none, [⟨31, 0, .ro, 0⟩]⟩,
  ⟨0x800, 1, 4, false, none, [⟨0, 0, .rw, 0⟩]⟩]

/-- The WINGCASE page, part 0 (17_wingcase.md). -/
def regsWingcase0 : List RegDesc := [
  ⟨0x40, 1, 4, false, none, [⟨10, 0, .ro, 0⟩, ⟨16, 16, .ro, 0⟩, ⟨17, 17, .ro, 0⟩]⟩,
  ⟨0x44, 1, 4, false, none, [⟨31, 0, .ro, 0⟩]⟩,
  ⟨0x48, 1, 4, false, none, [⟨0, 0, .rh, 0⟩]⟩,
  ⟨0x4C, 1, 4, false, none, [⟨23, 0, .rw, 0⟩]⟩,
  ⟨0x50, 1, 4, false, none, [⟨10, 0, .ro, 0⟩, ⟨23, 16, .ro, 0⟩, ⟨31, 31, .ro, 0⟩]⟩,
  ⟨0x54, 1, 4, false, none, [⟨10, 0, .ro, 0⟩]⟩,
  ⟨0x58, 1, 4, false, none, [⟨31, 6, .rw, 0⟩]⟩,
  ⟨0x5C, 1, 4, false, none, [⟨15, 0, .rw, 0⟩]⟩,
  ⟨0x60, 8, 4, false, none, [⟨31, 0, .ro, 0⟩]⟩,
  ⟨0x80, 1, 4, true, none, [⟨9, 0, .rw, 0⟩]⟩,
  ⟨0x84, 1, 4, true, none, [⟨31, 0, .rw, 0⟩]⟩,
  ⟨0x88, 1, 4, true, none, [⟨9, 0, .rw, 0⟩]⟩,
  ⟨0x8C, 1, 4, true, none, [⟨31, 0, .rw, 0⟩]⟩,
  ⟨0x90, 1, 4, false, some 1, [⟨31, 6, .rw, 0⟩]⟩,
  ⟨0x94, 1, 4, false, some 1, [⟨15, 0, .rw, 0⟩]⟩,
  ⟨0x98, 1, 4, false, some 1, [⟨0, 0, .rw, 0⟩]⟩,
  ⟨0xA0, 2, 4, false, none, [⟨31, 0, .ro, 0⟩]⟩,
  ⟨0xB0, 1, 4, false, none, [⟨15, 0, .ro, 0⟩, ⟨31, 16, .ro, 0⟩]⟩,
  ⟨0x100, 4, 64, false, none, [⟨0, 0, .rw, 0⟩, ⟨3, 1, .rw, 0⟩, ⟨4, 4, .rh, 0⟩, ⟨15, 8, .rw, 0xFF⟩, ⟨17, 16, .rw, 0⟩, ⟨18, 18, .rw, 0⟩, ⟨20, 19, .rw, 0⟩, ⟨22, 21, .rw, 0⟩, ⟨25, 24, .rw, 0⟩]⟩,
  ⟨0x104, 6, 64, false, none, [⟨11, 0, .rw, 0⟩, ⟨27, 16, .rw, 0⟩]⟩,
  ⟨0x108, 6, 64, false, none, [⟨11, 0, .rw, 0⟩, ⟨27, 16, .rw, 0⟩]⟩,
  ⟨0x10C, 4, 64, false, none, [⟨31, 0, .rw, 0⟩]⟩,
  ⟨0x110, 4, 64, false, none, [⟨15, 0, .rw, 0⟩]⟩,
  ⟨0x114, 4, 64, false, none, [⟨31, 0, .rw, 0⟩]⟩]

/-- The WINGCASE page, part 1 (17_wingcase.md). -/
def regsWingcase1 : List RegDesc := [
  ⟨0x118, 4, 64, false, none, [⟨15, 0, .rw, 0⟩]⟩,
  ⟨0x11C, 4, 64, false, none, [⟨11, 0, .rw, 0⟩, ⟨27, 16, .rw, 0⟩]⟩,
  ⟨0x120, 4, 64, false, none, [⟨17, 2, .rw, 0⟩]⟩,
  ⟨0x200, 2, 64, false, none, [⟨0, 0, .rw, 0⟩, ⟨3, 1, .rw, 0⟩, ⟨15, 8, .rw, 0xFF⟩, ⟨17, 16, .rw, 0⟩, ⟨18, 18, .rw, 0⟩, ⟨19, 19, .rw, 0⟩, ⟨20, 20, .rw, 0⟩, ⟨28, 24, .rw, 0⟩]⟩,
  ⟨0x20C, 2, 64, false, none, [⟨31, 0, .rw, 0⟩]⟩,
  ⟨0x210, 2, 64, false, none, [⟨15, 0, .rw, 0⟩]⟩,
  ⟨0x214, 2, 64, false, none, [⟨12, 0, .rw, 0⟩, ⟨28, 16, .rw, 0⟩]⟩,
  ⟨0x218, 2, 64, false, none, [⟨31, 0, .rw, 0⟩]⟩,
  ⟨0x21C, 2, 64, false, none, [⟨31, 0, .rw, 0x10000⟩]⟩,
  ⟨0x220, 2, 64, false, none, [⟨31, 0, .rw, 0⟩]⟩,
  ⟨0x224, 2, 64, false, none, [⟨31, 0, .rw, 0⟩]⟩,
  ⟨0x228, 2, 64, false, none, [⟨31, 0, .rw, 0x10000⟩]⟩,
  ⟨0x22C, 2, 64, false, none, [⟨31, 0, .rw, 0⟩]⟩,
  ⟨0x230, 2, 64, false, none, [⟨31, 0, .rw, 0⟩]⟩,
  ⟨0x400, 16, 16, false, none, [⟨11, 0, .rh, 0⟩, ⟨27, 16, .rh, 0⟩]⟩,
  ⟨0x404, 16, 16, false, none, [⟨11, 0, .rh, 0⟩, ⟨27, 16, .rh, 0⟩]⟩,
  ⟨0x408, 16, 16, false, none, [⟨31, 0, .rh, 0⟩]⟩,
  ⟨0x40C, 16, 16, false, none, [⟨0, 0, .rh, 0⟩, ⟨1, 1, .rh, 0⟩]⟩,
  ⟨0x500, 16, 4, false, none, [⟨31, 0, .ro, 0⟩]⟩,
  ⟨0x800, 1, 4, false, none, [⟨11, 0, .rw, 0x780⟩, ⟨26, 16, .rw, 0x4B0⟩]⟩,
  ⟨0x804, 1, 4, false, none, [⟨11, 0, .rw, 0x40⟩, ⟨26, 16, .rw, 0x19⟩]⟩,
  ⟨0x808, 1, 4, false, none, [⟨7, 0, .rw, 0x20⟩, ⟨11, 8, .rw, 4⟩, ⟨16, 16, .rw, 0⟩, ⟨17, 17, .rw, 0⟩]⟩,
  ⟨0x80C, 1, 4, false, none, [⟨12, 0, .rw, 0x800⟩, ⟨26, 16, .rw, 0x4E2⟩]⟩,
  ⟨0xE00, 64, 4, false, none, [⟨7, 0, .rw, 0⟩, ⟨15, 8, .rw, 0⟩, ⟨16, 16, .rw, 0⟩, ⟨17, 17, .rw, 0⟩]⟩]

/-- The WINGCASE page, part 2 (17_wingcase.md). -/
def regsWingcase2 : List RegDesc := [
  ⟨0xF00, 64, 4, false, none, [⟨10, 0, .ro, 0⟩, ⟨27, 16, .ro, 0⟩, ⟨31, 31, .ro, 0⟩]⟩]

/-- The WINGCASE page (17_wingcase.md). -/
def regsWingcase : List RegDesc := regsWingcase0 ++ regsWingcase1 ++ regsWingcase2

/-- The DSI page (17_wingcase.md). -/
def regsDsi : List RegDesc := [
  ⟨0x40, 1, 4, false, none, [⟨0, 0, .ro, 0⟩, ⟨1, 1, .ro, 0⟩]⟩,
  ⟨0x44, 1, 4, false, none, [⟨5, 0, .rw, 0⟩, ⟨7, 6, .rw, 0⟩, ⟨23, 8, .rw, 0⟩]⟩,
  ⟨0x48, 4, 4, false, none, [⟨31, 0, .rw, 0⟩]⟩,
  ⟨0x58, 1, 4, false, none, [⟨0, 0, .w1s, 0⟩]⟩,
  ⟨0x5C, 1, 4, false, none, [⟨0, 0, .ro, 0⟩]⟩,
  ⟨0xC00, 1, 4, false, none, [⟨1, 0, .rw, 1⟩, ⟨3, 2, .rw, 2⟩, ⟨15, 4, .rw, 0x3E8⟩, ⟨16, 16, .rw, 0⟩, ⟨17, 17, .rw, 1⟩, ⟨18, 18, .rw, 1⟩, ⟨20, 19, .rw, 0⟩]⟩]

/-- The LVDS page (17_wingcase.md). -/
def regsLvds : List RegDesc := [
  ⟨0x40, 1, 4, false, none, [⟨0, 0, .ro, 0⟩]⟩,
  ⟨0xC00, 1, 4, false, none, [⟨0, 0, .rw, 1⟩, ⟨1, 1, .rw, 0⟩, ⟨2, 2, .rw, 0⟩]⟩]

/-- The CAM page (15_camera_intake.md). -/
def regsCam : List RegDesc := [
  ⟨0x40, 1, 4, false, none, [⟨0, 0, .ro, 0⟩, ⟨1, 1, .ro, 0⟩]⟩,
  ⟨0x44, 5, 4, false, none, [⟨31, 0, .ro, 0⟩]⟩,
  ⟨0x60, 4, 4, false, none, [⟨0, 0, .ro, 0⟩, ⟨1, 1, .ro, 0⟩, ⟨2, 2, .ro, 0⟩, ⟨7, 4, .ro, 0⟩, ⟨15, 8, .ro, 0⟩]⟩,
  ⟨0x80, 16, 4, false, none, [⟨31, 0, .ro, 0⟩]⟩,
  ⟨0xC0, 1, 4, true, none, [⟨1, 0, .wo, 0⟩, ⟨7, 4, .wo, 0⟩]⟩,
  ⟨0xC4, 1, 4, false, none, [⟨3, 0, .rw, 0⟩, ⟨4, 4, .rw, 0⟩]⟩,
  ⟨0x800, 4, 16, false, none, [⟨0, 0, .rw, 0⟩, ⟨4, 1, .rw, 0⟩, ⟨13, 8, .rw, 0⟩, ⟨14, 14, .rw, 0⟩, ⟨15, 15, .rw, 0⟩, ⟨20, 16, .rw, 2⟩]⟩,
  ⟨0x804, 4, 16, false, none, [⟨15, 0, .rw, 0⟩, ⟨28, 16, .rw, 1⟩]⟩,
  ⟨0x808, 4, 16, false, none, [⟨31, 6, .rw, 0⟩]⟩,
  ⟨0x80C, 4, 16, false, none, [⟨15, 0, .rw, 0⟩, ⟨23, 16, .rw, 2⟩, ⟨30, 24, .rw, 0⟩]⟩,
  ⟨0xC00, 1, 4, false, none, [⟨1, 0, .rw, 0⟩, ⟨3, 2, .rw, 2⟩, ⟨15, 4, .rw, 0x50⟩]⟩]

/-- The STREAMGRP page (15_camera_intake.md). -/
def regsStreamgrp : List RegDesc := [
  ⟨0x40, 4, 8, false, none, [⟨31, 0, .ro, 0⟩]⟩,
  ⟨0x44, 4, 8, false, none, [⟨31, 0, .ro, 0⟩]⟩,
  ⟨0x60, 4, 4, false, none, [⟨31, 0, .ro, 0⟩]⟩,
  ⟨0x800, 4, 8, false, none, [⟨31, 0, .rw, 0⟩]⟩,
  ⟨0x804, 4, 8, false, none, [⟨0, 0, .rw, 0⟩, ⟨1, 1, .rw, 0⟩, ⟨6, 2, .rw, 2⟩, ⟨31, 16, .rw, 0⟩]⟩]

/-- The CHOIR page (18_choir.md). -/
def regsChoir : List RegDesc := [
  ⟨0x40, 1, 4, true, none, [⟨4, 0, .wo, 0⟩]⟩,
  ⟨0x44, 1, 4, true, none, [⟨3, 0, .wo, 0⟩]⟩,
  ⟨0x48, 1, 4, false, none, [⟨4, 0, .ro, 0⟩, ⟨10, 8, .ro, 0⟩, ⟨15, 12, .ro, 0⟩]⟩,
  ⟨0x50, 4, 4, false, none, [⟨31, 0, .ro, 0⟩]⟩,
  ⟨0x60, 1, 4, false, none, [⟨15, 0, .ro, 0⟩]⟩,
  ⟨0x80, 16, 8, false, none, [⟨4, 0, .ro, 0⟩, ⟨7, 5, .ro, 0⟩, ⟨10, 8, .ro, 0⟩, ⟨31, 16, .ro, 0⟩]⟩,
  ⟨0x84, 16, 8, false, none, [⟨31, 0, .ro, 0⟩]⟩,
  ⟨0x100, 32, 32, false, none, [⟨2, 0, .rw, 0⟩, ⟨4, 3, .rw, 0⟩, ⟨7, 5, .rw, 0⟩, ⟨8, 8, .rw, 0⟩, ⟨9, 9, .rw, 0⟩, ⟨10, 10, .rw, 0⟩, ⟨22, 16, .rw, 0⟩]⟩,
  ⟨0x104, 32, 32, false, none, [⟨31, 0, .rw, 0⟩]⟩,
  ⟨0x108, 32, 32, false, none, [⟨31, 0, .rw, 0⟩]⟩,
  ⟨0x10C, 32, 32, false, none, [⟨15, 0, .rw, 0⟩, ⟨31, 16, .rw, 0⟩]⟩,
  ⟨0x110, 32, 32, false, none, [⟨23, 0, .rw, 0⟩]⟩,
  ⟨0x114, 32, 32, false, none, [⟨23, 0, .rw, 0⟩]⟩,
  ⟨0x118, 32, 32, false, none, [⟨15, 0, .rw, 0⟩, ⟨31, 16, .rw, 0⟩]⟩,
  ⟨0x11C, 32, 32, false, none, [⟨15, 0, .rw, 0⟩, ⟨31, 16, .rw, 0⟩]⟩,
  ⟨0x800, 1, 4, false, none, [⟨3, 0, .rh, 0⟩]⟩,
  ⟨0xE00, 36, 4, false, none, [⟨31, 0, .ro, 0⟩]⟩]

/-- The CHOIRXP page (18_choir.md). -/
def regsChoirxp : List RegDesc := [
  ⟨0x40, 1, 4, true, none, [⟨8, 0, .rw, 0⟩]⟩,
  ⟨0x44, 1, 4, false, none, [⟨15, 0, .rw, 0⟩, ⟨31, 16, .rw, 0⟩]⟩,
  ⟨0x48, 1, 4, false, none, [⟨15, 0, .ro, 0⟩]⟩,
  ⟨0x80, 16, 4, false, none, [⟨22, 0, .ro, 0⟩]⟩,
  ⟨0x800, 16, 4, false, none, [⟨15, 0, .rw, 0x1000⟩, ⟨16, 16, .rw, 0⟩]⟩,
  ⟨0x840, 16, 4, false, none, [⟨1, 0, .rw, 0⟩, ⟨7, 4, .rw, 0⟩, ⟨8, 8, .rw, 0⟩]⟩]

/-- The TDM page (18_choir.md). -/
def regsTdm : List RegDesc := [
  ⟨0x40, 1, 4, false, none, [⟨0, 0, .ro, 0⟩, ⟨1, 1, .ro, 0⟩]⟩,
  ⟨0x44, 1, 4, false, none, [⟨31, 0, .ro, 0⟩]⟩,
  ⟨0xC00, 1, 4, false, none, [⟨1, 0, .rw, 0⟩, ⟨2, 2, .rw, 0⟩, ⟨5, 3, .rw, 1⟩, ⟨6, 6, .rw, 1⟩, ⟨8, 7, .rw, 2⟩, ⟨9, 9, .rw, 1⟩, ⟨10, 10, .rw, 0⟩]⟩,
  ⟨0xC40, 16, 4, false, none, [⟨3, 0, .rw, 0⟩, ⟨4, 4, .rw, 0⟩]⟩]

/-- The ETH page (20_side_ports.md). -/
def regsEth : List RegDesc := [
  ⟨0x40, 1, 4, false, none, [⟨0, 0, .ro, 0⟩, ⟨2, 1, .ro, 0⟩, ⟨3, 3, .ro, 0⟩]⟩,
  ⟨0x44, 1, 4, false, none, [⟨31, 0, .ro, 0⟩]⟩,
  ⟨0x48, 1, 4, false, none, [⟨31, 0, .rw, 0⟩]⟩,
  ⟨0x4C, 1, 4, false, none, [⟨7, 0, .ro, 0xFF⟩]⟩,
  ⟨0x60, 8, 4, false, none, [⟨31, 0, .ro, 0⟩]⟩,
  ⟨0x80, 8, 4, false, none, [⟨31, 0, .rw, 0⟩]⟩,
  ⟨0xA0, 8, 4, false, none, [⟨31, 0, .ro, 0⟩]⟩,
  ⟨0x800, 1, 4, false, none, [⟨7, 0, .rw, 0xFF⟩]⟩,
  ⟨0xC00, 1, 4, false, none, [⟨1, 0, .rw, 0⟩, ⟨2, 2, .rw, 0⟩, ⟨3, 3, .rw, 0⟩, ⟨10, 4, .rw, 0⟩]⟩,
  ⟨0xC04, 1, 4, false, none, [⟨31, 0, .rw, 0⟩]⟩,
  ⟨0xC08, 1, 4, false, none, [⟨15, 0, .rw, 0⟩]⟩,
  ⟨0xC0C, 1, 4, false, none, [⟨31, 4, .rw, 0⟩]⟩,
  ⟨0xC10, 1, 4, false, none, [⟨15, 0, .rw, 0⟩]⟩,
  ⟨0xC14, 1, 4, false, none, [⟨3, 0, .rw, 4⟩]⟩,
  ⟨0xC40, 8, 8, false, none, [⟨31, 5, .rw, 0⟩]⟩,
  ⟨0xC44, 8, 8, false, none, [⟨15, 0, .rw, 0⟩]⟩,
  ⟨0xC80, 8, 4, false, none, [⟨3, 0, .rw, 4⟩]⟩]

/-- The I3C page (20_side_ports.md). -/
def regsI3c : List RegDesc := [
  ⟨0x40, 1, 4, false, none, [⟨6, 0, .rw, 0⟩, ⟨7, 7, .rw, 0⟩, ⟨9, 8, .rw, 0⟩, ⟨23, 16, .rw, 0⟩, ⟨30, 24, .rw, 0⟩]⟩,
  ⟨0x44, 1, 4, false, none, [⟨31, 0, .rw, 0⟩]⟩,
  ⟨0x48, 1, 4, false, none, [⟨0, 0, .w1s, 0⟩]⟩,
  ⟨0x4C, 1, 4, false, none, [⟨0, 0, .ro, 0⟩, ⟨3, 1, .ro, 0⟩, ⟨14, 8, .ro, 0⟩]⟩,
  ⟨0x50, 1, 4, false, none, [⟨6, 0, .rl, 0⟩, ⟨7, 7, .rl, 0⟩, ⟨10, 8, .rl, 0⟩]⟩,
  ⟨0x54, 1, 4, false, none, [⟨31, 0, .ro, 0⟩]⟩,
  ⟨0x58, 1, 4, false, none, [⟨31, 0, .ro, 0⟩]⟩,
  ⟨0x5C, 1, 4, false, none, [⟨31, 0, .ro, 0⟩]⟩,
  ⟨0x60, 1, 4, false, none, [⟨31, 0, .ro, 0⟩]⟩,
  ⟨0xC00, 1, 4, false, none, [⟨7, 0, .rw, 8⟩, ⟨15, 8, .rw, 0xFF⟩, ⟨16, 16, .rw, 0⟩]⟩]

/-- The SPI page (20_side_ports.md). -/
def regsSpi : List RegDesc := [
  ⟨0x40, 2, 32, false, none, [⟨1, 0, .rw, 0⟩, ⟨3, 2, .rw, 0⟩, ⟨10, 4, .rw, 0⟩, ⟨11, 11, .rw, 0⟩]⟩,
  ⟨0x44, 2, 32, false, none, [⟨10, 0, .rw, 0⟩]⟩,
  ⟨0x48, 2, 32, false, none, [⟨31, 0, .rw, 0⟩]⟩,
  ⟨0x4C, 2, 32, false, none, [⟨0, 0, .w1s, 0⟩]⟩,
  ⟨0x50, 2, 32, false, none, [⟨0, 0, .ro, 0⟩]⟩,
  ⟨0xC0, 1, 4, false, none, [⟨0, 0, .w1c, 0⟩, ⟨1, 1, .w1s, 0⟩]⟩,
  ⟨0xC4, 1, 4, false, none, [⟨31, 0, .ro, 0⟩]⟩,
  ⟨0xC8, 1, 4, false, none, [⟨31, 0, .ro, 0⟩]⟩,
  ⟨0xCC, 1, 4, false, none, [⟨31, 0, .ro, 0⟩]⟩,
  ⟨0x100, 32, 4, false, none, [⟨31, 0, .ro, 0⟩]⟩,
  ⟨0x180, 32, 4, false, none, [⟨31, 0, .rw, 0⟩]⟩,
  ⟨0xC00, 1, 4, false, none, [⟨7, 0, .rw, 4⟩, ⟨15, 8, .rw, 4⟩]⟩]

/-- The GPIO page (20_side_ports.md). -/
def regsGpio : List RegDesc := [
  ⟨0x40, 1, 4, false, none, [⟨31, 0, .ro, 0⟩]⟩,
  ⟨0x44, 1, 4, false, none, [⟨31, 0, .rw, 0⟩]⟩,
  ⟨0x48, 1, 4, false, none, [⟨31, 0, .w1s, 0⟩]⟩,
  ⟨0x4C, 1, 4, false, none, [⟨31, 0, .w1c, 0⟩]⟩,
  ⟨0x50, 1, 4, false, none, [⟨31, 0, .rw, 0⟩]⟩,
  ⟨0x54, 1, 4, false, none, [⟨31, 0, .rw, 0⟩]⟩,
  ⟨0x58, 1, 4, false, none, [⟨31, 0, .rw, 0⟩]⟩,
  ⟨0x5C, 1, 4, false, none, [⟨31, 0, .rw, 0⟩]⟩,
  ⟨0x80, 32, 4, false, none, [⟨3, 0, .rw, 0⟩, ⟨4, 4, .rw, 0⟩]⟩]

/-- The SLINK page (22_stave_link_and_hymnal.md). -/
def regsSlink : List RegDesc := [
  ⟨0x40, 1, 4, false, none, [⟨0, 0, .ro, 0⟩, ⟨1, 1, .ro, 0⟩, ⟨2, 2, .ro, 0⟩]⟩,
  ⟨0x44, 1, 4, false, none, [⟨2, 0, .ro, 0⟩, ⟨31, 16, .ro, 0⟩]⟩,
  ⟨0x48, 1, 4, false, none, [⟨31, 0, .ro, 0⟩]⟩,
  ⟨0x4C, 1, 4, false, none, [⟨31, 0, .ro, 0⟩]⟩,
  ⟨0x50, 1, 4, false, none, [⟨15, 0, .ro, 0⟩]⟩,
  ⟨0x54, 1, 4, false, none, [⟨15, 0, .ro, 0⟩]⟩,
  ⟨0x58, 1, 4, false, none, [⟨31, 0, .ro, 0⟩]⟩,
  ⟨0x60, 8, 4, false, none, [⟨31, 0, .ro, 0⟩]⟩,
  ⟨0x80, 1, 4, false, some 0, [⟨2, 0, .rw, 0⟩]⟩,
  ⟨0x84, 1, 4, false, some 0, [⟨31, 0, .rw, 0⟩]⟩,
  ⟨0x88, 1, 4, false, some 0, [⟨15, 0, .rw, 0⟩]⟩,
  ⟨0x8C, 1, 4, true, some 0, [⟨31, 0, .wo, 0⟩]⟩,
  ⟨0x90, 1, 4, false, some 0, [⟨2, 0, .rw, 0⟩]⟩,
  ⟨0x94, 1, 4, true, some 0, [⟨6, 0, .wo, 0⟩]⟩,
  ⟨0xA0, 1, 4, false, some 0, [⟨0, 0, .w1s, 0⟩, ⟨1, 1, .w1s, 0⟩, ⟨2, 2, .w1s, 0⟩]⟩,
  ⟨0xA4, 1, 4, false, some 0, [⟨0, 0, .ro, 0⟩, ⟨1, 1, .ro, 0⟩, ⟨10, 8, .ro, 0⟩]⟩,
  ⟨0xA8, 1, 4, false, some 0, [⟨15, 0, .ro, 0⟩]⟩,
  ⟨0xB0, 1, 4, false, none, [⟨31, 0, .ro, 0⟩]⟩,
  ⟨0xB4, 1, 4, true, none, [⟨31, 0, .rw, 0⟩]⟩,
  ⟨0x400, 128, 4, false, none, [⟨31, 0, .ro, 0⟩]⟩,
  ⟨0xC00, 1, 4, false, none, [⟨6, 0, .rw, 0⟩, ⟨8, 8, .rw, 0⟩]⟩,
  ⟨0xC40, 1, 4, false, some 0, [⟨2, 0, .rw, 0⟩]⟩,
  ⟨0xC44, 1, 4, false, some 0, [⟨7, 0, .rw, 0⟩]⟩]

/-- The RINGSTATE page (07_rings_and_admission.md). -/
def regsRingstate : List RegDesc := [
  ⟨0x0, 64, 64, false, none, [⟨31, 12, .rw, 0⟩]⟩,
  ⟨0x4, 64, 64, false, none, [⟨15, 0, .rw, 0⟩]⟩,
  ⟨0x8, 64, 64, false, none, [⟨31, 12, .rw, 0⟩]⟩,
  ⟨0xC, 64, 64, false, none, [⟨15, 0, .rw, 0⟩]⟩,
  ⟨0x10, 64, 64, false, none, [⟨4, 0, .rw, 0⟩, ⟨12, 8, .rw, 0⟩]⟩,
  ⟨0x14, 64, 64, false, none, [⟨0, 0, .rw, 0⟩, ⟨1, 1, .w1s, 0⟩, ⟨16, 8, .rw, 0⟩]⟩,
  ⟨0x18, 64, 64, false, none, [⟨7, 0, .rw, 1⟩, ⟨14, 8, .rw, 0⟩]⟩,
  ⟨0x20, 64, 64, false, none, [⟨31, 0, .ro, 0⟩]⟩,
  ⟨0x24, 64, 64, false, none, [⟨31, 0, .ro, 0⟩]⟩,
  ⟨0x28, 64, 64, false, none, [⟨31, 0, .ro, 0⟩]⟩,
  ⟨0x2C, 64, 64, false, none, [⟨31, 0, .ro, 0⟩]⟩,
  ⟨0x30, 64, 64, false, none, [⟨15, 0, .ro, 0⟩, ⟨17, 16, .ro, 0⟩, ⟨23, 20, .ro, 0⟩]⟩,
  ⟨0x34, 64, 64, false, none, [⟨31, 0, .ro, 0⟩]⟩,
  ⟨0x38, 64, 64, false, none, [⟨12, 0, .ro, 0⟩, ⟨19, 16, .ro, 0⟩]⟩,
  ⟨0x3C, 64, 64, false, none, [⟨31, 0, .ro, 0⟩]⟩]

/-- The TENANT page (06_host_link_and_tenants.md). -/
def regsTenant : List RegDesc := [
  ⟨0x40, 1, 4, false, none, [⟨6, 0, .ro, 0⟩, ⟨7, 7, .ro, 0⟩, ⟨20, 8, .ro, 0⟩]⟩,
  ⟨0x44, 1, 4, false, none, [⟨21, 0, .ro, 0⟩]⟩,
  ⟨0x48, 1, 4, false, none, [⟨21, 0, .ro, 0⟩]⟩,
  ⟨0x4C, 1, 4, false, none, [⟨2, 0, .ro, 0⟩, ⟨16, 4, .ro, 0⟩]⟩,
  ⟨0x50, 1, 4, false, none, [⟨21, 0, .ro, 0⟩]⟩,
  ⟨0x54, 1, 4, false, none, [⟨31, 0, .rl, 0⟩]⟩,
  ⟨0x58, 1, 4, false, none, [⟨31, 0, .ro, 0⟩]⟩,
  ⟨0x5C, 1, 4, true, none, [⟨1, 0, .wo, 0⟩, ⟨31, 2, .wo, 0⟩]⟩]

/-- The common header of every listed page (03_register_pages.md). -/
def regsHeader : List RegDesc := [
  ⟨0x0, 1, 4, false, none, [⟨7, 0, .ro, 0⟩, ⟨11, 8, .ro, 1⟩, ⟨19, 12, .ro, 0⟩, ⟨31, 20, .ro, 0⟩]⟩,
  ⟨0x4, 1, 4, false, none, [⟨28, 0, .ro, 0⟩, ⟨29, 29, .ro, 0⟩, ⟨30, 30, .ro, 0⟩, ⟨31, 31, .ro, 0⟩]⟩,
  ⟨0x8, 1, 4, false, none, [⟨0, 0, .rw, 0⟩, ⟨1, 1, .w1s, 0⟩]⟩,
  ⟨0xC, 1, 4, false, none, [⟨0, 0, .ro, 0⟩, ⟨1, 1, .ro, 0⟩, ⟨2, 2, .ro, 0⟩, ⟨3, 3, .ro, 0⟩]⟩,
  ⟨0x10, 1, 4, false, none, [⟨31, 0, .w1c, 0⟩]⟩,
  ⟨0x14, 1, 4, false, none, [⟨31, 0, .rw, 0⟩]⟩,
  ⟨0x18, 1, 4, false, none, [⟨31, 0, .w1s, 0⟩]⟩,
  ⟨0x1C, 1, 4, false, none, [⟨11, 0, .ro, 0⟩, ⟨21, 16, .ro, 0⟩]⟩,
  ⟨0x20, 1, 4, false, none, [⟨7, 0, .rw, 0x41⟩]⟩,
  ⟨0x24, 1, 4, false, none, [⟨0, 0, .rw, 1⟩, ⟨1, 1, .rw, 1⟩, ⟨2, 2, .rw, 0⟩, ⟨3, 3, .rw, 0⟩, ⟨4, 4, .rw, 0⟩, ⟨5, 5, .rw, 0⟩, ⟨6, 6, .rw, 0⟩]⟩,
  ⟨0x28, 1, 4, false, none, [⟨31, 0, .ro, 0⟩]⟩,
  ⟨0x2C, 1, 4, false, none, [⟨31, 0, .ro, 0⟩]⟩]

/-- The common header of every listed page (03_register_pages.md). -/
def regsHeaderStaged : List RegDesc := [
  ⟨0x30, 1, 4, false, none, [⟨0, 0, .ro, 0⟩, ⟨1, 1, .w1s, 0⟩, ⟨2, 2, .ro, 0⟩]⟩,
  ⟨0x34, 1, 4, false, none, [⟨31, 0, .ro, 0⟩]⟩]

/-- One row of the block map for each page type (R60, R197). -/
def pageTable : List PageDesc := [
  ⟨.guard, 0x1, 1, true, false, false, 0x0, 0x0, 0, 0, regsGuard⟩,
  ⟨.boot, 0x2, 1, true, false, false, 0x0, 0x0, 0, 0, regsBoot⟩,
  ⟨.tune, 0x3, 1, true, false, false, 0x7, 0x0, 3, 0, regsTune⟩,
  ⟨.roll, 0x4, 1, true, false, false, 0xF, 0x3, 4, 0, regsRoll⟩,
  ⟨.auth, 0x5, 1, true, false, false, 0x3, 0x7, 2, 0, regsAuth⟩,
  ⟨.safety, 0x6, 1, true, true, false, 0x8000000F, 0x9, 8, 0, regsSafety⟩,
  ⟨.agewatch, 0x7, 1, true, true, false, 0x80000003, 0x11, 4, 0, regsAgewatch⟩,
  ⟨.fault, 0x8, 1, true, false, false, 0xF, 0x15, 8, 0, regsFault⟩,
  ⟨.weevil, 0x9, 1, true, false, false, 0x3, 0x1D, 2, 0, regsWeevil⟩,
  ⟨.debug, 0xA, 1, true, false, false, 0x3, 0x1F, 2, 0, regsDebug⟩,
  ⟨.hart, 0xC, 4, true, false, false, 0x3, 0x21, 2, 2, regsHart⟩,
  ⟨.stave, 0x10, 1, false, false, false, 0x7, 0x29, 3, 0, regsStave⟩,
  ⟨.clock, 0x11, 1, false, false, false, 0x7, 0x2C, 3, 0, regsClock⟩,
  ⟨.timer, 0x12, 1, false, true, false, 0x8001FFFF, 0x2F, 16, 0, regsTimer⟩,
  ⟨.evc, 0x13, 1, true, false, false, 0x3, 0x3F, 2, 0, regsEvc⟩,
  ⟨.evcsrc, 0x14, 8, true, false, false, 0x0, 0x0, 0, 0, regsEvcsrc⟩,
  ⟨.host, 0x20, 1, false, false, false, 0xFF, 0x41, 8, 0, regsHost⟩,
  ⟨.sriov, 0x21, 1, false, false, false, 0xF, 0x49, 4, 0, regsSriov⟩,
  ⟨.admission, 0x22, 1, false, true, false, 0x80000007, 0x4D, 4, 0, regsAdmit⟩,
  ⟨.pool, 0x23, 1, false, true, false, 0x80000007, 0x51, 4, 0, regsPool⟩,
  ⟨.hymnal, 0x24, 1, false, false, true, 0xF, 0x55, 4, 0, regsHymnal⟩,
  ⟨.mmu, 0x28, 2, false, false, false, 0x3, 0x59, 2, 2, regsMmu⟩,
  ⟨.core, 0x40, 32, false, false, false, 0xF, 0x5D, 1, 1, regsCore⟩,
  ⟨.cantor, 0x60, 2, false, true, false, 0x8000001F, 0x7D, 2, 2, regsCantor⟩,
  ⟨.llc, 0x62, 2, false, true, false, 0x80000003, 0x81, 2, 2, regsLlc⟩,
  ⟨.bridge, 0x64, 1, false, false, false, 0x3, 0x85, 1, 0, regsBridge⟩,
  ⟨.dramc, 0x65, 8, false, false, true, 0x1F, 0x86, 1, 1, regsDramc⟩,
  ⟨.chafer, 0x70, 2, false, true, false, 0x8000000F, 0x8E, 4, 4, regsChafer⟩,
  ⟨.wingcase, 0x80, 2, false, true, false, 0x800000FF, 0x96, 8, 8, regsWingcase⟩,
  ⟨.dsi, 0x82, 1, false, false, true, 0x3, 0xA6, 2, 0, regsDsi⟩,
  ⟨.lvds, 0x83, 1, false, false, true, 0x1, 0xA8, 2, 0, regsLvds⟩,
  ⟨.cam, 0x90, 8, false, true, true, 0x800000FF, 0xAA, 4, 4, regsCam⟩,
  ⟨.streamgrp, 0x98, 1, false, true, false, 0x800000FF, 0xCA, 8, 0, regsStreamgrp⟩,
  ⟨.choir, 0xA0, 1, false, true, false, 0x8000000F, 0xD2, 4, 0, regsChoir⟩,
  ⟨.choirxp, 0xA1, 1, false, true, false, 0x80000001, 0xD6, 2, 0, regsChoirxp⟩,
  ⟨.tdm, 0xA2, 4, false, false, true, 0x3, 0xD8, 2, 2, regsTdm⟩,
  ⟨.eth, 0xB0, 2, false, true, true, 0x8000000F, 0xE0, 4, 4, regsEth⟩,
  ⟨.i3c, 0xB2, 4, false, false, true, 0x7, 0xE8, 2, 2, regsI3c⟩,
  ⟨.spi, 0xB6, 1, false, false, true, 0xF, 0xF0, 2, 0, regsSpi⟩,
  ⟨.gpio, 0xB7, 1, false, false, false, 0xFFFFFFFF, 0xF2, 4, 0, regsGpio⟩,
  ⟨.slink, 0xC0, 2, false, false, true, 0xF, 0xF6, 4, 4, regsSlink⟩,
  ⟨.ringstate, 0x100, 256, false, false, false, 0x0, 0x0, 0, 0, regsRingstate⟩]

/-- The tenant control page of R56 and R81, page numbers 0x400 + n in the model's own numbering. -/
def tenantDesc : PageDesc := ⟨.tenant, 0x400, 65, false, false, false, 0, 0, 0, 0, regsTenant⟩

end Sys2Proof.Machine
end

