-- ==== Sys2Proof/Config.lean ====
section
/-! DEFINITION. The free values: what the manual leaves open, and functions it names but leaves to another
standard. Each is an opaque constant with no body, so no proof can rest on a value of it. -/
namespace Sys2Proof.Config

/-- A choice of one of two behaviours that the manual leaves open, the n-th that the model meets (a TLB entry
kept or not by R225, a line held by a cache or not by R241). Log entry 6. -/
opaque freeBool : Nat → Bool

/-- A value that the manual leaves open, the n-th that the model meets. Log entry 6. -/
opaque freeNat : Nat → Nat

/-- SHA-384 of a byte string, as 48 bytes (R114, R115; FIPS 180-4 defines it). Log entry 7. -/
opaque sha384 : List (BitVec 8) → List (BitVec 8)

/-- ECDSA over P-384: public key, digest, signature (R115; FIPS 186-5 defines it). Log entry 7. -/
opaque ecdsaP384Verify : List (BitVec 8) → List (BitVec 8) → List (BitVec 8) → Bool

/-- A sample of a line that a camera sends packed (R330, R338; CSI-2 lays the packing out): data type, payload, index.
Log entry 7. -/
opaque csiSample : Nat → List (BitVec 8) → Nat → Nat

/-- The number that a Hymnal entry gives to a kind of input of a class (R492 names the codes and gives no numbers):
class, kind. Log entry 32. -/
opaque hymnCode : Nat → Nat → Nat

/-- The cache class of a requester to which R221 gives none: 0 Choir, 1 the Hymnal, 2 the side ports, 3 the Stave Link,
4 the boot ROM. Log entry 33. -/
opaque cacheClass : Nat → Nat

/-- A word of the record after a failed or interrupted overwrite, which leaves the contents unknown (R121): WCOUNT, word.
Log entry 6. -/
opaque mtpLeft : Nat → Nat → BitVec 32

/-- The silicon stepping (R128, R511). -/
opaque stepping : Nat

end Sys2Proof.Config
end

