-- ==== Sys2Proof/Machine/State.lean ====
section
/-! DEFINITION. The state of the block as plain data: the register file and every piece of state of spec/ that is no
register, the queue of waiting commands, and the state right after reset. -/
namespace Sys2Proof.Machine

/-- The three members of the family (R41, R42). -/
inductive Member where
  | zs832f | zs816h | zs804q
  deriving DecidableEq, Repr

/-- What a fault of the block is: the undefined cases of 24_limits_and_undefined.md, each raised by the command in
which the case is met. All are safe: the model stops where the manual gives no behaviour. -/
inductive Fault where
  /-- UB-0501: a power sequence that departs from R96 to R98 (R99). Raised by POWER_ON and PORST_N_RISE. Safe. -/
  | powerSequence
  /-- UB-0601: a device access that reaches another endpoint's BAR (R124). Raised by the commands that carry an answer
  of the host. Safe. -/
  | peerAccess
  /-- UB-1202: the memory of a score image written while it is validating, armed or in force (R270). Raised by the
  boundaries and load events at which Cantor reads the image. Safe. -/
  | imageWritten
  /-- UB-1301: a command stream was written between its task's entry to its ready list and the task's end, so what the core executes is
  not specified (R297). Raised by COMMAND_FETCH and TASK_END. Safe. -/
  | streamWritten
  deriving DecidableEq, Repr

/-- Why the block refuses a command. -/
inductive Refusal where
  /-- A command whose meaning is not written. Raised by the dispatch only. Safe. -/
  | notModelled (mnemonic : String)
  deriving DecidableEq, Repr

/-- Stave time and what belongs to it (01_stave.md). -/
structure ClockSt where
  snum : Nat
  line : Nat
  beat : Nat
  sub : Nat
  /-- The dividers are released and the counter counts (R25, R26, R28). -/
  running : Bool
  /-- The guard harts run from FABCLK (R26). -/
  hartFab : Bool
  /-- The dividers have been released since cold reset. -/
  released : Bool
  /-- NOW_HI latch of each origin (R36). -/
  nowHi : List (Nat × Nat)
  /-- Consecutive REFCLK comparisons beyond the limit (R29). -/
  refBad : Nat
  /-- HEAD1CLK divisor in force (R38). -/
  head1Div : Nat
  /-- Staves passed since divider release, for the domain-C phase (R19). -/
  staves : Nat
  /-- A HEAD1_DIV value waits for the next stave boundary (R38). -/
  head1Due : Bool
  deriving DecidableEq, Repr

/-- One entry of the change roll (R86). -/
structure RollEntry where
  stime : Nat
  origin : Nat
  aux : Nat
  page : Nat
  off : Nat
  refused : Bool
  boot : Bool
  replay : Bool
  hw : Bool
  staged : Bool
  be : Nat
  reason : Nat
  old : W32
  new : W32
  rseq : Nat
  count : W32
  deriving DecidableEq, Repr

/-- One origin's read cursor of the roll (R94). -/
structure Cursor where
  seq : Nat
  stat : Nat
  snap : List W32
  deriving DecidableEq, Repr

/-- A write that waits for a roll place, or for the end of a block reset (R88, R104). -/
structure HeldWrite where
  req : Req
  place : Place
  val : W32
  deriving DecidableEq, Repr

/-- The change roll (04_authority_and_change_roll.md); NEXT_SEQ, OLDEST_SEQ and TAIL_SEQ are registers. -/
structure RollSt where
  /-- The entries held, oldest first. -/
  entries : List RollEntry
  cursors : List (Nat × Cursor)
  /-- Entries made on the present PERCLK edge (R88), and NEXT_SEQ and OLDEST_SEQ before them (R94). -/
  edgeN : Nat
  edgeNext : Nat
  edgeOldest : Nat
  /-- Writes held to the next edge, in order (R88). -/
  held : List HeldWrite
  /-- HOLD has refused a write since FILL reached 16,128 (R91). -/
  holding : Bool
  deriving DecidableEq, Repr

/-- Host download of a boot image (R112). -/
structure Download where
  state : Nat
  len : Nat
  fail : Nat
  bytes : List Byte
  deriving DecidableEq, Repr

/-- Adaptive voltage scaling of a half (R542): the current table entry and the target in mV, from S2; the rail's value in
mV as last acknowledged; a request sent and not acknowledged; the linear line from which the next request may be sent. -/
structure AvsHalf where
  entry : Nat
  target : Option Nat
  mv : Nat
  req : Option Nat
  next : Nat
  deriving DecidableEq, Repr

/-- Power, reset and bring-up (05_bringup_and_tuning.md) beside the GUARD, BOOT and TUNE registers. -/
structure BootSt where
  porstN : Bool
  warmN : Bool
  perstN : Bool
  xspiResetN : Bool
  /-- Flash reads have begun (R538). -/
  xspiRead : Bool
  /-- The first S6 has been entered (R65). -/
  everS6 : Bool
  /-- S4 and S5 run again after a warm reset (R103). -/
  rerun : Bool
  /-- S5 is complete and the next stave boundary enters S6 (R106). -/
  s5done : Bool
  /-- The image slot in progress: 0 A, 1 B, 2 none (R111). -/
  slot : Nat
  /-- An image has been accepted (R115). -/
  imageOk : Bool
  /-- The fields of the tuning record in force, empty under safe defaults (R116, R118). -/
  tune : List Byte
  /-- OTP words 0 to 50 (R114). -/
  otp : List (Nat × W32)
  /-- OTP programming in progress: word, bits, origin (R114). -/
  otpProg : Option (Nat × W32)
  mtp : List (Nat × W32)
  mtpError : Bool
  buf : List (Nat × W32)
  wcount : Nat
  /-- KEY_A has been accepted and the 75 lines run until this sub-beat count (R120). -/
  keyA : Option Nat
  /-- UNLOCKED runs out at this sub-beat count (R120). -/
  unlockEnd : Option Nat
  dl : Download
  /-- Entry points of the image (R113). -/
  entries : List Nat
  /-- VDD_GRD is present (R548). -/
  powered : Bool
  /-- Images of UP0 to UP3 in their TCM, as loaded (R115). -/
  tcm : List (Nat × List Byte)
  /-- Adaptive voltage of each half: West 0, East 1 (R542). -/
  avs : List (Nat × AvsHalf)
  deriving DecidableEq, Repr

/-- Configuration space of one function (R129, R131, R134, R180): what the device acts on. -/
structure FnCfg where
  bme : Bool
  d3 : Bool
  pmeEn : Bool
  pmeStatus : Bool
  /-- A PME has been sent since D3hot was entered (R183). -/
  pmeSent : Bool
  msixEn : Bool
  funcMask : Bool
  /-- Vectors whose mask bit is 0. -/
  unmasked : List Nat
  pba : List Nat
  /-- Address and data of each MSI-X table entry. -/
  table : List (Nat × (Nat × Nat))
  /-- ASPM and L1 substates enabled by the host: bit 0 L0s, bit 1 L1, bit 2 L1.1, bit 3 L1.2 (R135). -/
  aspm : Nat
  deriving DecidableEq, Repr

/-- A message that leaves the device, with what it carries. -/
inductive Msg where
  /-- An MSI-X message of a function on a vector. -/
  | msix (fn vec : Nat)
  /-- A posted write to a host bus address. -/
  | hostWrite (fn addr : Nat) (data : List Byte)
  /-- A device read of a host bus address. -/
  | hostRead (fn addr len : Nat)
  | pme (fn : Nat)
  | pmeToAck
  /-- What a register or data read returns to its origin. -/
  | readData (origin : Nat) (value : Nat)
  /-- What an allocation request of a unit receives through its port: a handle or POOL_EMPTY (R169). -/
  | handle (port : Nat) (h : Option Nat)
  /-- What a BAR2 window or memory read returns. -/
  | memData (data : List Byte) (poison : Bool)
  | aspm (state : Nat)
  /-- A flit launched on a Stave Link port. -/
  | flit (port : Nat) (data : List Byte)
  /-- A frame sent by an Ethernet MAC. -/
  | frame (mac : Nat) (data : List Byte)
  /-- A display line of a head: RGB pixels. -/
  | pixels (head line : Nat) (rgb : List Nat)
  /-- A DSI generic write. -/
  | dsi (hdr : Nat) (data : List Byte)
  /-- An audio frame of a TDM port: slot values. -/
  | tdm (port : Nat) (slots : List Int)
  | i3c (bus kind : Nat) (addr : Nat) (data : List Byte)
  | spi (k : Nat) (data : List Byte)
  | spiTgt (data : List Byte)
  | fsync (port : Nat) (level : Bool)
  | gpio (level dir : Nat)
  /-- An adaptive-voltage request for a half. -/
  | avs (half mv : Nat)
  | tdo (reg : Nat) (value : Nat)
  | aer (kind : Nat)
  | faultN (high : Bool)
  deriving DecidableEq, Repr

/-- PCIe functions (06_host_link_and_tenants.md) beside the HOST and SRIOV registers. -/
structure HostSt where
  fns : List (Nat × FnCfg)
  /-- MSI-X messages that wait for L0 (R182), with their writes before them. -/
  waitL0 : List Msg
  /-- FLRs under way: function and the linear line at whose start each completes (R137). -/
  flr : List (Nat × Nat)
  /-- What the host answers to the reads of the command in hand: bytes still to take, and whether it failed (R126). -/
  answer : List Byte
  answerFail : Bool
  deriving DecidableEq, Repr

/-- A task of a score or of a fragment (R262). -/
structure TaskEnt where
  idx : Nat
  job : Nat
  core : Nat
  level : Nat
  grace : Nat
  line : Nat
  beat : Nat
  ntok : Nat
  slot : Nat
  tnbuf : Nat
  tpool : Nat
  beats : Nat
  cmdVa : Nat
  cmdCount : Nat
  deriving DecidableEq, Repr

/-- A plan-fragment header with its task list (R271). -/
structure Frag where
  cores : Nat
  nbuf : Nat
  pool : Nat
  beats : Nat
  nslot : Nat
  units : Nat
  tasks : List TaskEnt
  deriving DecidableEq, Repr

/-- An accepted descriptor and what has become of it (R147, R155). -/
structure Invoc where
  ring : Nat
  owner : Nat
  epoch : Nat
  subSeq : Nat
  opcode : Nat
  note : Bool
  maxWait : Nat
  failMode : Nat
  restartMax : Nat
  restarts : Nat
  fragVa : Nat
  argsVa : Nat
  args : List Byte
  /-- F, the linear line of R159. -/
  f : Nat
  /-- The fragment header and task list have arrived. -/
  fetched : Bool
  frag : Option Frag
  /-- A fragment fault or format error: the status with which the invocation ends (R154, R272). -/
  bad : Nat
  /-- Linear line before which a deferral keeps the head back (R165). -/
  notBefore : Nat
  deferred : Bool
  noted : Bool
  noteSkipped : Bool
  poolWait : Bool
  guar : Bool
  elastic : Bool
  startLine : Nat
  startLin : Nat
  cores : List Nat
  deriving DecidableEq, Repr

/-- A completion record before it is written (R157). -/
structure Rec where
  ring : Nat
  owner : Nat
  epoch : Nat
  status : Nat
  subSeq : Nat
  deferLines : Nat
  kind : Nat
  flags : Nat
  stime : Nat
  startLine : Nat
  core : Nat
  ncores : Nat
  detail : Nat
  /-- Its job-table entry, freed when the record is written (R183). -/
  job : Option Nat
  deriving DecidableEq, Repr

/-- Moderation of one ring (R178). -/
structure ModSt where
  p : Nat
  e : Nat
  open_ : Bool
  deriving DecidableEq, Repr

/-- A tenant's budget in use this stave (R145). -/
structure TenUse where
  guar : Nat
  ceil : Nat
  prio : Nat
  use : Nat
  deriving DecidableEq, Repr

/-- Where SQ_TAIL stood when a line's boundary was assigned to a doorbell (R32, R159): tail, linear line. -/
structure DoorMark where
  ring : Nat
  tail : Nat
  f : Nat
  deriving DecidableEq, Repr

/-- What a descriptor read has brought (R153, R154): the 64 bytes, an error status, or nothing yet from the host. -/
inductive FetchRes where
  | got (l : List Byte)
  | bad (status : Nat)
  /-- A read of the host at a bus address, issued in a linear line. -/
  | waiting (pa line : Nat)
  deriving DecidableEq, Repr

/-- A descriptor read under way: its ring, SQ_HEAD position and owner; dropped once the ring has stopped (R153). -/
structure Fetch where
  ring : Nat
  seq : Nat
  owner : Nat
  res : FetchRes
  dropped : Bool
  deriving DecidableEq, Repr

/-- Rings and admission (07_rings_and_admission.md, 08_completions_and_recovery.md) beside their registers. -/
structure AdmSt where
  /-- Fetched and unstarted invocations of each ring, oldest first. -/
  queued : List (Nat × List Invoc)
  /-- Descriptor reads in flight, in slot order of each ring. -/
  fetches : List Fetch
  marks : List DoorMark
  mods : List (Nat × ModSt)
  /-- Records produced by the command in hand, written at its end in ascending SUB_SEQ (R158). -/
  made : List Rec
  /-- Records held for a function that may not issue requests, or for the link's return to L0 (R182, R183). -/
  held : List Rec
  tens : List (Nat × TenUse)
  /-- Rings told to become DISABLED at the next line boundary (R150). -/
  disabling : List Nat
  /-- Rings with a fire due on this edge (R178). -/
  fires : List Nat
  /-- Restarting invocations, offered ahead of their rings' heads (R283): job, half, invocation. -/
  restart : List (Nat × Nat × Invoc)
  deriving DecidableEq, Repr

/-- Buffer pools (R168 to R174). -/
structure PoolSt where
  /-- Free indexes of each pool, next to hand out first. -/
  free : List (Nat × List Nat)
  /-- SW_RESULT of each origin (R174). -/
  swRes : List (Nat × W32)
  deriving DecidableEq, Repr

/-- One EVC source (R200, R201). -/
structure EvSrc where
  p : Bool
  c : Nat
  a : Bool
  holder : Nat
  route : Nat
  routed : Bool
  deriving DecidableEq, Repr

/-- The event controller (09_event_controller.md) beside its registers. -/
structure EvcSt where
  src : List (Nat × EvSrc)
  /-- Raise messages on their way to the EVC (R558), and those held to a later edge (R194). -/
  inflight : List Nat
  held : List Nat
  /-- Raises taken on the present FABCLK edge. -/
  edgeN : Nat
  deriving DecidableEq, Repr

/-- Who makes a translated access (R214, R232): context, requester number, half, and the job it serves. -/
structure Who where
  ctx : Nat
  req : Nat
  half : Nat
  ring : Nat
  subSeq : Nat
  job : Nat
  inv : Bool
  deriving DecidableEq, Repr

/-- A leaf held by the translation structures (R224): context, half, first VA, size, level, entry. -/
structure TlbEnt where
  ctx : Nat
  half : Nat
  va : Nat
  size : Nat
  level : Nat
  entry : Nat
  /-- Output base of the page or group. -/
  base : Nat
  /-- An invalidation under way removes it (R228). -/
  dying : Bool
  deriving DecidableEq, Repr

/-- A non-leaf entry in a walk cache (R224). -/
structure WalkEnt where
  ctx : Nat
  half : Nat
  level : Nat
  va : Nat
  entry : Nat
  dying : Bool
  deriving DecidableEq, Repr

/-- Device translation (10_address_translation.md) beside the MMU registers. -/
structure MmuSt where
  tlb : List TlbEnt
  walks : List WalkEnt
  deriving DecidableEq, Repr

/-- An access between its ordering at the home slice and its completion (R242, R244). -/
structure Access where
  who : Option Who
  /-- 0 read, 1 write, 2 atomic add, 3 near read, 4 atomic max. -/
  kind : Nat
  va : Nat
  /-- Device physical or bus address. -/
  pa : Nat
  host : Bool
  len : Nat
  cls : Nat
  data : List Byte
  /-- How it ends: 0 well, 1 uncorrectable or poisoned, 2 Bridge down, 3 failed host read. -/
  bad : Nat
  /-- Translated through an entry that the invalidation under way removes (R228). -/
  dying : Bool
  deriving DecidableEq, Repr

/-- Caches, DRAM and its errors (11_memory_and_cache.md) beside the LLC, BRIDGE and DRAMC registers. -/
structure MemSt where
  /-- Lines accessed since S4 (R557) and lines with FAR = 1 (R243), by line address. -/
  touched : List (Nat × Bool)
  /-- Lines written since S4: DRAM may still hold what they held before (R103, R241). -/
  dirty : List (Nat × Bool)
  far : List (Nat × Bool)
  /-- NRC lines of each core: key core × 2^42 + line number, 64 bytes (R247). -/
  nrc : List (Nat × List Byte)
  /-- Syndrome class of 64-bit words in error, by word address (R252, R555). -/
  marks : List (Nat × Nat)
  /-- DRAM lines that carry a poison marker (R254, R555). -/
  poison : List (Nat × Bool)
  accesses : List Access
  /-- Density the memory needs, per channel (R237), and from which linear line it governs. -/
  needed : List (Nat × Nat)
  nextNeeded : List (Nat × Nat)
  /-- Requests stalled by self-refresh (R240). -/
  stalled : List Access
  /-- Scrub progress: stave at which each channel's pass began, twice, plus 1 once its lines are all read (R255). -/
  scrubStart : List (Nat × Nat)
  /-- Written bits of scratch units: core × 65,536 + unit (R291). -/
  written : List (Nat × Bool)
  /-- First beat of each core that ARRAY_BEATS has not counted yet. -/
  arrayBeat : List (Nat × Nat)
  /-- Counts of the present stave by register (R250, R256): lookups, hits and Bridge units. -/
  stave : List (Nat × Nat)
  deriving DecidableEq, Repr

/-- A score job's configuration (R261). -/
structure JobCfg where
  job : Nat
  failMode : Nat
  restartMax : Nat
  signal : Bool
  deriving DecidableEq, Repr

/-- A unit event (R265). -/
structure UnitEv where
  unit : Nat
  inst : Nat
  line : Nat
  beat : Nat
  arg : Nat
  deriving DecidableEq, Repr

/-- A binding of an EVC source to an operand slot (R266). -/
structure Binding where
  source : Nat
  slot : Nat
  half : Nat
  staveOff : Nat
  deriving DecidableEq, Repr

/-- A round of two runs (R449). -/
structure RoundEnt where
  id : Nat
  tokenEn : Bool
  rel : Bool
  coreA : Nat
  coreB : Nat
  jobA : Nat
  jobB : Nat
  dline : Nat
  dbeat : Nat
  token : Nat
  deriving DecidableEq, Repr

/-- A score image as Cantor has read and checked it (R260 to R266). -/
structure Score where
  addr : Nat
  len : Nat
  crc : Nat
  nalt : Nat
  nsjob : List Nat
  oslotBase : List Nat
  oslotCnt : List Nat
  jobs : List (Nat × List JobCfg)
  /-- Sections per half and alternate, under the key half × 16 + alt. -/
  tasks : List (Nat × List TaskEnt)
  opens : List (Nat × List (Nat × Nat))
  refresh : List (Nat × List Nat)
  events : List (Nat × List UnitEv)
  bindings : List Binding
  rounds : List (Nat × List RoundEnt)
  /-- FENCE_MASK and CHAFER_MASK of alternate k, from k = 1. -/
  alts : List (Nat × Nat)
  deriving DecidableEq, Repr

/-- A task that waits for its line or for its firing (R277, R279), with what its core has prefetched of it (R293). -/
structure Wait where
  half : Nat
  /-- Job-table key: half × 4,096 + index, and 8,192 above it for an invocation job. -/
  job : Nat
  inv : Bool
  core : Nat
  task : TaskEnt
  /-- Linear line and beat of the planned beat. -/
  line : Nat
  planned : Nat
  tag : Nat
  slot : Nat
  bufs : List Nat
  /-- The TNBUF buffers have been taken. -/
  taken : Bool
  cmds : List (List Byte)
  fetched : Nat
  /-- A command fetch that failed (R293): status, resource fault. -/
  fetchErr : Option (Nat × Bool)
  deriving DecidableEq, Repr

/-- A signature on its way to the comparator (R451): round, core, SNUM tag. -/
structure SigMsg where
  id : Nat
  core : Nat
  tag : Nat
  sig : W32
  deriving DecidableEq, Repr

/-- A command issued and not yet complete (R294): unit 0 memory, 1 array, 2 vector; scratch units read and written; the
linear beat of its issue, and the signature that it delivers when complete. -/
structure Issued where
  unit : Nat
  rd : List (Nat × Nat)
  wr : List (Nat × Nat)
  start : Nat
  sig : Option SigMsg
  deriving DecidableEq, Repr

/-- The task that a core runs (R279, R280, R294). -/
structure CoreRun where
  w : Wait
  idx : Nat
  out : List Issued
  /-- Linear sub-beat of the fire. -/
  startSub : Nat
  deriving DecidableEq, Repr

/-- The memory of a task's command stream, from its ready list to its end (R297, UB-1301). -/
structure StreamMark where
  core : Nat
  job : Nat
  idx : Nat
  ranges : List (Nat × Nat)
  hit : Bool
  deriving DecidableEq, Repr

/-- An entry of a job table (R257). -/
structure Job where
  kind : Nat
  state : Nat
  failMode : Nat
  restartMax : Nat
  restarts : Nat
  status : Nat
  signal : Bool
  ring : Nat
  subSeq : Nat
  start : Nat
  startLin : Nat
  span : Nat
  tasksLeft : Nat
  cores : List Nat
  slotBase : Nat
  nslot : Nat
  /-- Pool and handles taken at the start (R161). -/
  pool : Nat
  bufs : List Nat
  inv : Option Invoc
  /-- The instance of this stave, or the invocation, has ended. -/
  done : Bool
  /-- RESTARTS before an OK end returned it to 0, for a mismatch that follows it (R460). -/
  saved : Nat
  deriving DecidableEq, Repr

/-- A timed token (R278): linear line and token. -/
structure TimedTok where
  lin : Nat
  tok : Nat
  deriving DecidableEq, Repr

/-- Cantor (12_cantor.md) beside the CANTOR registers. -/
structure CantorSt where
  /-- The loaded score in force, if any; none is the boot score or the boot timetable. -/
  score : Option Score
  /-- The image validated and armed (R267). -/
  armed : Option Score
  /-- The image under validation: address. -/
  validating : Option Nat
  /-- Memory of a protected image has been written (R270). -/
  imageWritten : Bool
  alt : Nat
  jobs : List (Nat × Job)
  slots : List (Nat × Nat)
  delay1 : List Wait
  timed : List TimedTok
  ready : List Wait
  runs : List (Nat × CoreRun)
  streams : List StreamMark
  tokens : List Nat
  /-- Unit events of the present line still to be issued at their beats. -/
  events : List UnitEv
  /-- Fences recorded since the cutoff of R35 that the next boundary does not see yet: core bits, Chafer bits. -/
  lateFence : List Nat
  /-- A stave reset is due at the next boundary (R105). -/
  resetDue : Bool
  deriving DecidableEq, Repr

/-- A frame that PROCEED fills for a slipped stream (R347): its slot, the reference stream, entries, lost ones. -/
structure FillSt where
  slot : Nat
  ref : Nat
  lines : Nat
  lost : Nat
  deriving DecidableEq, Repr

/-- One device stream (R334 to R347) beside its registers. -/
structure CamStream where
  /-- Frames started since cold reset (FRAME_SEQ). -/
  seq : Nat
  /-- Slot of the current or last stored frame, and the next slot. -/
  slot : Nat
  next : Nat
  fsTime : Nat
  frameNum : Nat
  /-- Packets matched since FS, entries written, entries with LOST. -/
  n : Nat
  lines : Nat
  lost : Nat
  crcBad : Bool
  tooMany : Bool
  /-- The frame is a late member's: its lines are discarded (R347). -/
  late : Bool
  /-- The frame's record has been completed. -/
  closed : Bool
  /-- Group fields of the frame, once its group frame is released: ALIGN_STATUS, GFRAME. -/
  grouped : Option (Nat × Nat)
  /-- FLAGS as last written in the frame's record. -/
  flags : Nat
  /-- Buffers held by each slot: pool and handle, oldest first. -/
  bufs : List (Nat × List (Nat × Nat))
  fill : Option FillSt
  /-- Slot address of the most recent frame whose record was written with COMPLETE (R380). -/
  done : Option Nat
  deriving DecidableEq, Repr

/-- One stream group (R343 to R346) beside its registers. -/
structure CamGroup where
  open_ : Bool
  /-- A group frame has existed. -/
  ever : Bool
  lead : Nat
  /-- Linear line of the lead FS, and of the last FS on time. -/
  lg : Nat
  last : Nat
  /-- Streams that have contributed to the most recent group frame, and those of them that were on time. -/
  joined : List Nat
  onTime : List Nat
  /-- Members detached at the lead FS. -/
  detached : List Nat
  deriving DecidableEq, Repr

/-- Camera intake (15_camera_intake.md) beside its registers. -/
structure CamSt where
  streams : List (Nat × CamStream)
  groups : List (Nat × CamGroup)
  deriving DecidableEq, Repr

/-- An open survey that waits in a Chafer's queue (R367): the job, its owner and the address of its descriptor. -/
structure OpenEnt where
  job : Nat
  owner : Nat
  ring : Nat
  subSeq : Nat
  descVa : Nat
  deriving DecidableEq, Repr

/-- One sprite of a set (R354): size, anchor, rows of column bits. -/
structure Sprite where
  w : Nat
  h : Nat
  ax : Nat
  ay : Nat
  rows : List Nat
  deriving DecidableEq, Repr

/-- One candidate of a survey and its latch (R360, R361, R363). -/
structure CandRes where
  cand : Nat
  start : Nat
  prim : Nat
  npose : Nat
  bad : Bool
  evald : Bool
  hit : Bool
  /-- Causes: bit 0 OCC, 1 TIME, 2 CLASS, 3 CLEAR, 4 EDGE. -/
  causes : Nat
  first : Nat
  cost : Nat
  minClear : Nat
  deriving DecidableEq, Repr

/-- A survey of a window (R356): its descriptor's fields, its start list, its status (R363) and what it has come to. -/
structure Survey where
  opn : Option OpenEnt
  kind : Nat
  set : Nat
  k : Nat
  all : Bool
  tokenEn : Bool
  rel : Bool
  outPool : Bool
  classMask : Nat
  clearMin : Nat
  pool : Nat
  ncand : Nat
  ou : Nat
  ov : Nat
  srcVa : Nat
  outVa : Nat
  token : Nat
  starts : List (Nat × Nat × Nat × Nat)
  status : Nat
  res : List CandRes
  slots : Nat
  /-- Its token is due (R364). -/
  tokenDue : Bool
  deriving DecidableEq, Repr

/-- A window in progress (R350): start, phase, what SETUP has read. -/
structure ChWin where
  lin : Nat
  phase : Nat
  bad : Bool
  fault : Bool
  took : Bool
  openSlots : Nat
  regionW : Nat
  regionH : Nat
  /-- The map store, row by row. -/
  map : List Nat
  /-- Sprite sets; none is a bad set. -/
  sets : List (Option (List Sprite))
  /-- The lattice surveys of this window find no lattice (R355). -/
  latBad : Bool
  surveys : List Survey
  /-- Linear sub-beat at which EVAL began. -/
  evalStart : Nat
  deriving DecidableEq, Repr

/-- The lattice store (R355): FIRST and COUNT of each bin, and the primitives' records. -/
structure Lattice where
  index : List (Nat × Nat)
  prims : List (List Byte)
  deriving DecidableEq, Repr

/-- The Chafers (16_chafer.md) beside their registers. -/
structure ChaferSt where
  /-- Open queue of each half, oldest first (R367). -/
  opens : List (Nat × List OpenEnt)
  wins : List (Nat × ChWin)
  lattice : List (Nat × Lattice)
  deriving DecidableEq, Repr

/-- What one candidate shows on a display line (R385): planes 0 to 5, sprite k as 16 + k; a pixel that is transparent is
none. These are the head's line buffers (R387). -/
structure WLayer where
  id : Nat
  prio : Nat
  ga : Nat
  pix : List (Option Nat)
  deriving DecidableEq, Repr

/-- A display line's set (R375): the registers of the page as latched, and the line's data. -/
structure WSet where
  line : Nat
  regs : List (Nat × W32)
  /-- ENABLE and SAFE_ONLY as the set boundary finds them. -/
  on : Bool
  safe : Bool
  layers : List WLayer
  poison : Bool
  clip : Bool
  lost : Bool
  deriving DecidableEq, Repr

/-- A line-table entry (R388): whether its DLINE leaves the segment's range or order, and whether its line's set boundary
has come (R390). -/
structure WEntry where
  dline : Nat
  off : Nat
  val : Nat
  bad : Bool
  past : Bool
  deriving DecidableEq, Repr

/-- A segment buffer (R388): the segment, and the head line from whose set boundary it takes part. -/
structure WSeg where
  first : Nat
  nlines : Nat
  part : Nat
  ents : List WEntry
  deriving DecidableEq, Repr

/-- A segment being loaded (R389, R391): the head line of its fetch, the display line of that head line, and its bytes;
head 1 has the number that FIRST must name. -/
structure WLoad where
  at_ : Nat
  dline : Nat
  data : List Byte
  first : Option Nat
  deriving DecidableEq, Repr

/-- One sprite of the sprite table (R383). -/
structure WSprite where
  num : Nat
  x : Int
  y : Int
  w : Nat
  h : Nat
  prio : Nat
  hflip : Bool
  vflip : Bool
  bpp : Nat
  pal : Nat
  bank : Nat
  pix : Nat
  deriving DecidableEq, Repr

/-- One head (17_wingcase.md) beside its registers. -/
structure WHead where
  /-- Display lines started since the head's timing began, and the display line that starts next. -/
  lines : Nat
  next : Nat
  set : Option WSet
  /-- Enabled sprites of the table in force, and those of a table read for the next frame (R383). -/
  sprites : List WSprite
  nextSprites : Option (List WSprite)
  /-- The head line at which the sprite table was last read. -/
  sprAt : Nat
  loads : List WLoad
  segs : List WSeg
  /-- The frame's first drop: line and sprite (R384); lines with a drop. -/
  ovf : Option (Nat × Nat)
  ovfLines : Nat
  /-- First hits of the frame by latch: line and column (R392). -/
  hits : List (Nat × (Nat × Nat))
  /-- Running CRC of each tell-tale region of the frame (R393). -/
  crcs : List (Nat × Nat)
  /-- Regions evaluated in the frame so far. -/
  evald : List Nat
  /-- The frame that a camera-sourced plane shows (R380), by plane: ring address of its slot, LINES, FRAME_SEQ, pool. -/
  cams : List (Nat × (Nat × Nat × Nat × Nat))
  deriving DecidableEq, Repr

/-- Wingcase and the DSI transmitter beside their registers. -/
structure WingSt where
  heads : List (Nat × WHead)
  /-- Palette entries: head × 1,024 + index (R378). -/
  pals : List (Nat × W32)
  /-- The DSI generic write that waits: the linear line of GEN_GO, header, payload (R401). -/
  gen : Option (Nat × Nat × List Byte)
  deriving DecidableEq, Repr

/-- One voice of Choir (R403 to R407): the patch copied at key-on and where the sound stands. -/
structure Voice where
  patch : Nat
  /-- The eight words of the patch. -/
  words : List W32
  /-- The accumulator P, the noise register N. -/
  p : Nat
  n : Nat
  /-- Phase: 0 free, 1 ATTACK, 2 DECAY, 3 SUSTAIN, 4 RELEASE; level Lv. -/
  phase : Nat
  lv : Nat
  /-- A key-off waits for the next sample (R411). -/
  off : Bool
  /-- The source has ended without LOOP (R405). -/
  ended : Bool
  /-- Linear line of the key-on. -/
  at_ : Nat
  /-- ADPCM: predictor, step index, next nibble. -/
  pred : Int
  idx : Nat
  pos : Nat
  deriving DecidableEq, Repr

/-- A gain that ramps (R413, R414): the gain of the last sample; start, target, length and sample of the ramp under way;
and the target and length of a ramp that starts with the next sample. -/
structure Gain where
  g : Int
  g0 : Int
  t : Int
  r : Nat
  j : Nat
  new : Option (Int × Nat)
  deriving DecidableEq, Repr

/-- One audio port beside its registers: frames received, with the sample in which each began, newest first; in domain
C, the frames taken as C samples, newest first (R415, R416). -/
structure TdmPort where
  rx : List (Nat × List Int)
  z : List (List Int)
  deriving DecidableEq, Repr

/-- Choir and the crosspoint (18_choir.md) beside their registers. -/
structure ChoirSt where
  voices : List (Nat × Voice)
  /-- Key-on writes that wait: origin, patch, linear line of acceptance (R408). -/
  queue : List (Nat × Nat × Nat)
  nodes : List (Nat × Gain)
  outs : List (Nat × Gain)
  /-- Output values of the last samples, newest first: 16 values each. -/
  ys : List (List Int)
  /-- Largest magnitude of each output in this stave (R412). -/
  peaks : List (Nat × Nat)
  ports : List (Nat × TdmPort)
  /-- Domain-A sample last taken, and domain-C sample last taken, each plus 1, counted from divider release. -/
  lastA : Nat
  lastC : Nat
  deriving DecidableEq, Repr

/-- One capture entry (R429): counter, stave time, causes. -/
structure CapEnt where
  cnt : Nat
  stime : Nat
  hw : Bool
  sw : Bool
  deriving DecidableEq, Repr

/-- The timer (19_timers.md) beside its registers: what the present PERCLK edge has done, and the capture queues. -/
structure TimerSt where
  /-- Channels with a terminal tick on this edge; OUT of each channel after the edge before, as a mask (R425). -/
  term : List Nat
  prevOut : Nat
  /-- Channels that have taken their action of this edge, and those of them that loaded PHASE (R422). -/
  acted : List Nat
  loaded : List Nat
  queues : List (Nat × List CapEnt)
  /-- Channels with a staged register written since the last application (R422). -/
  written : List Nat
  /-- The entry popped last, by channel × 256 + origin (R431). -/
  pops : List (Nat × CapEnt)
  deriving DecidableEq, Repr

/-- A frame that a MAC is sending (R437): queue, descriptor, start, whether its data was poisoned. -/
structure EthTx where
  q : Nat
  desc : Nat
  stime : Nat
  poison : Bool
  deriving DecidableEq, Repr

/-- An entry of an IBI queue (R444). -/
structure IbiEnt where
  addr : Nat
  data : List Byte
  stime : Nat
  deriving DecidableEq, Repr

/-- An I3C controller beside its registers: the XFER_DATA FIFO, the length of a read in progress, the IBI queue. -/
structure I3cBus where
  fifo : List Byte
  readLen : Nat
  ibis : List IbiEnt
  deriving DecidableEq, Repr

/-- An SPI controller beside its registers: the FIFO, and a transfer armed for a line: line, linear line of GO, bytes. -/
structure SpiCtl where
  fifo : List Byte
  armed : Option (Nat × Nat × List Byte)
  len : Nat
  deriving DecidableEq, Repr

/-- The side ports (20_side_ports.md) beside their registers. -/
structure PortSt where
  sending : List (Nat × EthTx)
  i3c : List (Nat × I3cBus)
  /-- The entry popped last, by bus × 256 + origin (R444). -/
  ibiPops : List (Nat × IbiEnt)
  spi : List (Nat × SpiCtl)
  /-- The published transmit mailbox, TX_SEQ, the status bit OVR, a publication that waits (R446). -/
  mailbox : List Byte
  txSeq : Nat
  ovr : Bool
  publish : Bool
  /-- GPIO pins driven high, and pins driven. -/
  drive : Nat × Nat
  /-- The FSYNC balls driven high, by port (R342). -/
  fsync : Nat
  deriving DecidableEq, Repr

/-- Credits of one round in the present stave (R451): round, signatures credited to runs A and B, deadline passed. -/
structure RoundSt where
  id : Nat
  sigA : Option W32
  sigB : Option W32
  late : Bool
  deriving DecidableEq, Repr

/-- One age watch (R457, R458); the count is kept without limit. -/
structure WatchSt where
  count : Nat
  expired : Bool
  fed : Bool
  deriving DecidableEq, Repr

/-- Safety (21_safety.md) beside its registers. -/
structure SafetySt where
  rounds : List RoundSt
  sigs : List SigMsg
  watch : List (Nat × WatchSt)
  /-- Line boundaries since the most recent PIN assertion (R467). -/
  pinLines : Nat
  deriving DecidableEq, Repr

/-- The trace buffer beside its registers and RAM (R516, R517). -/
structure TraceSt where
  /-- Entries written on the present FABCLK edge. -/
  edgeN : Nat
  /-- Entries were lost just before the next one. -/
  gap : Bool
  /-- Entries written since EN was set. -/
  sinceEn : Nat
  deriving DecidableEq, Repr

/-- A sequenced flit sent and not acknowledged, or waiting for a credit (R475); the job of a WRITE made through a
register-space mapping: key and instance (R485). -/
structure SentFlit where
  fseq : Nat
  body : List Byte
  job : Option (Nat × Nat)
  deriving DecidableEq, Repr

/-- One Stave Link port beside its registers (R471 to R485). -/
structure LinkPort where
  /-- Lanes are trained; the port is UP once ID flits have crossed (R471, R477). -/
  trained : Bool
  /-- Linear line at which the training under way began. -/
  trainLine : Nat
  idSent : Bool
  idGot : Bool
  /-- Linear line from which an ID flit is due (R477). -/
  idLine : Nat
  txSeq : Nat
  rxSeq : Nat
  /-- A sequenced flit has been received in good order since training. -/
  rxAny : Bool
  /-- Credits held, and credits to return (R475). -/
  credits : Nat
  toReturn : Nat
  unacked : List SentFlit
  stalled : List SentFlit
  /-- Writes of jobs, by LSEQ: the table of R485. -/
  recent : List (Nat × (Nat × Nat))
  /-- Replays within a linear line (R472). -/
  replayLine : Nat
  replayN : Nat
  deriving DecidableEq, Repr

/-- A TAKE under way (R489): armed; at the next stave boundary, with the conductor's SNUM and its time at the barrier's
arrival in ROOTCLK and the arrival's own sub-beat count; or with the clocks stopped, until the conductor's next stave. -/
inductive TakeSt where
  | none
  | armed
  | boundary (snum : Nat)
  | stopped (snum : Nat)
  deriving DecidableEq, Repr

/-- Stave Link and multi-device lock (22_stave_link_and_hymnal.md) beside their registers. -/
structure LinkSt where
  ports : List (Nat × LinkPort)
  /-- RW_DEST and RW_ADDR of each origin (R479). -/
  rw : List (Nat × (Nat × Nat))
  /-- WRITE flits whose write waits for the end of a block reset: page, port, buffer held, flit. -/
  heldW : List (Nat × Nat × Option Nat × List Byte)
  /-- The job whose register write is in hand (R485). -/
  curJob : Option (Nat × Nat)
  /-- Calibration (R487): under way, round trips measured, RX_LAT of the upstream device. -/
  calOn : Bool
  rtts : List Nat
  calPeer : Nat
  /-- CAL flits received and not yet answered: port and flit. -/
  echoes : List (Nat × List Byte)
  take : TakeSt
  /-- Barriers to forward: the port and the flit (R488). -/
  fwd : List (Nat × List Byte)
  /-- A valid barrier has come in this stave; staves without one (R491). -/
  barSeen : Bool
  missed : Nat
  /-- SNUM to load at the next stave boundary (R490). -/
  adopt : Option Nat
  deriving DecidableEq, Repr

/-- The Hymnal (R492 to R496) beside its registers. -/
structure HymnSt where
  /-- Entries have been lost since the last one written (R494). -/
  gap : Bool
  /-- Δ in staves (R495). -/
  delta : Int
  /-- The inputs of the command in hand are replayed entries (R495). -/
  injecting : Bool
  /-- Completions of a replay that reads have taken before their entries are issued: HSEQ (R495). -/
  taken : List Nat
  deriving DecidableEq, Repr

/-- A change of configuration space that the host makes (R131, R134 to R140, R180 to R184). -/
inductive CfgOp where
  | vfFlr (n : Nat) | pf0Flr | vfEnable (on : Bool) | numVfs (v : Nat)
  | d3hot (fn : Nat) | d0 (fn : Nat) | bme (fn : Nat) (on : Bool) | unmask (fn vec : Nat)
  | write (fn off : Nat) (v : W32) | msix (fn off : Nat) (v : W32)
  deriving DecidableEq, Repr

/-- A unit of traffic that Weevil may hold (R501): a host write or read, a message of the device, a CSI-2 packet, a
frame, a flit. -/
inductive WvUnit where
  | reg (q : Req) (p : Place) (v : W32)
  /-- A doorbell write of both words (R151). -/
  | door (q : Req) (p : Place) (tail head : W32)
  | cfg (op : CfgOp)
  | win (off : Nat) (data : List Byte)
  | msg (m : Msg)
  | cam (port : Nat) (pkt : CamPkt)
  | ethRx (m : Nat) (frame : List Byte)
  | ethTx (m : Nat) (frame : List Byte)
  /-- A flit received; the ROOTCLK after the sub-beat's start, and a round trip that it measures (R487, R488). -/
  | slinkRx (i : Nat) (flit : List Byte) (root : Nat)
  | slinkTx (i : Nat) (flit : List Byte)
  deriving DecidableEq, Repr

/-- A unit in a point's store (R503, R504): behind a stopped point, or held until units have passed or a line is over. -/
structure WvHold where
  point : Nat
  unit : WvUnit
  /-- It waits behind a stopped point (DELAY); otherwise REORDER holds it. -/
  queued : Bool
  left : Nat
  due : Nat
  deriving DecidableEq, Repr

/-- What a rule has seen since ARMED or EN was set (R506, R507): units at its point, whether it is triggered, units
since, actions made. -/
structure WvRule where
  seen : Nat
  trig : Bool
  n : Nat
  acts : Nat
  deriving DecidableEq, Repr

/-- Weevil (R498 to R509) beside its registers. -/
structure WeevilSt where
  /-- KEY1 runs out at this sub-beat count (R499). -/
  keyEnd : Nat
  rules : List (Nat × WvRule)
  held : List WvHold
  /-- Points stopped by DELAY, until a sub-beat count. -/
  stop : List (Nat × Nat)
  deriving DecidableEq, Repr

/-- What debug shows of a guard hart (R512, R514): debug mode, wait-for-interrupt, program counter, registers. -/
structure HartSt where
  halted : Bool
  wfi : Bool
  /-- A resume has been acknowledged, as dmstatus shows it. -/
  resumeAck : Bool
  pc : Nat
  gpr : List (Nat × W32)
  csr : List (Nat × W32)
  deriving DecidableEq, Repr

/-- The TAP, the DTM and the debug module (R511, R512), and the line at which a requested hold takes effect (R518). -/
structure DebugSt where
  ir : Nat
  boundary : Nat
  /-- Debug-module registers by DMI address; an unlisted one is 0. -/
  dm : List (Nat × W32)
  dmiStat : Nat
  harts : List (Nat × HartSt)
  holdLine : Option Nat
  deriving DecidableEq, Repr

/-- A register write that the device itself has issued through a register-space mapping (R222), not yet at its page. -/
structure RegWr where
  origin : Nat
  aux : Nat
  off : Nat
  val : W32
  /-- The job that makes it: key and instance (R485). -/
  job : Option (Nat × Nat) := none
  /-- Byte enables (R58). -/
  be : Nat := 15
  deriving DecidableEq, Repr

/-- The whole state. -/
structure State where
  member : Member
  clk : ClockSt
  /-- The register file: register-space byte offset to value; a register not listed holds its reset value. -/
  regs : List (Nat × W32)
  /-- Pages in block reset (R104), with the writes held for each. -/
  resetting : List (Nat × List HeldWrite)
  roll : RollSt
  boot : BootSt
  host : HostSt
  adm : AdmSt
  pool : PoolSt
  evc : EvcSt
  mmu : MmuSt
  ms : MemSt
  /-- Device physical memory: DRAM and the core scratch windows. An unlisted byte reads 0 (log 5). -/
  mem : List Host.Cell
  /-- Guard memories by guard-hart address: TCM, overlay, sample, trace and sensor RAM. An unlisted byte reads 0. -/
  gmem : List Host.Cell
  /-- Register writes under way to their pages, oldest first (R222). -/
  regq : List RegWr
  cantor : CantorSt
  safety : SafetySt
  trace : TraceSt
  weevil : WeevilSt
  dbg : DebugSt
  chafer : ChaferSt
  cam : CamSt
  wing : WingSt
  choir : ChoirSt
  timer : TimerSt
  port : PortSt
  link : LinkSt
  hymn : HymnSt
  /-- The model's own count of free values taken (log 6). -/
  free : Nat
  /-- Messages that have left the device, oldest first (the model's own record). -/
  out : List Msg
  /-- Commands waiting, first in, first out. -/
  pending : List Instr
  deriving DecidableEq, Repr

def FnCfg.reset : FnCfg := ⟨false, false, false, false, false, false, false, [], [], [], 0⟩
def Cursor.reset : Cursor := ⟨0, 0, List.replicate 8 0⟩
def ModSt.reset : ModSt := ⟨0, 0, false⟩
def TenUse.reset : TenUse := ⟨0, 0, 0, 0⟩
def EvSrc.reset : EvSrc := ⟨false, 0, false, 0, 0, false⟩
def ClockSt.reset : ClockSt := ⟨0, 0, 0, 0, false, false, false, [], 0, 0x20, 0, false⟩
def RollSt.reset : RollSt := ⟨[], [], 0, 0, 0, [], false⟩
def Download.reset : Download := ⟨5, 0, 0, []⟩
/-- The boot voltage of R96. -/
def AvsHalf.reset : AvsHalf := ⟨0, none, 800, none, 0⟩
/-- S0: PORST_N is low; OTP and MTP as manufactured hold zeros (log 2). -/
def BootSt.reset : BootSt :=
  ⟨false, true, true, false, false, false, false, false, 0, false, [], [], none, [], false, [], 0, none, none,
    Download.reset, [0, 0, 0, 0], true, [], []⟩
def HostSt.reset : HostSt := ⟨[], [], [], [], false⟩
def AdmSt.reset : AdmSt := ⟨[], [], [], [], [], [], [], [], [], []⟩
def PoolSt.reset : PoolSt := ⟨[], []⟩
def EvcSt.reset : EvcSt := ⟨[], [], [], 0⟩
def MmuSt.reset : MmuSt := ⟨[], []⟩
def MemSt.reset : MemSt := ⟨[], [], [], [], [], [], [], [], [], [], [], [], [], []⟩
def CantorSt.reset : CantorSt := ⟨none, none, none, false, 0, [], [], [], [], [], [], [], [], [], [], false⟩

def SafetySt.reset : SafetySt := ⟨[], [], [], 0⟩
def TraceSt.reset : TraceSt := ⟨0, false, 0⟩
def CamStream.reset : CamStream := ⟨0, 0, 0, 0, 0, 0, 0, 0, false, false, false, false, none, 0, [], none, none⟩
def CamGroup.reset : CamGroup := ⟨false, false, 0, 0, 0, [], [], []⟩
def CamSt.reset : CamSt := ⟨[], []⟩
def WHead.reset : WHead := ⟨0, 0, none, [], none, 0, [], [], none, 0, [], [], [], []⟩
def WingSt.reset : WingSt := ⟨[], [], none⟩
def Voice.reset : Voice := ⟨0, [], 0, 0, 0, 0, false, false, 0, 0, 0, 0⟩
def Gain.reset : Gain := ⟨0, 0, 0, 0, 0, none⟩
/-- OUT_GAIN resets to 0x1000 (R412). -/
def Gain.unity : Gain := ⟨0x1000, 0x1000, 0x1000, 0, 0, none⟩
def TdmPort.reset : TdmPort := ⟨[], []⟩
def ChoirSt.reset : ChoirSt := ⟨[], [], [], [], [], [], [], 0, 0⟩
def TimerSt.reset : TimerSt := ⟨[], 0, [], [], [], [], []⟩
def I3cBus.reset : I3cBus := ⟨[], 0, []⟩
def SpiCtl.reset : SpiCtl := ⟨[], none, 0⟩
def PortSt.reset : PortSt := ⟨[], [], [], [], List.replicate 128 0, 0, false, false, (0, 0), 0⟩
def LinkPort.reset : LinkPort := ⟨false, 0, false, false, 0, 0, 0, false, 64, 0, [], [], [], 0, 0⟩
def LinkSt.reset : LinkSt := ⟨[], [], [], none, false, [], 0, [], .none, [], false, 0, none⟩
def HymnSt.reset : HymnSt := ⟨false, 0, false, []⟩
def ChaferSt.reset : ChaferSt := ⟨[], [], []⟩
def WvRule.reset : WvRule := ⟨0, false, 0, 0⟩
def WeevilSt.reset : WeevilSt := ⟨0, [], [], []⟩
def HartSt.reset : HartSt := ⟨false, false, false, 0, [], []⟩
/-- The TAP reset state selects IDCODE (R511). -/
def DebugSt.reset : DebugSt := ⟨1, 0, [], 0, [], none⟩

/-- The machine right after reset: power is on, PORST_N is low and the Guard die is in S0 (R102, R548). Every register
holds its reset value: the register file lists none but GUARD.RESET_CAUSE, whose POWER_ON bit names the reset. -/
def State.reset : State where
  member := .zs832f
  clk := ClockSt.reset
  regs := [(0x1044, 1#32)]
  resetting := []
  roll := RollSt.reset
  boot := BootSt.reset
  host := HostSt.reset
  adm := AdmSt.reset
  pool := PoolSt.reset
  evc := EvcSt.reset
  mmu := MmuSt.reset
  ms := MemSt.reset
  mem := []
  gmem := []
  regq := []
  cantor := CantorSt.reset
  safety := SafetySt.reset
  trace := TraceSt.reset
  weevil := WeevilSt.reset
  dbg := DebugSt.reset
  chafer := ChaferSt.reset
  cam := CamSt.reset
  wing := WingSt.reset
  choir := ChoirSt.reset
  timer := TimerSt.reset
  port := PortSt.reset
  link := LinkSt.reset
  hymn := HymnSt.reset
  free := 0
  out := []
  pending := []

end Sys2Proof.Machine
end

