-- ==== Sys2Proof/Machine/Ops.lean ====
section
/-! DEFINITION. The named operations over the register file, the memories, stave time and the member tables. Every
register access of the model goes through rd and wr, every memory access through the byte operations below. -/
namespace Sys2Proof.Machine

/-- The page descriptor of a page number; tenant control page n is 0x400 + n (R56, R60). -/
def pageDesc (p : Nat) : Option PageDesc :=
  if 0x400 ≤ p && p ≤ 0x440 then some tenantDesc
  else pageTable.find? fun d => d.base ≤ p && p < d.base + d.count

/-- The register of a table at a page offset, on an instance. -/
def findReg (inst : Nat) (l : List RegDesc) (off : Nat) : Option RegDesc :=
  l.find? fun r => r.off ≤ off && off < r.off + r.count * r.stride && (off - r.off) % r.stride == 0
    && (match r.only with
        | none => true
        | some i => i == inst)

/-- Reset value of a register word. -/
def fldsReset (l : List Fld) : Nat := l.foldl (fun w f => setBits w f.hi f.lo f.rst) 0

/-- A tenant control page of the model's numbering. -/
def isTenantPage (p : Nat) : Bool := 0x400 ≤ p && p ≤ 0x440

/-- The page has its header at its offset 0 (R62: RINGSTATE pages have none). -/
def isRingPage (p : Nat) : Bool := 0x100 ≤ p && p < 0x200

/-- Register-file key of a header register of a page (R54, R62). -/
def hdr (p off : Nat) : Nat := (if isRingPage p then 0x220000 + 64 * (p - 0x100) else p * 0x1000) + off

/-- Page and in-page offset of a register-file key; header aliases answer their RINGSTATE page with isHdr. -/
def locate (a : Nat) : Nat × Nat × Bool :=
  if 0x220000 ≤ a && a < 0x224000 then (0x100 + (a - 0x220000) / 64, a % 64, true)
  else (a / 0x1000, a % 0x1000, !isRingPage (a / 0x1000) && a % 0x1000 < 0x40)

/-- The descriptor of the register at a key: header registers first, the shadow as its staged register (R59). -/
def regAt (a : Nat) : Option RegDesc :=
  let (p, off, isHdr) := locate a
  match pageDesc p with
  | none => none
  | some d =>
    if isHdr then
      match findReg 0 regsHeader off with
      | some r => some r
      | none => if d.staged then findReg 0 regsHeaderStaged off else none
    else findReg (p - d.base) d.regs (if d.staged && 0xA00 ≤ off && off < 0xC00 then off - 0x200 else off)

/-- Reset values that differ within a register array: entry 0 of the SRIOV page is PF0 (R131, R142). -/
def resetFix (a : Nat) : Option W32 :=
  if a == Rg.SRIOV_TEN_STAT then some 3
  else if a == Rg.SRIOV_TEN_CFG then some 0x80000000#32
  else none

/-- The reset value of the register at a key (R43, R60, R81, and the register tables). -/
def resetOf (a : Nat) : W32 :=
  let (p, off, isHdr) := locate a
  match resetFix a with
  | some v => v
  | none =>
  match pageDesc p with
  | none => 0
  | some d =>
    if isHdr && off == Hdr.PAGE_OWNER then
      w32 (if isTenantPage p then p - 0x400 else if d.guardDie then 0x44 else 0x41)
    else if isHdr && off == Hdr.PAGE_WMASK then
      w32 (if isTenantPage p then 0x40 else if d.guardDie then 2 else 3)
    else if isHdr then 0
    else match regAt a with
      | none => 0
      | some r => w32 (fldsReset r.flds)

/-- The stored value of a register. -/
def rd (s : State) (a : Nat) : W32 := (kvFind s.regs a).getD (resetOf a)

/-- A register stored; a register at its reset value is not listed. -/
def wr (a : Nat) (v : W32) (s : State) : State := { s with regs := kvPut (resetOf a) s.regs a v }

/-- A register as a number. -/
def rdN (s : State) (a : Nat) : Nat := (rd s a).toNat

/-- A field of a register. -/
def rdF (s : State) (a hi lo : Nat) : Nat := fld (rd s a) hi lo

/-- A bit of a register. -/
def rdB (s : State) (a n : Nat) : Bool := fbit (rd s a) n

/-- A field of a register stored. -/
def wrF (a hi lo v : Nat) (s : State) : State := wr a (setFld (rd s a) hi lo v) s

/-- A bit of a register stored. -/
def wrB (a n : Nat) (b : Bool) (s : State) : State := wrF a n n (b2n b) s

/-- A saturating count register stepped. -/
def bump (a : Nat) (s : State) : State := wr a (satAdd (rd s a) 1) s

/-- A wrapping count register stepped. -/
def bumpWrap (a : Nat) (s : State) : State := wr a (rd s a + 1) s

/-- A 64-bit pair of registers, low word first. -/
def rd64 (s : State) (lo : Nat) : Nat := rdN s lo + rdN s (lo + 4) * 0x100000000

/-- A 64-bit pair of registers stored, low word first. -/
def wr64 (lo v : Nat) (s : State) : State := wr (lo + 4) (w32 (v / 0x100000000)) (wr lo (w32 v) s)

/-- The bits of a W1C register cleared. -/
def clearBits (a : Nat) (m : W32) (s : State) : State := wr a (rd s a &&& ~~~m) s

/-- EXTEST, CLAMP or HIGHZ is in force: the balls follow the boundary register (R511). -/
def ballsHeld (s : State) : Bool :=
  (s.dbg.ir == 0 || s.dbg.ir == 3 || s.dbg.ir == 4) && (!s.boot.porstN || rdB s Rg.DEBUG_CTRL 0)

/-- A message that leaves by a functional ball, and so not while the balls follow the boundary register (R511). -/
def Msg.byBall : Msg → Bool
  | .readData .. => false
  | .tdo .. => false
  | _ => true

/-- A message leaves the device. -/
def emit (m : Msg) (s : State) : State :=
  if ballsHeld s && m.byBall then s else { s with out := s.out ++ [m] }

/-- The next free choice (log 6). -/
def freeBit (s : State) : Bool × State := (Config.freeBool s.free, { s with free := s.free + 1 })

/-- The next free value (log 6). -/
def freeVal (s : State) : Nat × State := (Config.freeNat s.free, { s with free := s.free + 1 })

/-! ## Stave time (R21 to R24) -/

/-- The present stave time. -/
def stimeNow (s : State) : Nat := s.clk.snum * 0x400000 + s.clk.line * 0x800 + s.clk.beat * 32 + s.clk.sub

/-- The present stave time stamped on PERCLK: an even SUB (R23). -/
def stimePer (s : State) : Nat := stimeNow s - s.clk.sub % 2

/-- Lines since stave 0, line 0. -/
def linLine (s : State) : Nat := s.clk.snum * 1250 + s.clk.line

/-- Beats since stave 0, line 0, beat 0. -/
def linBeat (s : State) : Nat := linLine s * 64 + s.clk.beat

/-- Sub-beats since stave 0, line 0, beat 0 (R24). -/
def linSub (s : State) : Nat := linBeat s * 32 + s.clk.sub

/-- Linear lines of a 64-bit stave time. -/
def linOf (st : Nat) : Nat := st / 0x400000 * 1250 + st / 0x800 % 0x800

/-- Before S6 (R65): until the first entry to S6, and during the rerun of S4 and S5. -/
def beforeS6 (s : State) : Bool := !s.boot.everS6 || s.boot.rerun

/-- The boot stage (BOOT.STAT.STAGE). -/
def stage (s : State) : Nat := rdF s Rg.BOOT_STAT 2 0

/-! ## The member tables (R41, R42) -/

/-- The pages that a member carries (R41). -/
def present (m : Member) (p : Nat) : Bool :=
  match pageDesc p with
  | none => false
  | some _ =>
    match m with
    | .zs832f => true
    | .zs816h =>
      !((0x48 ≤ p && p ≤ 0x4F) || (0x58 ≤ p && p ≤ 0x5F) || p == 0x67 || p == 0x68 || p == 0x6B || p == 0x6C || p == 0x71)
    | .zs804q =>
      !(p == 0x29 || (0x44 ≤ p && p ≤ 0x5F) || p == 0x61 || p == 0x63 || p == 0x64 || (0x67 ≤ p && p ≤ 0x6C)
        || p == 0x70 || p == 0x71 || (0x94 ≤ p && p ≤ 0x97) || p == 0xB1 || p == 0xC0 || p == 0xC1
        || (0x140 ≤ p && p < 0x200))

def corePresent (m : Member) (c : Nat) : Bool := c < 32 && present m (Pg.CORE + c)
def nRings (m : Member) : Nat := match m with | .zs804q => 4096 | _ => 16384
def nJobs (m : Member) : Nat := match m with | .zs804q => 4096 | _ => 8192
def dramTop (m : Member) : Nat := match m with | .zs832f => 0x800000000 | .zs816h => 0x400000000 | .zs804q => 0x200000000
def llcMiB (m : Member) : Nat := match m with | .zs832f => 48 | .zs816h => 24 | .zs804q => 12
/-- DRAM channels present, in ascending order. -/
def channels (m : Member) : List Nat := (List.range 8).filter fun c => present m (Pg.DRAMC + c)
/-- Cores present, in ascending order. -/
def coresOf (m : Member) : List Nat := (List.range 32).filter fun c => corePresent m c
/-- The halves present. -/
def halves (m : Member) : List Nat := match m with | .zs804q => [0] | _ => [0, 1]
/-- The half of a core. -/
def halfOf (c : Nat) : Nat := c / 16
/-- Every listed page that the member carries, tenant control pages apart. -/
def allPages (m : Member) : List Nat :=
  (pageTable.flatMap fun d => (List.range d.count).map (d.base + ·)).filter (present m)

/-- A core or other unit is fenced: BLK_STAT.FENCED of its page. -/
def fenced (s : State) (p : Nat) : Bool := rdB s (hdr p Hdr.BLK_STAT) 3

/-- BLK_CTRL.ENABLE of a page. -/
def enabled (s : State) (p : Nat) : Bool := rdB s (hdr p Hdr.BLK_CTRL) 0

/-! ## Memory -/

/-- The memory lists keys strictly rising and no byte equal to what an unlisted address reads as (log 5). -/
def Memory.wf (m : List Host.Cell) : Bool := kvSorted m && m.all (fun c => c.2 != 0)

/-- n bytes of a memory from an address. -/
def cellsRead (m : List Host.Cell) : Nat → Nat → List Byte
  | _, 0 => []
  | a, n + 1 => kvGet 0 m a :: cellsRead m (a + 1) n

/-- Bytes stored in a memory from an address. -/
def cellsWrite (m : List Host.Cell) : Nat → List Byte → List Host.Cell
  | _, [] => m
  | a, b :: r => cellsWrite (kvPut 0 m a b) (a + 1) r

/-- Bytes of device physical memory. -/
def memRead (s : State) (a n : Nat) : List Byte := cellsRead s.mem a n

/-- Bytes stored in device physical memory. -/
def memWrite (a : Nat) (l : List Byte) (s : State) : State := { s with mem := cellsWrite s.mem a l }

/-- Bytes of the guard memories. -/
def gmemRead (s : State) (a n : Nat) : List Byte := cellsRead s.gmem a n

/-- Bytes stored in the guard memories. -/
def gmemWrite (a : Nat) (l : List Byte) (s : State) : State := { s with gmem := cellsWrite s.gmem a l }

/-! ## Tenants (R131, R141) -/

/-- NumVFs and VF Enable as SRIOV.VF_STAT shows them. -/
def numVfs (s : State) : Nat := rdF s Rg.SRIOV_VF_STAT 6 0
def vfEn (s : State) : Bool := rdB s Rg.SRIOV_VF_STAT 7

/-- Tenants that exist; entry 0 is PF0. -/
def tenExists (s : State) (n : Nat) : Bool := n == 0 || (vfEn s && n ≤ numVfs s)
def tenCfg (s : State) (n : Nat) : W32 := rd s (Rg.SRIOV_TEN_CFG + 16 * n)
def tenEnabled (s : State) (n : Nat) : Bool := n == 0 || fbit (tenCfg s n) 31
def tenBase (s : State) (n : Nat) : Nat := rdF s (Rg.SRIOV_TEN_RINGS + 16 * n) 13 0
def tenCount (s : State) (n : Nat) : Nat := rdF s (Rg.SRIOV_TEN_RINGS + 16 * n) 28 16

/-- The assigned ring count of a tenant: 0 unless it exists and is enabled (R57, R142). -/
def tenHeld (s : State) (n : Nat) : Nat := if tenExists s n && tenEnabled s n then tenCount s n else 0

/-- The assigned ring count, which reads 0 while an FLR of the function runs (R137, R142). -/
def tenAssigned (s : State) (n : Nat) : Nat :=
  if rdB s (Rg.SRIOV_TEN_STAT + 4 * n) 3 then 0 else tenHeld s n

/-- The owner of a ring (R141, R147). -/
def ringOwner (s : State) (r : Nat) : Nat :=
  (((List.range 64).map (· + 1)).find? fun n =>
    tenHeld s n != 0 && tenBase s n ≤ r && r < tenBase s n + tenCount s n).getD 0

/-- The budget values in use of a tenant (R145). -/
def tenUse (s : State) (n : Nat) : TenUse := kvGet TenUse.reset s.adm.tens n

/-- Job-table entries that a tenant holds. -/
def jobsHeld (s : State) (n : Nat) : Nat :=
  (s.cantor.jobs.filter fun j => match j.2.inv with | some v => v.owner == n | none => false).length

/-- The registers of a tenant control page (R56, R146). -/
def tenantReg (s : State) (n off : Nat) : Nat :=
  let u := tenUse s n
  if off == 0x40 then n + b2n (tenEnabled s n) * 128 + tenAssigned s n * 256
  else if off == 0x44 then u.guar
  else if off == 0x48 then u.ceil
  else if off == 0x4C then u.prio + fld (tenCfg s n) 16 4 * 16
  else if off == 0x50 then u.use
  else if off == 0x58 then kvGet 0 s.clk.nowHi n
  else 0

/-- Read-only values a register answers that the register file does not store (R553, R60, R81, R197). -/
def capOf (m : Member) (p : Nat) (d : PageDesc) : Nat :=
  let i := p - d.base
  match d.kind with
  | .mmu => if i == 0 then 1 else 0
  | .core => 2048 + 512 * 4096
  | .cantor => 4096
  | .llc => llcMiB m
  | .chafer => 64 + 32 * 256
  | .wingcase => if i == 0 then 1 else 0
  | .cam => 3
  | .timer => 16
  | _ => 0

/-- The EVC run of a page: first source and length (R197). -/
def evtRun (p : Nat) : Nat × Nat :=
  match pageDesc p with
  | none => (0, 0)
  | some d => (d.first + (p - d.base) * d.runStep, d.run)

/-- The readback of a register: the fixed header words, else what the register file stores (R46, R61, R553). -/
def readback (s : State) (a : Nat) : W32 :=
  let (p, off, isHdr) := locate a
  match pageDesc p with
  | none => 0
  | some d =>
    if isHdr && off == Hdr.BLK_ID then
      w32 (if isTenantPage p then 0x021 * 0x100000 + (p - 0x400) * 0x1000 + 0x100
           else d.base * 0x100000 + (p - d.base) * 0x1000 + 0x100)
    else if isHdr && off == Hdr.BLK_CAP then
      if present s.member p then
        w32 (capOf s.member p d + b2n d.fixed * 0x20000000 + b2n d.staged * 0x40000000 + 0x80000000)
      else 0
    else if isHdr && off == Hdr.EVT_SRC then
      if present s.member p then w32 ((evtRun p).1 + (evtRun p).2 * 0x10000) else 0
    else if isTenantPage p && !isHdr then w32 (tenantReg s (p - 0x400) off)
    else if p == Pg.SRIOV && 0x200 ≤ off && off < 0x304 then
      setFld (rd s a) 28 16 (jobsHeld s ((off - 0x200) / 4))
    else if present s.member p || (isHdr && off == Hdr.PAGE_WDROP) then rd s a
    else 0

end Sys2Proof.Machine
end

