-- ==== Sys2Proof/Machine/Flags.lean ====
section
/-! DEFINITION. Page events and EVC raises (R74), change-roll entries (R85 to R92), trace entries (R516, R517) and
fault causes (R463 to R466): what any unit does to the block's status. -/
namespace Sys2Proof.Machine

/-! ## Events -/

/-- A raise message sent to the EVC (R558). -/
def raiseSrc (src : Nat) (s : State) : State := { s with evc := { s.evc with inflight := s.evc.inflight ++ [src] } }

/-- The EVC source of event bit i of a page, if it has a run (R74). -/
def evtSource (p i : Nat) : Option Nat :=
  let (f, c) := evtRun p
  if c == 0 then none else some (f + min i (c - 1))

/-- An event bit of a page set, by hardware or EVT_SET; a rising edge of EVT_STAT AND EVT_EN raises (R52, R74). -/
def setEvt (p i : Nat) (s : State) : State :=
  if !present s.member p || rdB s (hdr p Hdr.EVT_STAT) i then s
  else
    let s := wrB (hdr p Hdr.EVT_STAT) i true s
    if rdB s (hdr p Hdr.EVT_EN) i then
      match evtSource p i with
      | some src => raiseSrc src s
      | none => s
    else s

/-- Several event bits of a page. -/
def setEvts (p : Nat) (m : Nat) (s : State) : State :=
  (List.range 32).foldl (fun s i => if bit m i then setEvt p i s else s) s

/-- EVT_EN written: each event whose AND with EVT_STAT rises raises its source (R74). -/
def putEvtEn (p : Nat) (v : W32) (s : State) : State :=
  let old := rd s (hdr p Hdr.EVT_EN)
  let st := rd s (hdr p Hdr.EVT_STAT)
  let s := wr (hdr p Hdr.EVT_EN) v s
  (List.range 32).foldl (fun s i =>
    if fbit st i && fbit v i && !fbit old i then
      match evtSource p i with
      | some src => raiseSrc src s
      | none => s
    else s) s

/-! ## The change roll -/

/-- Entries that the roll holds (R90). -/
def rollSize : Nat := 16384

/-- ROLL.FILL from NEXT_SEQ and TAIL_SEQ (R95). -/
def rollFillSync (s : State) : State :=
  wr Rg.ROLL_FILL (w32 (sub32 (rdN s Rg.ROLL_NEXT_SEQ) (rdN s Rg.ROLL_TAIL_SEQ))) s

/-- The oldest entry overwritten at a full roll: OVERRUN counts it when it was not yet drained (R90). -/
def rollOverwrite (s : State) : State :=
  if s.roll.entries.length < rollSize then s
  else
    let oldest := rd s Rg.ROLL_OLDEST_SEQ
    let unread := rd s Rg.ROLL_TAIL_SEQ == oldest
    let s := wr Rg.ROLL_OLDEST_SEQ (oldest + 1) { s with roll := { s.roll with entries := s.roll.entries.drop 1 } }
    if unread then setEvt Pg.ROLL 3 (bump Rg.ROLL_OVERRUN (wr Rg.ROLL_TAIL_SEQ (oldest + 1) s)) else s

/-- One entry made, numbered by RSEQ, or lost in HOLD mode at a full roll (R86, R89 to R92). -/
def rollPut (e : RollEntry) (s : State) : State :=
  let fill := sub32 (rdN s Rg.ROLL_NEXT_SEQ) (rdN s Rg.ROLL_TAIL_SEQ)
  if rdB s Rg.ROLL_CTRL 0 && rollSize ≤ fill then setEvt Pg.ROLL 2 (bump Rg.ROLL_LOST s)
  else
    let s := rollOverwrite s
    let seq := rd s Rg.ROLL_NEXT_SEQ
    let s := { s with roll := { s.roll with
      entries := s.roll.entries ++ [{ e with rseq := seq.toNat }], edgeN := s.roll.edgeN + 1 } }
    let s := rollFillSync (wr Rg.ROLL_NEXT_SEQ (seq + 1) s)
    if rdN s Rg.ROLL_FILL == rdF s Rg.ROLL_THRESH 14 0 && fill < rdN s Rg.ROLL_FILL then setEvt Pg.ROLL 0 s else s

/-- A configuration change made by the device itself: its roll entry, and PAGE_WSEQ of the page (R64, R85, R86). -/
def hwChange (cause p off : Nat) (old new : W32) (s : State) : State :=
  let s := bumpWrap (hdr p Hdr.PAGE_WSEQ) s
  rollPut { stime := stimePer s, origin := 0, aux := cause, page := p, off := off, refused := false,
            boot := beforeS6 s, replay := false, hw := true, staged := false, be := 15, reason := 0,
            old := old, new := new, rseq := 0, count := rd s (hdr p Hdr.PAGE_WSEQ) } s

/-- A register changed by hardware with its roll entry. -/
def hwSet (cause a : Nat) (v : W32) (s : State) : State :=
  let old := rd s a
  let (p, off, _) := locate a
  hwChange cause p off old v (wr a v s)

/-! ## Trace (R516, R517) -/

/-- A FABCLK edge begins. -/
def fabEdge (s : State) : State :=
  { s with trace := { s.trace with edgeN := 0 }, evc := { s.evc with edgeN := 0 } }

/-- One trace entry of a kind, if TRACE_CTRL enables it; beyond 4 on one edge it is lost and the next sets GAP. -/
def traceEvt (kind unit data : Nat) (s : State) : State :=
  let c := rd s Rg.DEBUG_TRACE_CTRL
  if !fbit c 0 || !fbit c (kind + 3) then s
  else if 4 ≤ s.trace.edgeN then bump Rg.DEBUG_TRACE_LOST { s with trace := { s.trace with gap := true } }
  else
    let e := rdN s Rg.DEBUG_TRACE_HEAD
    let s := gmemWrite (0x50050000 + 16 * (e % 4096))
      (toLE 8 (stimeNow s) ++ toLE 4 (kind + unit * 0x100 + b2n s.trace.gap * 0x10000) ++ toLE 4 data) s
    let s := bumpWrap Rg.DEBUG_TRACE_HEAD
      { s with trace := ⟨s.trace.edgeN + 1, false, s.trace.sinceEn + 1⟩ }
    if fbit c 1 && 4096 ≤ s.trace.sinceEn then wrB Rg.DEBUG_TRACE_CTRL 0 false s else s

/-! ## Log rings of 16 entries (R232, R465) -/

/-- Words of a byte string, least significant byte first. -/
def wordsOf (l : List Byte) (n : Nat) : List W32 := (List.range n).map fun i => w32 (leAt l (4 * i) 4)

/-- Words stored at consecutive registers. -/
def wrWords (a : Nat) (l : List W32) (s : State) : State :=
  (l.foldl (fun (x : Nat × State) w => (x.1 + 4, wr x.1 w x.2)) (a, s)).2

/-- A 32-byte entry put in a log of 16 whose HEAD, TAIL and LOST registers follow each other; lost when full. -/
def logPut (headReg base : Nat) (e : List Byte) (s : State) : State :=
  let h := rdN s headReg
  if sub32 h (rdN s (headReg + 4)) == 16 then bump (headReg + 8) s
  else bumpWrap headReg (wrWords (base + 32 * (h % 16)) (wordsOf e 8) s)

/-! ## Fault causes (R463 to R466) -/

/-- The class of a cause by FAULT.CLASS_MAP (R464). -/
def causeClass (s : State) (cause : Nat) : Nat := bits (rdN s Rg.FAULT_CLASS_MAP) (2 * cause + 1) (2 * cause)

/-- FAULT_N asserted by a PIN cause after the first entry to S6 (R466); a pending release is cancelled (R467). -/
def pinAssert (s : State) : State :=
  if !s.boot.everS6 then s
  else
    let was := rdB s Rg.FAULT_PIN 0
    let s := wr Rg.FAULT_PIN (w32 1) { s with safety := { s.safety with pinLines := 0 } }
    let s := setEvt Pg.FAULT 1 s
    if was then s else emit (.faultN false) s

/-- Both Wingcase heads reduced to guard-owned content (R464, R397). -/
def pinSafe (s : State) : State :=
  [0, 1].foldl (fun s h => wrB (Rg.WINGCASE_HEAD_CTRL + h * 0x1000) 0 true s) s

/-- BLK_STAT.FAULT of a page reads 1 while a fault-log entry between TAIL and HEAD names it (R465). -/
def faultNamed (s : State) (p : Nat) : Bool :=
  let t := rdN s Rg.FAULT_FLOG_TAIL
  (List.range (sub32 (rdN s Rg.FAULT_FLOG_HEAD) t)).any fun i =>
    rdF s (Rg.FAULT_FLOG + 32 * ((t + i) % 16) + 8) 31 16 == p

/-- BLK_STAT.FAULT of the pages given, recomputed. -/
def faultStatSync (ps : List Nat) (s : State) : State :=
  ps.foldl (fun s p => wrB (hdr p Hdr.BLK_STAT) 2 (faultNamed s p) s) s

/-- A fault cause raised: its log entry, count, and the actions of its class (R463 to R466, R517). -/
def raiseFault (cause page info1 info2 : Nat) (s : State) : State :=
  let cls := causeClass s cause
  let pinSet := 2 ≤ cls && s.boot.everS6
  let full := sub32 (rdN s Rg.FAULT_FLOG_HEAD) (rdN s Rg.FAULT_FLOG_TAIL) == 16
  let s := logPut Rg.FAULT_FLOG_HEAD Rg.FAULT_FLOG
    (toLE 8 (stimeNow s) ++ toLE 2 (cause + (cls + b2n pinSet * 4) * 0x100) ++ toLE 2 page ++ toLE 4 info1
      ++ toLE 4 info2 ++ toLE 12 0) s
  let s := if full then setEvt Pg.FAULT 2 s else wrB (hdr page Hdr.BLK_STAT) 2 true s
  let s := bump (Rg.FAULT_CAUSE_CNT + 4 * (cause - 1)) s
  let s := traceEvt 7 cause info1 s
  let s := if 1 ≤ cls then setEvt Pg.FAULT 0 s else s
  let s := if 1 ≤ cls && rdB s Rg.DEBUG_TRACE_CTRL 2 then wrB Rg.DEBUG_TRACE_CTRL 0 false s else s
  let s := if 2 ≤ cls then pinAssert s else s
  if cls == 3 then pinSafe s else s

end Sys2Proof.Machine
end

