-- ==== Sys2Proof/Machine/Weevil.lean ====
section
/-! DEFINITION. Weevil (R498 to R509): triggers, actions on the units of a point, held units; and the stave hold that a
rule or a debugger requests (R518, R519). -/
namespace Sys2Proof.Machine

/-! ## Stave hold (R518, R519) -/

/-- A stave hold is in force (R518, R520). -/
def held (s : State) : Bool := rdB s Rg.DEBUG_HOLD_STAT 1

/-- A hold requested (R518); nothing while one is pending or in force. -/
def holdRequest (s : State) : State :=
  if rdB s Rg.DEBUG_HOLD_STAT 0 || held s then s
  else
    let l := if rdB s Rg.DEBUG_HOLD_CTRL 2 then some (rdF s Rg.DEBUG_HOLD_LINE 10 0) else none
    wrB Rg.DEBUG_HOLD_STAT 0 true { s with dbg := { s.dbg with holdLine := l } }

/-- A pending hold takes effect at the line boundary that has just begun (R518). -/
def holdTake (s : State) : State :=
  if !rdB s Rg.DEBUG_HOLD_STAT 0 then s
  else if s.dbg.holdLine.isSome && s.dbg.holdLine != some s.clk.line then s
  else
    let s := wrB Rg.STAVE_STAT 3 true (wr Rg.DEBUG_HOLD_STAT (w32 2) s)
    setEvt Pg.DEBUG 1 (bump Rg.DEBUG_HOLDS s)

/-- A hold released: cancelled while pending, ended at the next stave boundary while in force (R519). -/
def holdRelease (s : State) : State :=
  if held s then wrB Rg.DEBUG_HOLD_STAT 2 true s else wr Rg.DEBUG_HOLD_STAT 0 s

/-- The hold's own end, in step 3 of a stave boundary (R519). -/
def holdEnd (s : State) : State :=
  setEvt Pg.DEBUG 1 (wrB Rg.STAVE_STAT 3 false (wr Rg.DEBUG_HOLD_STAT 0 s))

/-! ## Points and actions (R501, R503) -/

/-- A point of a member (R501). -/
def wvPointOk (m : Member) (pt : Nat) : Bool :=
  pt ≤ 2 || (0x10 ≤ pt && pt < 0x18 && present m (Pg.CAM + (pt - 0x10)))
    || (0x20 ≤ pt && pt < 0x22 && present m (Pg.ETH + (pt - 0x20)))
    || (0x28 ≤ pt && pt < 0x2A && present m (Pg.ETH + (pt - 0x28)))
    || (0x30 ≤ pt && pt < 0x32 && present m (Pg.SLINK + (pt - 0x30)))
    || (0x38 ≤ pt && pt < 0x3A && present m (Pg.SLINK + (pt - 0x38)))
    || ((pt == 0x40 || pt == 0x41) && present m Pg.BRIDGE)

/-- An action that is allowed at a point (R503); action 0 only in a rule whose EN is 0. -/
def wvActionOk (act pt : Nat) (en : Bool) : Bool :=
  if act == 0 then !en
  else if act == 1 || act == 3 then pt != 0 && pt != 0x40 && pt != 0x41
  else if act == 2 || act == 4 then pt != 0
  else (act == 5 || act == 6) && pt == 0

/-- A WV_TARG value that the trigger kind allows (R506). -/
def wvTargOk (trig targ : Nat) : Bool :=
  if trig == 1 then targ != 0 else if trig == 2 then targ < 1250 else if trig == 3 then targ < 0x1000 else true

/-- A WV_ARG value that the action allows (R503). -/
def wvArgOk (act arg : Nat) : Bool :=
  if act == 3 then arg % 16 != 0 else if act == 4 then arg % 0x10000 != 0 else if act == 5 then arg % 4 == 0 else true

def wvCtrl (s : State) (r : Nat) : W32 := rd s (Rg.WEEVIL_WV_CTRL + 32 * r)
def wvTarg (s : State) (r : Nat) : Nat := rdN s (Rg.WEEVIL_WV_TARG + 32 * r)
def wvArg (s : State) (r : Nat) : Nat := rdN s (Rg.WEEVIL_WV_ARG + 32 * r)

/-- A write of WV_CTRL is well formed (R501, R503, R506). -/
def wvCtrlOk (s : State) (r v : Nat) : Bool :=
  let pt := bits v 11 4
  let trig := bits v 14 12
  let act := bits v 3 1
  wvPointOk s.member pt && wvActionOk act pt (bit v 0) && trig ≤ 4 && !(pt == 0 && (trig == 1 || trig == 4))
    && !(act == 5 && wvArg s r % 4 != 0)

/-- WEEVIL_OFF (R498). -/
def wvFused (s : State) : Bool := fbit (kvGet 0 s.boot.otp 49) 4

def wvRule (s : State) (r : Nat) : WvRule := kvGet WvRule.reset s.weevil.rules r
def putWvRule (r : Nat) (x : WvRule) (s : State) : State :=
  { s with weevil := { s.weevil with rules := kvPut WvRule.reset s.weevil.rules r x } }

/-- A rule that acts: ARMED, EN, WEEVIL_OFF 0 (R498, R499). -/
def wvLive (s : State) (r : Nat) : Bool := rdB s Rg.WEEVIL_STAT 0 && !wvFused s && fbit (wvCtrl s r) 0

/-- A rule triggered: TRIGGERED shows it (R506). -/
def wvTrigger (r : Nat) (s : State) : State :=
  let x := wvRule s r
  if x.trig then s
  else wrB (Rg.WEEVIL_WV_HITS + 32 * r) 31 true (putWvRule r { x with trig := true, n := 0, acts := 0 } s)

/-- ARMED set (R499): every rule waits for its trigger anew. -/
def wvArm (s : State) : State :=
  wrB Rg.WEEVIL_STAT 0 true { s with weevil := { s.weevil with rules := [] } }

/-- A raise of an EVC source triggers the EVENT rules that name it (R506). -/
def wvEvent (src : Nat) (s : State) : State :=
  (List.range 8).foldl (fun s r =>
    if wvLive s r && fld (wvCtrl s r) 14 12 == 3 && wvTarg s r == src then wvTrigger r s else s) s

/-- The start of a stave line triggers the LINE rules that name it (R506). -/
def wvLine (s : State) : State :=
  (List.range 8).foldl (fun s r =>
    if wvLive s r && fld (wvCtrl s r) 14 12 == 2 && wvTarg s r == s.clk.line then wvTrigger r s else s) s

/-- A write of FIRE triggers the SOFTWARE rules whose bits it sets (R506). -/
def wvFire (m : Nat) (s : State) : State :=
  (List.range 8).foldl (fun s r =>
    if bit m r && wvLive s r && fld (wvCtrl s r) 14 12 == 0 then wvTrigger r s else s) s

/-- One action counted (R507, R509): ACTED, beyond its 16 bits left open, FIRES, TAINTED, the trace entry and DONE. -/
def wvCount (r : Nat) (s : State) : State :=
  let a := Rg.WEEVIL_WV_HITS + 32 * r
  let x := wvRule s r
  let n := rdF s a 15 0
  let (n, s) := if n == 0xFFFF then freeVal s else (n + 1, s)
  let s := putWvRule r { x with acts := x.acts + 1 } (wrF a 15 0 n s)
  let s := setEvt Pg.WEEVIL 0 (wrB Rg.WEEVIL_STAT 2 true (bump Rg.WEEVIL_COUNTS s))
  let s := traceEvt 8 r (fld (wvCtrl s r) 11 4) s
  let rep := fld (wvCtrl s r) 31 16
  if rep != 0 && rep ≤ x.acts + 1 then wrB a 30 true s else s

/-- A triggered rule comes to a unit: whether it wants to act on it, by PERIOD and REPEAT (R507). -/
def wvWants (r : Nat) (s : State) : Bool × State :=
  let x := wvRule s r
  let rep := fld (wvCtrl s r) 31 16
  if !x.trig || (rep != 0 && rep ≤ x.acts) then (false, s)
  else
    let p := max 1 (rdF s (Rg.WEEVIL_WV_PER + 32 * r) 31 16)
    (x.n % p == 0, putWvRule r { x with n := x.n + 1 } s)

/-- The 32-bit word at an offset of a unit ANDed with MMASK equals MVAL (R506); a word in bytes that the manual does not
lay out is left open, and bytes beyond the unit's end read as 0. -/
def wvMatch (r hdr : Nat) (l : List Byte) (s : State) : Bool × State :=
  let o := rdF s (Rg.WEEVIL_WV_PER + 32 * r) 15 0
  if o < hdr then freeBit s
  else (rd s (Rg.WEEVIL_WV_MMASK + 32 * r) &&& w32 (leAt l (o - hdr) 4) == rd s (Rg.WEEVIL_WV_MVAL + 32 * r), s)

/-- A rule sees a unit: its trigger (R506), and whether it wants to act. -/
def wvSee (r hdr : Nat) (l : List Byte) (s : State) : Bool × State :=
  let trig := fld (wvCtrl s r) 14 12
  if trig == 4 then
    let (m, s) := wvMatch r hdr l s
    if m then wvWants r (wvTrigger r s) else (false, s)
  else
    let s := if trig == 1 && !(wvRule s r).trig then
        let n := (wvRule s r).seen + 1
        let s := putWvRule r { wvRule s r with seen := n } s
        if n == wvTarg s r then wvTrigger r s else s
      else s
    wvWants r s

/-- The rules at a point meet a unit: the lowest that wants to act does; the others collide (R508). -/
def wvChoose (pt hdr : Nat) (l : List Byte) (s : State) : Option Nat × State :=
  (List.range 8).foldl (fun (x : Option Nat × State) r =>
    if wvLive x.2 r && fld (wvCtrl x.2 r) 11 4 == pt then
      let (want, s) := wvSee r hdr l x.2
      if !want then (x.1, s)
      else match x.1 with
        | none => (some r, wvCount r s)
        | some _ => (x.1, bump (Rg.WEEVIL_COUNTS + 4) s)
    else x) (none, s)

/-- What becomes of a unit at its point: it passes with its bytes, and a mark if bytes that the manual does not lay out
were changed; or it is removed; or the point holds it. -/
inductive WvRes where
  | pass (l : List Byte) (broken : Bool)
  | dropped
  | held
  deriving DecidableEq, Repr

/-- The 4 bytes from an offset XORed with a word, little-endian (R503). -/
def wvXor (l : List Byte) (off : Nat) (w : Nat) : List Byte :=
  l.mapIdx fun i b => if off ≤ i && i < off + 4 then b ^^^ BitVec.ofNat 8 (w / 256 ^ (i - off)) else b

/-- Units in a point's store. -/
def wvStore (s : State) (pt : Nat) : List WvHold := s.weevil.held.filter (·.point == pt)

/-- A point that has stopped: its DELAY runs, or units still wait behind it (R503). -/
def wvStopped (s : State) (pt : Nat) : Bool :=
  linSub s < kvGet 0 s.weevil.stop pt || (wvStore s pt).any (·.queued)

/-- A unit put in a point's store; false when the store is full (R504). -/
def wvHold (pt : Nat) (u : WvUnit) (queued : Bool) (left due : Nat) (s : State) : State :=
  { s with weevil := { s.weevil with held := s.weevil.held ++ [⟨pt, u, queued, left, due⟩] } }

/-- A unit passes: the units that REORDER holds at the point count it (R503). -/
def wvPassed (pt : Nat) (s : State) : State :=
  { s with weevil := { s.weevil with held := s.weevil.held.map fun h =>
      if h.point == pt && !h.queued then { h with left := h.left - 1 } else h } }

/-- A unit held back: at CAM_RX and ETH_RX a full store drops it and SPILL counts it; a link with flow control leaves it
with its sender (R504). -/
def wvTryHold (pt : Nat) (u : WvUnit) (queued : Bool) (left due : Nat) (s : State) : WvRes × State :=
  if (wvStore s pt).length < 16 then (.held, wvHold pt u queued left due s)
  else if 0x10 ≤ pt && pt < 0x28 then (.dropped, setEvt Pg.WEEVIL 1 (bump (Rg.WEEVIL_COUNTS + 8) s))
  else (.held, wvHold pt u queued left due s)

/-- A unit comes to its point (R501 to R508): bytes before hdr are not laid out by the manual; only a unit given as a
WvUnit can be held. -/
def wvPass (pt hdr : Nat) (l : List Byte) (u : List Byte → Option WvUnit) (s : State) : WvRes × State :=
  let stopped := wvStopped s pt
  let (r, s) := wvChoose pt hdr l s
  let go := fun (l : List Byte) (broken : Bool) (s : State) =>
    match u l, stopped with
    | some x, true => wvTryHold pt x true 0 0 s
    | _, _ => (WvRes.pass l broken, wvPassed pt s)
  match r with
  | none => go l false s
  | some r =>
    let act := fld (wvCtrl s r) 3 1
    let arg := wvArg s r
    if act == 1 then (.dropped, s)
    else if act == 2 then
      let off := arg % 0x10000
      if hdr + l.length ≤ off then go l false (bump (Rg.WEEVIL_COUNTS + 12) s)
      else
        let w := rdN s (Rg.WEEVIL_WV_DATA + 32 * r)
        let l2 := if hdr ≤ off then wvXor l (off - hdr) w
          else wvXor l 0 (w / 256 ^ (hdr - off))
        go l2 (off < hdr) s
    else if act == 3 then
      match u l with
      | some x => wvTryHold pt x false (arg % 16) (linSub s + 2048) s
      | none => go l false s
    else if act == 4 then
      let s := { s with weevil := { s.weevil with stop := kvInsert s.weevil.stop pt (linSub s + arg % 0x10000 * 32) } }
      match u l with
      | some x => wvTryHold pt x true 0 0 s
      | none => go l false s
    else go l false s

/-- The rules at NONE at a line boundary: POKE sends its write with origin 0x4B, HOLD requests a hold (R503). -/
def wvNone (s : State) : State :=
  let (r, s) := wvChoose 0 0 [] s
  match r with
  | none => s
  | some r =>
    let act := fld (wvCtrl s r) 3 1
    if act == 5 then
      { s with regq := s.regq ++ [⟨0x4B, 0, wvArg s r / 4 * 4, rd s (Rg.WEEVIL_WV_DATA + 32 * r), none, 15⟩] }
    else if act == 6 then holdRequest s
    else s

/-- The unit that a point releases now, if any: behind a stop that is over, or held by REORDER long enough (R503). -/
def wvDue (s : State) (pt : Nat) : Option WvHold :=
  let st := wvStore s pt
  match st.find? fun h => !h.queued && (h.left == 0 || h.due ≤ linSub s) with
  | some h => some h
  | none => if linSub s < kvGet 0 s.weevil.stop pt then none else st.find? (·.queued)

/-- The first copy of a held unit leaves its store. -/
def wvTake (h : WvHold) (s : State) : State :=
  wvPassed h.point { s with weevil := { s.weevil with held := s.weevil.held.erase h } }

/-- A Hymnal replay is in force (R495). -/
def replaying (s : State) : Bool := rdB s Rg.HYMNAL_STAT 0 && rdB s Rg.HYMNAL_CFG 0

/-- What a replay keeps from the link (R496): device reads, and with SINK host writes and MSI-X messages. -/
def replaySinks (m : Msg) (s : State) : Bool :=
  replaying s && match m with
    | .hostRead .. => rdB s Rg.HYMNAL_REC_MASK 2
    | .hostWrite .. => rdB s Rg.HYMNAL_CFG 1
    | .msix .. => rdB s Rg.HYMNAL_CFG 1
    | _ => false

/-- A message that leaves by PCIe meets PCIE_TX (R501, R505): answers whether it goes out now. -/
def emitTlp (m : Msg) (s : State) : Bool × State :=
  if replaySinks m s then (true, s)
  else
  let (d, hdr) := match m with
    | .hostWrite _ a l => (l, if a < 0x100000000 then 12 else 16)
    | .hostRead _ a _ => ([], if a < 0x100000000 then 12 else 16)
    | _ => ([], 16)
  let withData := fun (l : List Byte) => match m with
    | .hostWrite f a _ => Msg.hostWrite f a l
    | x => x
  match wvPass 2 hdr d (fun l => some (.msg (withData l))) s with
  | (.pass l false, s) => (true, emit (withData l) s)
  | (.pass _ true, s) => (false, s)
  | (.dropped, s) => (false, s)
  | (.held, s) => (false, s)

end Sys2Proof.Machine
end

