-- ==== Sys2Proof/Machine/Mem.lean ====
section
/-! DEFINITION. Device physical memory behind the LLC slices: homes, lookups and far copies (R233, R241 to R246, R256,
R557), errors (R252 to R255, R555), and the accesses of untranslated requesters (R214). -/
namespace Sys2Proof.Machine

/-! ## The address map (R219, R233, R234) -/

/-- Size of the West region of a member. -/
def westTop (m : Member) : Nat := match m with | .zs832f => 0x400000000 | .zs816h => 0x200000000 | .zs804q => 0x200000000

/-- The half whose region holds a DRAM address. -/
def homeOf (m : Member) (pa : Nat) : Nat := if pa < westTop m then 0 else 1

/-- log2 of the channels of a half. -/
def chanBits (m : Member) : Nat := match m with | .zs832f => 2 | _ => 1

/-- The DRAM channel of an address (R234). -/
def chanOf (m : Member) (pa : Nat) : Nat :=
  homeOf m pa * 4 + pa / 256 % 2 ^ chanBits m

/-- The channel-local address of an address (R234). -/
def chanLocal (m : Member) (pa : Nat) : Nat :=
  (pa - homeOf m pa * westTop m) / 2 ^ (8 + chanBits m) * 256 + pa % 256

/-- The address at a channel-local address of a channel: the inverse of R234. -/
def chanGlobal (m : Member) (c l : Nat) : Nat :=
  c / 4 * westTop m + (l / 256 * 2 ^ chanBits m + c % 4) * 256 + l % 256

/-- Bytes in each channel (R42). -/
def chanSize : Nat := 0x100000000

/-- What a device physical address names (R219). -/
inductive Target where
  | dram | scratch (core : Nat) | regs | absent | nothing
  deriving DecidableEq, Repr

def targetOf (m : Member) (pa : Nat) : Target :=
  if pa < dramTop m then .dram
  else if pa < 0x800000000 then .absent
  else if 0x2000000000 ≤ pa && pa < 0x2000000000 + 32 * 0x200000 then
    let c := (pa - 0x2000000000) / 0x200000
    if corePresent m c then .scratch c else .absent
  else if 0x3000000000 ≤ pa && pa < 0x3000400000 then .regs
  else .nothing

/-- Device physical address of a byte of a core's scratch. -/
def scratchPa (core off : Nat) : Nat := 0x2000000000 + core * 0x200000 + off

/-- The Bridge is trained (R250). -/
def bridgeUp (s : State) : Bool := rdB s Rg.BRIDGE_STAT 0

/-- The half that a memory target belongs to. -/
def targetHalf (m : Member) (pa : Nat) : Nat :=
  match targetOf m pa with
  | .scratch c => halfOf c
  | _ => homeOf m pa

/-! ## Lookups (R241 to R245, R256, R557) -/

/-- A count of the present stave stepped. -/
def staveBump (k : Nat) (n : Nat) (s : State) : State :=
  { s with ms := { s.ms with stave := kvPut 0 s.ms.stave k (kvGet 0 s.ms.stave k + n) } }

/-- One lookup of a slice by class, and its hit (R256). -/
def countLookup (h cls : Nat) (hit : Bool) (s : State) : State :=
  let a := Rg.LLC_CUM + h * 0x1000 + 8 * cls
  let s := staveBump a 1 (bumpWrap a s)
  if hit then staveBump (a + 4) 1 (bumpWrap (a + 4) s) else s

/-- A Bridge transfer is repeated after a CRC error (R250). -/
def bridgeAgain (s : State) : State := bump Rg.BRIDGE_REPLAYS s

/-- A 64-byte unit crosses the Bridge from a half; one that Weevil corrupts is repeated (R250, R505). -/
def countFlit (fromHalf : Nat) (s : State) : State :=
  let s := match wvPass (if fromHalf == 0 then 0x40 else 0x41) 64 [] (fun _ => none) s with
    | (.pass _ true, s) => bridgeAgain s
    | (_, s) => s
  staveBump (if fromHalf == 0 then Rg.BRIDGE_FLITS_WE else Rg.BRIDGE_FLITS_EW) 1 s

def noAlloc (s : State) (h cls : Nat) : Bool := rdB s (Rg.LLC_CLS_POLICY + h * 0x1000) (2 * cls)
def noFar (s : State) (h cls : Nat) : Bool := rdB s (Rg.LLC_CLS_POLICY + h * 0x1000) (2 * cls + 1)

def setTouched (l : Nat) (b : Bool) (s : State) : State := { s with ms := { s.ms with touched := kvPut false s.ms.touched l b } }
def setFar (l : Nat) (b : Bool) (s : State) : State := { s with ms := { s.ms with far := kvPut false s.ms.far l b } }

/-- The home slice's lookup of a line: a first access misses, a later one is left open (R557). -/
def homeLookup (l h cls : Nat) (s : State) : State :=
  let (c, s) := if kvGet false s.ms.touched l then freeBit s else (false, s)
  let s := countLookup h cls c s
  if noAlloc s h cls then s else setTouched l true s

/-- A read of one line by a half: its own far copy first, then the home slice (R243, R256). -/
def lineRead (half cls pa : Nat) (s : State) : State :=
  let l := pa / 64
  let home := homeOf s.member pa
  if home == half then homeLookup l home cls s
  else
    let (hit, s) := if kvGet false s.ms.far l then freeBit s else (false, s)
    let s := countLookup half cls hit s
    if hit then s
    else
      let s := countFlit home (homeLookup l home cls s)
      if noFar s half cls then s else setFar l true s

/-- A write or atomic access of one line: the far copy is invalidated before it completes (R243). -/
def lineWrite (half cls pa : Nat) (s : State) : State :=
  let l := pa / 64
  let home := homeOf s.member pa
  let s := if home == half then s
    else
      let (hit, s) := if kvGet false s.ms.far l then freeBit s else (false, s)
      countFlit half (countLookup half cls hit s)
  let s := { s with ms := { s.ms with dirty := kvPut false s.ms.dirty l true } }
  setFar l false (homeLookup l home cls s)

/-! ## Errors (R252 to R255, R555) -/

/-- The syndrome class of the 64-bit word at an address. -/
def markOf (s : State) (pa : Nat) : Nat := kvGet 0 s.ms.marks (pa / 8)

def setMark (pa c : Nat) (s : State) : State := { s with ms := { s.ms with marks := kvPut 0 s.ms.marks (pa / 8) c } }

/-- The line of DRAM at an address carries a poison marker (R254). -/
def poisoned (s : State) (pa : Nat) : Bool := kvGet false s.ms.poison (pa / 64)

def setPoison (pa : Nat) (b : Bool) (s : State) : State := { s with ms := { s.ms with poison := kvPut false s.ms.poison (pa / 64) b } }

/-- A word that cannot be corrected is written back with a poison marker: of its line in DRAM, of the word in scratch
(R254, R555). -/
def poisonWord (pa : Nat) (s : State) : State :=
  match targetOf s.member pa with
  | .scratch _ => setMark pa 4 s
  | _ => setPoison pa true (setMark pa 0 s)

/-- An error reported on the page of its unit: DRAMC, or the CORE page for scratch (R253, R254). -/
def reportErr (pa cls : Nat) (scrub : Bool) (s : State) : State :=
  let ue := 3 ≤ cls
  match targetOf s.member pa with
  | .scratch c =>
    let b := c * 0x1000
    let s := bump ((if ue then Rg.CORE_UE_COUNT else Rg.CORE_CE_COUNT) + b) s
    let s := wr (Rg.CORE_ERR_INFO + b) (w32 cls) (wr (Rg.CORE_ERR_OFFSET + b) (w32 (pa % 0x200000)) s)
    let s := setEvt (Pg.CORE + c) (if ue then 2 else 1) s
    if ue then raiseFault 6 (Pg.CORE + c) (pa % 0x200000) 0 s else s
  | _ =>
    let ch := chanOf s.member pa
    let b := ch * 0x1000
    let s := bump ((if ue then Rg.DRAMC_UE_COUNT else Rg.DRAMC_CE_COUNT) + b) s
    let s := wr (Rg.DRAMC_ERR_INFO + b) (w32 (cls + b2n scrub * 8)) (wr64 (Rg.DRAMC_ERR_ADDR_LO + b) pa s)
    let s := wr64 (Rg.DRAMC_ERR_STIME_LO + b) (stimeNow s) s
    let s := setEvt (Pg.DRAMC + ch) (if ue then 1 else 0) s
    if ue then raiseFault 6 (Pg.DRAMC + ch) (pa % 0x100000000) (pa / 0x100000000) s else s

/-- An error of an LLC slice reported (R253, R254); the place is 0 data, 1 tag, 2 directory. -/
def reportLlcErr (h pa cls place : Nat) (s : State) : State :=
  let b := h * 0x1000
  let ue := 3 ≤ cls
  let s := bump ((if ue then Rg.LLC_UE_COUNT else Rg.LLC_CE_COUNT) + b) s
  let s := wr (Rg.LLC_ERR_INFO + b) (w32 (cls + place * 16)) (wr64 (Rg.LLC_ERR_ADDR_LO + b) (pa / 64 * 64) s)
  let s := setEvt (Pg.LLC + h) (if ue then 1 else 0) s
  if ue then raiseFault 6 (Pg.LLC + h) (pa % 0x100000000) (pa / 0x100000000) s else s

/-- The 64-bit words that an access overlaps. -/
def wordsAt (pa len : Nat) : List Nat :=
  if len == 0 then [] else (List.range ((pa + len - 1) / 8 - pa / 8 + 1)).map fun i => (pa / 8 + i) * 8

/-- The lines that an access overlaps: first byte and length in each. -/
def linePieces (a len : Nat) : List (Nat × Nat) :=
  if len == 0 then []
  else (List.range ((a + len - 1) / 64 - a / 64 + 1)).map fun i =>
    let lo := max a ((a / 64 + i) * 64)
    (lo, min (a + len) ((a / 64 + i + 1) * 64) - lo)

/-- Errors of the words and lines read, reported; answers whether any is uncorrectable (R253, R254). -/
def readErrs (pa len : Nat) (s : State) : Bool × State :=
  if s.ms.marks.isEmpty && s.ms.poison.isEmpty then (false, s)
  else
    let x := (wordsAt pa len).foldl (fun (x : Bool × State) w =>
      let c := markOf x.2 w
      if c == 0 then x else (x.1 || 3 ≤ c, reportErr w c false x.2)) (false, s)
    (linePieces pa len).foldl (fun (x : Bool × State) p =>
      if poisoned x.2 p.1 then (true, reportErr (p.1 / 64 * 64) 4 false x.2) else x) x

/-- A write meets one word of what stood there: a whole word clears its error, a part merges (R555). -/
def writeWord (before : State) (pa len w : Nat) (s : State) : State :=
  let c := if poisoned before w then 4 else markOf before w
  if pa ≤ w && w + 8 ≤ pa + len then setMark w 0 s
  else if c == 0 then s
  else if c ≤ 2 then setMark w 0 (reportErr w c false s)
  else poisonWord w (reportErr w c false s)

/-- Errors met or cleared by a write: its words in order, and the markers of the lines that it fills (R254, R555). -/
def writeErrs (pa len : Nat) (s : State) : State :=
  if s.ms.marks.isEmpty && s.ms.poison.isEmpty then s
  else
    let t := (wordsAt pa len).foldl (fun t w => writeWord s pa len w t) s
    (linePieces pa len).foldl (fun t p => if p.2 == 64 then setPoison p.1 false t else t) t

/-! ## Accesses of one line or less at their home -/

/-- A half reaches a target without a Bridge that is down (R250). -/
def reaches (s : State) (half pa : Nat) : Bool := half == targetHalf s.member pa || bridgeUp s

/-- A read ordered at its home: the data, and how it ends: 0 well, 1 uncorrectable, 2 Bridge down. -/
def homeRead (half cls pa len : Nat) (s : State) : List Byte × Nat × State :=
  if !reaches s half pa then ([], 2, s)
  else
    let s := match targetOf s.member pa with
      | .dram => (linePieces pa len).foldl (fun s p => lineRead half cls p.1 s) s
      | _ => s
    let (bad, s) := readErrs pa len s
    (memRead s pa len, if bad then 1 else 0, s)

/-- An image whose memory is written while it validates, is armed or is in force (R270, UB-1202). -/
def inImage (s : State) (pa len : Nat) : Bool :=
  let hit := fun a n => a < pa + len && pa < a + n
  (match s.cantor.score with | some c => hit c.addr c.len | none => false)
    || (match s.cantor.armed with | some c => hit c.addr c.len | none => false)
    || (match s.cantor.validating with | some a => hit a (leAt (memRead s (a + 8) 4) 0 4) | none => false)

/-- Bytes written meet a command stream that is not to change (R297, UB-1301). -/
def noteStream (pa len : Nat) (s : State) : State :=
  let meets := fun (m : StreamMark) => m.ranges.any fun r => r.1 < pa + len && pa < r.1 + r.2
  { s with cantor := { s.cantor with streams := s.cantor.streams.map fun m => { m with hit := m.hit || meets m } } }

/-- The written bits of the scratch units that a write covers (R291). -/
def noteScratch (pa len : Nat) (s : State) : State :=
  match targetOf s.member pa with
  | .scratch c =>
    let lo := pa % 0x200000 / 32
    let n := (pa % 0x200000 + len + 31) / 32 - lo
    { s with ms := { s.ms with written := (List.range n).foldl (fun w i => kvPut false w (c * 65536 + lo + i) true) s.ms.written } }
  | _ => s

/-- A write ordered at its home. -/
def homeWrite (half cls pa : Nat) (l : List Byte) (s : State) : Nat × State :=
  if !reaches s half pa then (2, s)
  else
    let s := match targetOf s.member pa with
      | .dram => (linePieces pa l.length).foldl (fun s p => lineWrite half cls p.1 s) s
      | _ => s
    let s := writeErrs pa l.length s
    let s := if inImage s pa l.length then { s with cantor := { s.cantor with imageWritten := true } } else s
    (0, memWrite pa l (noteScratch pa l.length (noteStream pa l.length s)))

/-! ## Untranslated requesters of the West and Port dies (R214, R254) -/

/-- A device read by an untranslated requester: data with zeros and a poison flag on an error. -/
def devRead (cls pa len : Nat) (s : State) : List Byte × Bool × State :=
  if len == 0 || !(pa + len ≤ dramTop s.member) then (List.replicate len 0, true, s)
  else
    let (d, bad, s) := homeRead 0 cls pa len s
    if bad == 0 then (d, false, s) else (List.replicate len 0, true, s)

/-- A device write by an untranslated requester. -/
def devWrite (cls pa : Nat) (l : List Byte) (s : State) : State :=
  if l.isEmpty || !(pa + l.length ≤ dramTop s.member) then s else (homeWrite 0 cls pa l s).2

end Sys2Proof.Machine
end

