-- ==== Sys2Proof/Machine/Pools.lean ====
section
/-! DEFINITION. Buffer pools (R168 to R174): allocation ports, frees, geometry and the software port. -/
namespace Sys2Proof.Machine

/-- POOL_CFG in force of a pool. -/
def poolCfg (s : State) (p : Nat) : W32 := rd s (Rg.POOL_POOL_CFG + 4 * p)
def poolCount (s : State) (p : Nat) : Nat := fld (poolCfg s p) 31 20
def poolBufSize (s : State) (p : Nat) : Nat := 256 * 2 ^ fld (poolCfg s p) 19 16
def poolGen (s : State) (p : Nat) : Nat := rdF s (Rg.POOL_POOL_STAT + 4 * p) 15 12
/-- Free buffers of a pool, next to hand out first. -/
def poolFreeList (s : State) (p : Nat) : List Nat := kvGet [] s.pool.free p

/-- Device physical address of a buffer (R168). -/
def bufAddr (s : State) (p idx : Nat) : Nat :=
  rd64 s Rg.POOL_ARENA_LO + fld (poolCfg s p) 15 0 * 0x10000 + idx * poolBufSize s p

/-- The free list of a pool stored, with POOL_STAT.FREE. -/
def putFree (p : Nat) (l : List Nat) (s : State) : State :=
  wrF (Rg.POOL_POOL_STAT + 4 * p) 11 0 l.length { s with pool := { s.pool with free := kvPut [] s.pool.free p l } }

/-- One POOL_EMPTY answer (R169). -/
def poolEmpty (port p : Nat) (s : State) : State :=
  let a := Rg.POOL_POOL_STAT + 4 * p
  let s := wrF a 31 16 (min (rdF s a 31 16 + 1) 0xFFFF) s
  setEvt Pg.POOL 0 (wr Rg.POOL_LAST_EMPTY (w32 (p + port * 256)) s)

/-- An allocation request through a port: the handle, or POOL_EMPTY (R168, R169). -/
def allocBuf (port p : Nat) (s : State) : Option Nat × State :=
  match poolFreeList s p with
  | [] => (none, poolEmpty port p s)
  | i :: r => (some (i + poolGen s p * 0x1000), putFree p r s)

/-- A free of a handle (R170). -/
def freeBuf (p h : Nat) (s : State) : State :=
  let idx := h % 0x1000
  if h / 0x1000 % 16 != poolGen s p then setEvt Pg.POOL 2 (bump Rg.POOL_STALE_FREE s)
  else if poolCount s p ≤ idx || (poolFreeList s p).contains idx then setEvt Pg.POOL 1 (bump Rg.POOL_BAD_FREE s)
  else putFree p (idx :: poolFreeList s p) s

/-- Several frees of one pool, in order. -/
def freeBufs (p : Nat) (hs : List Nat) (s : State) : State := hs.foldl (fun s h => freeBuf p h s) s

/-- n requests of one port served consecutively; at the first POOL_EMPTY the rest are withdrawn and the taken buffers
are freed in reverse order of taking (R161). -/
def allocMany (port p : Nat) : Nat → List Nat → State → Option (List Nat) × State
  | 0, got, s => (some got, s)
  | n + 1, got, s =>
    match allocBuf port p s with
    | (some h, s) => allocMany port p n (got ++ [h]) s
    | (none, s) => (none, freeBufs p got.reverse s)

/-- A changed POOL_CFG value takes effect (R171). -/
def poolGeometry (p : Nat) (s : State) : State :=
  let a := Rg.POOL_POOL_STAT + 4 * p
  let s := wrF a 15 12 (poolGen s p + 1) s
  putFree p (List.range (poolCount s p)) s

/-- The allocation port of software by origin (R169). -/
def swPort (origin : Nat) : Nat := if origin == 0x41 then 24 else 25 + (origin - 0x44)

/-- A write of POOL.SW_REQ by an allowed origin (R174). -/
def swReq (origin p : Nat) (s : State) : State :=
  let (h, s) := allocBuf (swPort origin) p s
  let v := match h with
    | some h => w32 (h + 0x40000000)
    | none => w32 0x80000000
  { s with pool := { s.pool with swRes := kvPut 0 s.pool.swRes origin v } }

end Sys2Proof.Machine
end

