-- ==== Sys2Proof/Machine/Hymnal.lean ====
section
/-! DEFINITION. The Hymnal (R492 to R496): entries of a recording, its start, and what the inputs of the device need to
know of a replay. -/
namespace Sys2Proof.Machine

/-! ## Classes of inputs (R492) -/

abbrev hyStart : Nat := 0
abbrev hyHostWrite : Nat := 1
abbrev hyHostCpl : Nat := 2
abbrev hyHostEvent : Nat := 3
abbrev hyCamera : Nat := 4
abbrev hyEth : Nat := 5
abbrev hySlink : Nat := 6
abbrev hySide : Nat := 7
abbrev hyGpio : Nat := 8
abbrev hyAudio : Nat := 9
abbrev hyDebug : Nat := 10
abbrev hySensor : Nat := 11

/-- Cache class of the Hymnal's own accesses (log 33). -/
def clsHymnal : Nat := Config.cacheClass 1 % 8

def hymnOrder (s : State) : Nat := rdF s Rg.HYMNAL_RING_ORDER 4 0
def hymnRing (s : State) : Nat := rd64 s Rg.HYMNAL_RING_LO / 64 * 64
def hymnAddr (s : State) (k : Nat) : Nat := hymnRing s + 64 * (k % 2 ^ hymnOrder s)
def hymnSelected (s : State) (src : Nat) : Bool := src == 0 || rdB s Rg.HYMNAL_REC_MASK src
def recording (s : State) : Bool := rdB s Rg.HYMNAL_STAT 0 && !rdB s Rg.HYMNAL_CFG 0
def hymnFill (s : State) : Nat := sub32 (rdN s Rg.HYMNAL_WR_SEQ) (rdN s Rg.HYMNAL_RD_SEQ)

/-- Numbers in 8 bits of the kinds of a class. -/
def hymnKind (src kind : Nat) : Nat := Config.hymnCode src kind % 256

/-- Where a payload goes: FLAGS bits, handle, inline bytes (R493). Bytes that the manual does not lay out are left open. -/
def hymnPayload (l : List Byte) (s : State) : (Nat × Nat × List Byte) × State :=
  let (f, s) := freeVal s
  if l.length ≤ 32 then ((0, 0xFFFF, l ++ (toLE 32 f).drop l.length), s)
  else
    let p := rdF s Rg.HYMNAL_CFG 8 2
    match allocBuf 17 p s with
    | (none, s) => ((4, 0xFFFF, toLE 32 f), s)
    | (some h, s) =>
      let n := min l.length (poolBufSize s p)
      let s := devWrite clsHymnal (bufAddr s p (h % 0x1000)) (l.take n) s
      ((2 + b2n (n < l.length) * 8, h, toLE 32 f), s)

/-- One entry of the recording (R493, R494). -/
def hymnPut (src inst addr : Nat) (payload : List Byte) (poison : Bool) (s : State) : State :=
  if 2 ^ hymnOrder s ≤ hymnFill s then
    setEvt Pg.HYMNAL 1 (bump Rg.HYMNAL_LOST { s with hymn := { s.hymn with gap := true } })
  else
    let ((fl, h, inl), s) := hymnPayload payload s
    let fl := fl + b2n s.hymn.gap + b2n poison * 16
    let k := rdN s Rg.HYMNAL_WR_SEQ
    let (f, s) := freeVal s
    let len := if bit fl 2 then 0 else if bit fl 3 then min payload.length (poolBufSize s (rdF s Rg.HYMNAL_CFG 8 2)) else payload.length
    let e := toLE 8 (stimeNow s) ++ toLE 1 src ++ toLE 1 inst ++ toLE 2 fl ++ toLE 4 k ++ toLE 4 len ++ toLE 2 h
      ++ toLE 2 f ++ toLE 8 addr ++ inl
    let s := devWrite clsHymnal (hymnAddr s k) e s
    let s := bumpWrap Rg.HYMNAL_WR_SEQ { s with hymn := { s.hymn with gap := false } }
    let s := if bit fl 0 || bit fl 2 || bit fl 3 then wrB Rg.HYMNAL_STAT 2 true s else s
    if hymnFill s * 4 == 2 ^ hymnOrder s * 3 then setEvt Pg.HYMNAL 0 s else s

/-- An input recorded, if a recording runs that selects its class (R492, R494). -/
def hymnRec (src inst addr : Nat) (payload : List Byte) (s : State) : State :=
  if recording s && hymnSelected s src then hymnPut src inst addr payload false s else s

/-- A live input of a class that is being replayed is discarded and counted (R496); a replayed one passes. -/
def isolated (s : State) (src : Nat) : Bool := replaying s && hymnSelected s src && !s.hymn.injecting

/-- An input that is live unless a replay injects it: discarded under R496, else handled. -/
def liveInput (src : Nat) (f : State → State) (s : State) : State :=
  if isolated s src then bump Rg.HYMNAL_ISOLATED s else f s

/-- Replay stops: DONE, or diverged with ENABLE cleared (R495, R496). -/
def replayStop (diverged : Option Nat) (s : State) : State :=
  let s := wrB Rg.HYMNAL_STAT 0 false s
  match diverged with
  | none => setEvt Pg.HYMNAL 3 s
  | some seq =>
    let s := wr Rg.HYMNAL_DIV_SEQ (w32 seq) (wrB Rg.HYMNAL_STAT 3 true s)
    setEvt Pg.HYMNAL 2 (wrB (hdr Pg.HYMNAL Hdr.BLK_CTRL) 0 false s)

/-- An input that is live unless a replay injects it, recorded as an entry and then handled. -/
def inputOf (src inst addr : Nat) (payload : List Byte) (f : State → State) (s : State) : State :=
  liveInput src (fun s => f (hymnRec src inst addr payload s)) s

/-- A replay supplies the inputs of a class (R496). -/
def replayed (s : State) (src : Nat) : Bool := replaying s && hymnSelected s src

/-- The payload of a ring entry: inline, or in its pool buffer (R493). -/
def hymnData (e : List Byte) (s : State) : List Byte :=
  let n := leAt e 16 4
  if bit (leAt e 10 2) 1 then memRead s (bufAddr s (rdF s Rg.HYMNAL_CFG 8 2) (leAt e 20 2 % 0x1000)) (min n 0x100000)
  else (e.drop 32).take n

/-- The first completion at an address among the entries read ahead that no read has taken (R495, R496): HSEQ, data. -/
def replayFind (pa : Nat) (s : State) : Nat → Nat → Option (Nat × List Byte)
  | 0, _ => none
  | n + 1, k =>
    if k == rdN s Rg.HYMNAL_WR_SEQ then none
    else
      let e := memRead s (hymnAddr s k) 64
      if leAt e 8 1 == hyHostCpl && leAt e 24 8 == pa && !s.hymn.taken.contains (leAt e 12 4) then
        some (leAt e 12 4, hymnData e s)
      else replayFind pa s n ((k + 1) % 0x100000000)

/-- A device read of the host during a replay takes its completion from the recording; without one the replay
diverges, at an entry that is left open (R496). -/
def replayTake (pa len : Nat) (s : State) : Option (List Byte) × State :=
  match replayFind pa s 256 (rdN s Rg.HYMNAL_RD_SEQ) with
  | some (k, d) =>
    let s := { s with hymn := { s.hymn with taken := s.hymn.taken ++ [k] } }
    (if d.length == len then some d else none, s)
  | none =>
    let (f, s) := freeVal s
    (none, replayStop (some (f % 0x100000000)) s)

/-- An armed Hymnal starts at a stave boundary (R494, R495). A replay whose first entry is no START diverges (log 34). -/
def hymnStart (s : State) : State :=
  if !rdB s Rg.HYMNAL_STAT 1 then s
  else if !rdB s Rg.HYMNAL_CFG 0 then
    let s := wr Rg.HYMNAL_STAT (w32 1) (wr Rg.HYMNAL_RD_SEQ 0 (wr Rg.HYMNAL_WR_SEQ 0 s))
    let s := { s with hymn := { s.hymn with gap := false, taken := [] } }
    hymnPut hyStart 0 s.clk.snum (toLE 4 (rdN s Rg.CANTOR_SCORE_ID) ++ toLE 4 (rdN s Rg.TUNE_STAT)
      ++ toLE 4 (rdN s Rg.BOOT_STAT)) false s
  else
    let s := wr Rg.HYMNAL_STAT (w32 1) s
    let k := rdN s Rg.HYMNAL_RD_SEQ
    let (e, bad, s) := devRead clsHymnal (hymnAddr s k) 64 s
    if bad || hymnFill s == 0 || leAt e 8 1 != 0 then replayStop (some (leAt e 12 4)) s
    else
      let d : Int := (s.clk.snum : Int) - (leAt e 24 8 : Int)
      let s := { s with hymn := { s.hymn with delta := d, taken := [] } }
      let s := wr64 Rg.HYMNAL_DELTA_LO (unsigned 42 d) s
      let s := bumpWrap Rg.HYMNAL_RD_SEQ s
      if hymnFill s == 0 then replayStop none s else s

/-- ENABLE of the Hymnal's page written (R494, R495). -/
def hymnEnable (old new : Bool) (s : State) : State :=
  if new && !old then wrB Rg.HYMNAL_STAT 3 false (wrB Rg.HYMNAL_STAT 1 true s)
  else if !new && old then wrB Rg.HYMNAL_STAT 0 false (wrB Rg.HYMNAL_STAT 1 false s)
  else s

/-- A write of RD_SEQ that drains the recording is not refused (R494). -/
def hymnRdOk (s : State) (v : W32) : Bool := between32 v.toNat (rdN s Rg.HYMNAL_RD_SEQ) (rdN s Rg.HYMNAL_WR_SEQ)

end Sys2Proof.Machine
end

