-- ==== Sys2Proof/Machine/Xlat.lean ====
section
/-! DEFINITION. Device address translation (10_address_translation.md): the walk, rights, TLBs, invalidation, the fault
log, and translated accesses. -/
namespace Sys2Proof.Machine

/-- A fault of a translated access: kind (R230), level and entry (R561). -/
structure XFault where
  kind : Nat
  level : Nat
  entry : Nat
  deriving DecidableEq, Repr

/-- Where a translated access goes (R219). -/
structure XOut where
  pa : Nat
  host : Bool
  cls : Nat
  nr : Bool
  dying : Bool
  deriving DecidableEq, Repr

inductive XRes where
  | ok (o : XOut)
  | flt (f : XFault)
  deriving DecidableEq, Repr

/-- Access codes of the fault log (R232). -/
abbrev accRead : Nat := 0
abbrev accWrite : Nat := 1
abbrev accAtomic : Nat := 2
abbrev accNear : Nat := 3
abbrev accDesc : Nat := 4
abbrev accHeader : Nat := 5
abbrev accRecord : Nat := 6

/-- Page size of a leaf level (R216). -/
def pageSize (level : Nat) : Nat := 2 ^ (12 + 9 * level)

/-- The walk's status for a context's root (R216). -/
def rootEn (s : State) (ctx : Nat) : Bool := rdB s (Rg.MMU_ROOT_LO + 8 * ctx) 0
def rootBase (s : State) (ctx : Nat) : Nat := rd64 s (Rg.MMU_ROOT_LO + 8 * ctx) / 0x1000 * 0x1000

/-- Address bits [47:12] of an entry. -/
def pteAddr (e : Nat) : Nat := bits e 47 12 * 0x1000

/-- A non-leaf entry held by the half's walk cache (R224). -/
def walkHeld (s : State) (ctx half level va : Nat) : Option WalkEnt :=
  s.mmu.walks.find? fun w => w.ctx == ctx && w.half == half && w.level == level && w.va == va / pageSize level

/-- One entry read by a walker: held by the walk cache or read through the LLC with class 7 (R217, R224). -/
def readEntry (ctx half level base va : Nat) (s : State) : Option (Nat × Bool) × State :=
  let held := walkHeld s ctx half level va
  let (use, s) := match held with
    | some _ => freeBit s
    | none => (false, s)
  match held, use with
  | some w, true => (some (w.entry, w.dying), s)
  | _, _ =>
    let (d, bad, s) := homeRead half 7 (base + 8 * (va / pageSize level % 512)) 8 s
    let s := bump (Rg.MMU_WALKS + half * 0x1000) s
    if bad == 0 then (some (fromLE d, false), s) else (none, s)

/-- A non-leaf entry kept by the walk cache (R224). -/
def keepWalk (ctx half level va e : Nat) (dying : Bool) (s : State) : State :=
  let w : WalkEnt := ⟨ctx, half, level, va / pageSize level, e, dying⟩
  { s with mmu := { s.mmu with walks := w :: s.mmu.walks.filter fun x =>
      !(x.ctx == ctx && x.half == half && x.level == level && x.va == w.va) } }

/-- The walk from a level down (R216 to R218); lastEntry is the entry that gave the base. -/
def walkFrom (ctx half va : Nat) : Nat → Nat → Nat → Nat → Bool → State → (Except XFault (Nat × Nat × Bool)) × State
  | 0, _, _, _, _, s => (.error ⟨6, 0, 0⟩, s)
  | n + 1, base, fromLevel, fromEntry, dying, s =>
    if dramTop s.member < base + 0x1000 then (.error ⟨4, fromLevel, fromEntry % 0x100000000⟩, s)
    else
      match readEntry ctx half n base va s with
      | (none, s) => (.error ⟨10, n, 0⟩, s)
      | (some (e, d), s) =>
        if !bit e 0 then (.error ⟨1, n, e % 0x100000000⟩, s)
        else if n == 0 then (.ok (n, e, dying || d), s)
        else if bit e 4 then
          if n == 3 then (.error ⟨3, n, e % 0x100000000⟩, s) else (.ok (n, e, dying || d), s)
        else walkFrom ctx half va n (pteAddr e) n e (dying || d) (keepWalk ctx half n va e (dying || d) s)

/-- The leaf that the half's TLBs hold for an address (R220, R224). -/
def tlbHeld (s : State) (ctx half va : Nat) : Option TlbEnt :=
  s.mmu.tlb.find? fun t => t.ctx == ctx && t.half == half && t.va ≤ va && va < t.va + t.size

/-- A leaf kept by the TLBs; a CONTIG leaf may stand for its 64 KiB group (R220). -/
def keepLeaf (ctx half va level e : Nat) (dying : Bool) (s : State) : State :=
  let (grp, s) := if level == 0 && bit e 6 then freeBit s else (false, s)
  let size := if grp then 0x10000 else pageSize level
  let leafBase := pteAddr e / pageSize level * pageSize level
  let base := if grp then (leafBase + 2 ^ 48 - va / 0x1000 % 16 * 0x1000) % 2 ^ 48 else leafBase
  let t : TlbEnt := ⟨ctx, half, va / size * size, size, level, e, base, dying⟩
  { s with mmu := { s.mmu with tlb := t :: s.mmu.tlb.filter fun x =>
      !(x.ctx == ctx && x.half == half && x.va < t.va + t.size && t.va < x.va + x.size) } }

/-- The leaf for an address: from a TLB or by a walk (R216, R224). -/
def findLeaf (ctx half va : Nat) (s : State) : (Except XFault TlbEnt) × State :=
  let held := tlbHeld s ctx half va
  let (use, s) := match held with
    | some _ => freeBit s
    | none => (false, s)
  match held, use with
  | some t, true => (.ok t, s)
  | _, _ =>
    let s := bump (Rg.MMU_TLB_MISS + half * 0x1000) s
    if !rootEn s ctx then (.error ⟨1, 4, 0⟩, s)
    else
      match walkFrom ctx half va 4 (rootBase s ctx) 4 (rdN s (Rg.MMU_ROOT_LO + 8 * ctx)) false s with
      | (.error f, s) => (.error f, s)
      | (.ok (level, e, dying), s) =>
        let s := keepLeaf ctx half va level e dying s
        let size := pageSize level
        (.ok (s.mmu.tlb.headD ⟨ctx, half, va / size * size, size, level, e, pteAddr e / size * size, dying⟩), s)

/-- The check of rights, in order (R223). -/
def rightsFault (acc e : Nat) (host : Bool) (regs : Bool) : Option Nat :=
  let r := bit e 1
  let w := bit e 2
  let a := bit e 3
  if (acc == accWrite || acc == accRecord) && !w then some 7
  else if acc == accAtomic && !(r && w && a) then some 7
  else if !(acc == accWrite || acc == accRecord || acc == accAtomic) && !r then some 7
  else if (acc == accWrite || acc == accRecord || acc == accAtomic) && bit e 5 then some 8
  else if acc == accAtomic && (host || regs) then some 9
  else none

/-- Translation of one address for an access kind (R216 to R223). -/
def translate (ctx half acc va : Nat) (s : State) : XRes × State :=
  if 0x1000000000000 ≤ va then (.flt ⟨2, 4, 0⟩, s)
  else
    match findLeaf ctx half va s with
    | (.error f, s) => (.flt f, s)
    | (.ok t, s) =>
      let e := t.entry
      let pa := (t.base + (va - t.va)) % 2 ^ 48
      let host := bit e 10
      let tgt := targetOf s.member pa
      let low := e % 0x100000000
      if !host && tgt == .absent then (.flt ⟨5, t.level, low⟩, s)
      else if !host && tgt == .nothing then (.flt ⟨6, t.level, low⟩, s)
      else
        match rightsFault acc e host (!host && tgt == .regs) with
        | some k => (.flt ⟨k, t.level, low⟩, s)
        | none => (.ok ⟨pa, host, bits e 9 7, bit e 5 && !host, t.dying⟩, s)

/-- The completion status of a fault kind (R230). -/
def xStatus (kind : Nat) : Nat := if kind ≤ 6 then 0x0301 else if kind ≤ 9 then 0x0302 else 0x0406

/-- One fault logged on the MMU page of a half (R232). -/
def xLog (w : Who) (acc va : Nat) (f : XFault) (s : State) : State :=
  let b := w.half * 0x1000
  let e := toLE 8 va ++ toLE 8 (stimeNow s) ++ toLE 4 (w.ctx + (f.kind + acc * 16) * 0x100 + f.level * 0x10000 + w.req * 0x1000000)
    ++ toLE 4 (if w.inv then w.ring else 0x3FFF) ++ toLE 4 (if w.inv then w.subSeq else 0) ++ toLE 4 f.entry
  setEvt (Pg.MMU + w.half) 0 (logPut (Rg.MMU_FLOG_HEAD + b) (Rg.MMU_FLOG + b) e s)

/-! ## Translated accesses of any length, line by line -/

/-- Configuration space of a function. -/
def fnCfg (s : State) (f : Nat) : FnCfg := kvGet FnCfg.reset s.host.fns f

/-- A function may issue requests (R183). -/
def mayIssue (s : State) (f : Nat) : Bool := (fnCfg s f).bme && !(fnCfg s f).d3

/-- An invocation's access to a host page has to wait: its function may not issue requests (R136, R183). -/
def hostHeld (s : State) (w : Who) : Bool := w.inv && !mayIssue s w.ctx

/-- How a translated access ended, when not well: the status of its job, and whether it is a resource fault (R460). -/
structure XErr where
  status : Nat
  resource : Bool
  kind : Nat
  deriving DecidableEq, Repr

/-- The mark of an access that could not leave (R136): no fault kind. -/
abbrev kindHeld : Nat := 32

/-- The end of an access that could not leave, for a requester that does not wait. -/
def heldErr : XErr := ⟨0x0406, false, kindHeld⟩

/-- The access could not leave (R136). -/
def XErr.held (e : XErr) : Bool := e.kind == kindHeld

/-- A register read as an access through a register-space mapping makes it (R222): origin, offset, state. -/
abbrev RegRead := Nat → Nat → State → W32 × State

/-- The NRC line of a core (R247). -/
def nrcKey (core l : Nat) : Nat := core * 0x40000000000 + l

/-- A near read of one piece: from the NRC, or from the LLC with the line installed (R247, R248). -/
def nearRead (core cls pa len : Nat) (s : State) : List Byte × Nat × State :=
  let b := core * 0x1000
  let k := nrcKey core (pa / 64)
  let s := bump (Rg.CORE_NRC_LOOKUP + b) s
  let held := kvFind s.ms.nrc k
  let (use, s) := match held with
    | some _ => freeBit s
    | none => (false, s)
  match held, use with
  | some d, true => ((d.drop (pa % 64)).take len, 0, bump (Rg.CORE_NRC_HIT + b) s)
  | _, _ =>
    let (d, bad, s) := homeRead (halfOf core) cls (pa / 64 * 64) 64 s
    if bad != 0 then ([], bad, s)
    else ((d.drop (pa % 64)).take len, 0, { s with ms := { s.ms with nrc := kvInsert s.ms.nrc k d } })

/-- Bytes taken from the host's answer to the reads of the command in hand (R126). -/
def hostTake (len : Nat) (s : State) : Option (List Byte) × State :=
  if s.host.answerFail || s.host.answer.length < len then (none, s)
  else (some (s.host.answer.take len), { s with host := { s.host with answer := s.host.answer.drop len } })

/-- The completion of a device read of the host: live and recorded, or a replay's (R492, R495). -/
def hostAnswer (fn pa len : Nat) (s : State) : Option (List Byte) × State :=
  if replayed s hyHostCpl then replayTake pa len s
  else
    match hostTake len s with
    | (some d, s) => (some d, hymnRec hyHostCpl fn pa d s)
    | (none, s) => (none, hymnRec hyHostCpl fn pa (toLE 1 1) s)

/-- The registers that a piece of a register-space mapping covers, read in ascending order (R222). -/
def regBytes (rr : RegRead) (origin pa len : Nat) (s : State) : List Byte × State :=
  let off := pa - 0x3000000000
  let n := if len == 0 then 0 else (off + len - 1) / 4 - off / 4 + 1
  let (d, s) := (List.range n).foldl (fun (x : List Byte × State) i =>
    let (v, s) := rr origin ((off / 4 + i) * 4) x.2
    (x.1 ++ toLE 4 v.toNat, s)) ([], s)
  ((d.drop (off % 4)).take len, s)

/-- The origin of a context (R214). -/
def ctxOrigin (ctx : Nat) : Nat := if ctx == 0 then 0x41 else ctx

/-- One line piece read. -/
def xReadPiece (rr : RegRead) (w : Who) (acc va len : Nat) (s : State) : Except XErr (List Byte) × State :=
  match translate w.ctx w.half acc va s with
  | (.flt f, s) => (.error ⟨xStatus f.kind, f.kind == 10, f.kind⟩, xLog w acc va f s)
  | (.ok o, s) =>
    if o.host && hostHeld s w then (.error heldErr, s)
    else if o.host then
      let (sent, s) := emitTlp (.hostRead w.ctx o.pa len) s
      match sent, hostAnswer w.ctx o.pa len s with
      | true, (some d, s) => (.ok d, s)
      | _, (_, s) => (.error ⟨0x0406, false, 0⟩, emit (.aer 1) (bump Rg.HOST_CPL_ERR (setEvt Pg.HOST 6 s)))
    else if targetOf s.member o.pa == .regs then
      let (d, s) := regBytes rr (ctxOrigin w.ctx) o.pa len s
      (.ok d, s)
    else
      let (d, bad, s) :=
        if acc == accNear && o.nr && w.req < 32 then nearRead w.req o.cls o.pa len s else homeRead w.half o.cls o.pa len s
      if bad == 0 then (.ok d, s) else (.error ⟨0x0406, true, 0⟩, s)

/-- A translated read of any length; the first failing piece decides. -/
def xRead (rr : RegRead) (w : Who) (acc va len : Nat) (s : State) : Except XErr (List Byte) × State :=
  (linePieces va len).foldl (fun (x : Except XErr (List Byte) × State) p =>
    match x with
    | (.error e, s) => (.error e, s)
    | (.ok d, s) =>
      match xReadPiece rr w acc p.1 p.2 s with
      | (.ok d2, s) => (.ok (d ++ d2), s)
      | (.error e, s) => (.error e, s)) (.ok [], s)

/-- The 32-bit words that a store covers, at an offset: where, the word, and the bytes stored to (R58, R222). -/
def storeWords (off : Nat) (l : List Byte) : List (Nat × W32 × Nat) :=
  let n := (off + l.length + 3) / 4 - off / 4
  let full := List.replicate (off % 4) (0 : Byte) ++ l
  (List.range (if l.isEmpty then 0 else n)).map fun i =>
    let en := (List.range 4).foldl (fun m j =>
      if off % 4 ≤ 4 * i + j && 4 * i + j < off % 4 + l.length then m + 2 ^ j else m) 0
    (off / 4 * 4 + 4 * i, w32 (leAt full (4 * i) 4), en)

/-- Register writes of a piece of a register-space mapping, sent to their pages in ascending order (R222); each carries
the job that makes it (R485). -/
def regSend (w : Who) (pa : Nat) (l : List Byte) (s : State) : State :=
  let off := pa - 0x3000000000
  let job := (kvFind s.cantor.jobs w.job).map fun j => (w.job, j.startLin)
  let origin := ctxOrigin w.ctx
  let ws := (storeWords off l).map fun x => (⟨origin, 0, x.1, x.2.1, job, x.2.2⟩ : RegWr)
  { s with regq := s.regq ++ ws }

/-- One line piece written. -/
def xWritePiece (w : Who) (acc va : Nat) (l : List Byte) (s : State) : Option XErr × State :=
  match translate w.ctx w.half acc va s with
  | (.flt f, s) => (some ⟨xStatus f.kind, f.kind == 10, f.kind⟩, xLog w acc va f s)
  | (.ok o, s) =>
    if o.host && acc != accRecord && hostHeld s w then (some heldErr, s)
    else if o.host then (none, (emitTlp (.hostWrite w.ctx o.pa l) s).2)
    else if targetOf s.member o.pa == .regs then (none, regSend w o.pa l s)
    else
      let (bad, s) := homeWrite w.half o.cls o.pa l s
      if bad == 0 then (none, s) else (some ⟨0x0406, true, 0⟩, s)

/-- A translated write of any length; pieces before a failing one stay written. -/
def xWrite (w : Who) (acc va : Nat) (l : List Byte) (s : State) : Option XErr × State :=
  (linePieces va l.length).foldl (fun (x : Option XErr × State) p =>
    match x with
    | (some e, s) => (some e, s)
    | (none, s) => xWritePiece w acc p.1 ((l.drop (p.1 - va)).take p.2) s) (none, s)

/-- One 4-byte atomic access at the home slice (R242): the new value from the old. -/
def xAtomic (w : Who) (f : Nat → Nat) (va : Nat) (s : State) : Option XErr × State :=
  match translate w.ctx w.half accAtomic va s with
  | (.flt g, s) => (some ⟨xStatus g.kind, g.kind == 10, g.kind⟩, xLog w accAtomic va g s)
  | (.ok o, s) =>
    if !reaches s w.half o.pa then (some ⟨0x0406, true, 0⟩, s)
    else
      let (bad, s) := readErrs o.pa 4 s
      if bad then (some ⟨0x0406, true, 0⟩, s)
      else
        let v := f (fromLE (memRead s o.pa 4))
        let (r, s) := homeWrite w.half o.cls o.pa (toLE 4 v) s
        if r == 0 then (none, s) else (some ⟨0x0406, true, 0⟩, s)

/-! ## Invalidation (R225 to R229, R560) -/

/-- Entries of a scope marked for removal, walks of one context or all, and the accesses that such an entry translated
(R227, R228). -/
def markDying (scope ctx va n : Nat) (s : State) : State :=
  let leaf := fun (t : TlbEnt) => scope == 2 || (t.ctx == ctx &&
    (scope == 1 || (t.va < va + n * 0x1000 && va < t.va + t.size)))
  let walk := fun (x : WalkEnt) => scope == 2 || x.ctx == ctx
  let gone := s.mmu.tlb.filter leaf
  let used := fun (a : Access) => match a.who with
    | some w => leaf ⟨w.ctx, w.half, a.va / 0x1000 * 0x1000, 0x1000, 0, 0, 0, false⟩
        || gone.any (fun t => t.ctx == w.ctx && t.half == w.half && t.va ≤ a.va && a.va < t.va + t.size)
    | none => false
  let mark := fun (a : Access) => if used a then { a with dying := true } else a
  { s with
    mmu := { s.mmu with tlb := s.mmu.tlb.map (fun t => if leaf t then { t with dying := true } else t)
                        walks := s.mmu.walks.map (fun x => if walk x then { x with dying := true } else x) }
    ms := { s.ms with accesses := s.ms.accesses.map mark, stalled := s.ms.stalled.map mark } }

/-- An invalidation abandoned: no access is waited for (R560). -/
def dropDying (s : State) : State :=
  let live := fun (a : Access) => { a with dying := false }
  { s with ms := { s.ms with accesses := s.ms.accesses.map live, stalled := s.ms.stalled.map live } }

/-- Every entry of a context, or of all, removed at once (R137 step 5, R229, R560). -/
def dropEntries (ctx : Option Nat) (s : State) : State :=
  match ctx with
  | none => { s with mmu := ⟨[], []⟩ }
  | some c => { s with mmu := ⟨s.mmu.tlb.filter (·.ctx != c), s.mmu.walks.filter (·.ctx != c)⟩ }

/-- The invalidation completes (R228). -/
def invComplete (s : State) : State :=
  let s := { s with mmu := ⟨s.mmu.tlb.filter (!·.dying), s.mmu.walks.filter (!·.dying)⟩ }
  setEvt Pg.MMU 1 (wr Rg.MMU_INV_STAT 0 (wr Rg.MMU_INV_DONE (rd s Rg.MMU_INV_ISSUED) s))

end Sys2Proof.Machine
end

