-- ==== Sys2Proof/Machine/HostOps.lean ====
section
/-! DEFINITION. PCIe functions, MSI-X and power states (R134 to R136, R181 to R184), completion records (R154, R157,
R158) and moderation (R177 to R180). -/
namespace Sys2Proof.Machine

def putFn (f : Nat) (c : FnCfg) (s : State) : State := { s with host := { s.host with fns := kvPut FnCfg.reset s.host.fns f c } }

/-- MSI-X table size of a function (R129, R130). -/
def msixSize (f : Nat) : Nat := if f == 0 then 256 else 64

/-- HOST.LINK_STAT.LSTATE and DL_UP. -/
def linkState (s : State) : Nat := rdF s Rg.HOST_LINK_STAT 13 11
def dlUp (s : State) : Bool := rdB s Rg.HOST_LINK_STAT 10
/-- The link is in L1, L1.1 or L1.2 (R182). -/
def linkInL1 (s : State) : Bool := 2 ≤ linkState s && linkState s ≤ 4

/-- A message sent on a vector: masked it sets the PBA bit, without MSI-X Enable it is dropped, in L1.x it waits
(R181, R182). -/
def sendVector (f vec : Nat) (s : State) : State :=
  let c := fnCfg s f
  if !c.msixEn || msixSize f ≤ vec then s
  else if c.funcMask || !c.unmasked.contains vec then
    putFn f { c with pba := if c.pba.contains vec then c.pba else vec :: c.pba } s
  else if linkInL1 s then { s with host := { s.host with waitL0 := s.host.waitL0 ++ [.msix f vec] } }
  else (emitTlp (.msix f vec) s).2

/-- A fire of a function that may not issue requests: the PBA bit, and at most one PME (R183). -/
def heldFire (f vec : Nat) (s : State) : State :=
  let c := fnCfg s f
  let c := if c.msixEn && vec < msixSize f && !c.pba.contains vec then { c with pba := vec :: c.pba } else c
  if c.d3 && c.pmeEn then
    let s := putFn f { c with pmeStatus := true, pmeSent := true } s
    if c.pmeSent then s else (emitTlp (.pme f) s).2
  else putFn f c s

/-! ## Ring registers -/

def ringReg (base r : Nat) : Nat := base + 64 * r
def sqTail (s : State) (r : Nat) : Nat := rdN s (ringReg Rg.RINGSTATE_SQ_TAIL r)
def sqHead (s : State) (r : Nat) : Nat := rdN s (ringReg Rg.RINGSTATE_SQ_HEAD r)
def cqTail (s : State) (r : Nat) : Nat := rdN s (ringReg Rg.RINGSTATE_CQ_TAIL r)
def cqHead (s : State) (r : Nat) : Nat := rdN s (ringReg Rg.RINGSTATE_CQ_HEAD r)
def sqOrder (s : State) (r : Nat) : Nat := rdF s (ringReg Rg.RINGSTATE_SIZE r) 4 0
def cqOrder (s : State) (r : Nat) : Nat := rdF s (ringReg Rg.RINGSTATE_SIZE r) 12 8
def ringEpoch (s : State) (r : Nat) : Nat := rdF s (ringReg Rg.RINGSTATE_STATE r) 15 0
def ringState (s : State) (r : Nat) : Nat := rdF s (ringReg Rg.RINGSTATE_STATE r) 17 16
def stopCause (s : State) (r : Nat) : Nat := rdF s (ringReg Rg.RINGSTATE_STATE r) 23 20
def inflight (s : State) (r : Nat) : Nat := rdF s (ringReg Rg.RINGSTATE_COUNTS r) 12 0
def queuedN (s : State) (r : Nat) : Nat := rdF s (ringReg Rg.RINGSTATE_COUNTS r) 19 16
def ringVector (s : State) (r : Nat) : Nat := rdF s (ringReg Rg.RINGSTATE_CTRL r) 16 8
def setRingState (r v : Nat) (s : State) : State := wrF (ringReg Rg.RINGSTATE_STATE r) 17 16 v s
def setStopCause (r v : Nat) (s : State) : State := wrF (ringReg Rg.RINGSTATE_STATE r) 23 20 v s
def setInflight (r v : Nat) (s : State) : State := wrF (ringReg Rg.RINGSTATE_COUNTS r) 12 0 v s

/-- Ring states (R150). -/
abbrev ringDisabled : Nat := 0
abbrev ringActive : Nat := 1
abbrev ringStopped : Nat := 2
abbrev ringResetting : Nat := 3

/-- Fetched and unstarted invocations of a ring, oldest first. -/
def queueOf (s : State) (r : Nat) : List Invoc := kvGet [] s.adm.queued r
def putQueue (r : Nat) (l : List Invoc) (s : State) : State :=
  wrF (ringReg Rg.RINGSTATE_COUNTS r) 19 16 l.length { s with adm := { s.adm with queued := kvPut [] s.adm.queued r l } }

/-! ## Moderation (R178 to R180) -/

def modOf (s : State) (r : Nat) : ModSt := kvGet ModSt.reset s.adm.mods r
def putMod (r : Nat) (m : ModSt) (s : State) : State := { s with adm := { s.adm with mods := kvPut ModSt.reset s.adm.mods r m } }
def modCount (s : State) (r : Nat) : Nat := rdF s (ringReg Rg.RINGSTATE_MOD r) 7 0
def modLines (s : State) (r : Nat) : Nat := rdF s (ringReg Rg.RINGSTATE_MOD r) 14 8

/-- A fire: one message, p to 0, the window closed, and the source of a ring below 1,024 raised (R177, R178, R181 to
R183, R195). -/
def fire (r : Nat) (s : State) : State :=
  let f := ringOwner s r
  let s := putMod r ModSt.reset s
  let s := if r < 1024 then raiseSrc (0x400 + r) s else s
  if mayIssue s f then sendVector f (ringVector s r) s else heldFire f (ringVector s r) s

/-- A ring fires at the end of the command in hand, once, if p > 0 then (R178, R180). -/
def fireLater (r : Nat) (s : State) : State :=
  if s.adm.fires.contains r then s else { s with adm := { s.adm with fires := s.adm.fires ++ [r] } }

/-- The ring holds no work that could add to its window (R180). -/
def drained (s : State) (r : Nat) : Bool := inflight s r == 0 && queuedN s r == 0 && sqHead s r == sqTail s r

/-- The fire of a drained ring falls due. -/
def drainCheck (r : Nat) (s : State) : State := if drained s r then fireLater r s else s

/-- A record counts in its ring's window (R178). -/
def modCountRecord (r : Nat) (s : State) : State :=
  let m := modOf s r
  let m := if m.p == 0 then ⟨0, linLine s + modLines s r, true⟩ else m
  let s := putMod r { m with p := m.p + 1 } s
  if modCount s r ≤ m.p + 1 || modLines s r == 0 then fireLater r s else s

/-- The ring stops (R153, R154): LAST_STOP, RING_STOPPED, and the early fire of R180. -/
def ringStop (r cause : Nat) (s : State) : State :=
  let s := setStopCause r cause (setRingState r ringStopped s)
  let s := setEvt Pg.ADMIT 2 (wr Rg.ADMIT_LAST_STOP (w32 (r + cause * 0x10000)) s)
  fireLater r s

/-! ## Records (R157, R158) -/

def recBytes (c : Rec) (cpl phase : Nat) : List Byte :=
  toLE 4 cpl ++ toLE 2 c.epoch ++ toLE 2 c.status ++ toLE 4 c.subSeq ++ toLE 2 c.deferLines
    ++ toLE 2 (c.kind + (c.flags + phase * 128) * 0x100) ++ toLE 8 c.stime ++ toLE 2 c.startLine
    ++ toLE 2 (c.core + c.ncores * 0x100) ++ toLE 4 c.detail

/-- What ends with a final record of a started invocation: its place in INFLIGHT and its job-table entry (R183). -/
def recSettle (c : Rec) (s : State) : State :=
  let s := match c.job with
    | some k => { s with cantor := { s.cantor with jobs := kvErase s.cantor.jobs k } }
    | none => s
  if c.kind == 0 && c.startLine != 0xFFFF then setInflight c.ring (inflight s c.ring - 1) s else s

/-- A record written at CQ_TAIL, or its record-write fault (R154, R158, R175, R176). -/
def recWrite (c : Rec) (s : State) : State :=
  let r := c.ring
  if stopCause s r == 4 then recSettle c s
  else
    let cpl := cqTail s r
    let order := cqOrder s r
    let va := rd64 s (ringReg Rg.RINGSTATE_CQ_BASE_LO r) + 32 * (cpl % 2 ^ order)
    let w : Who := ⟨c.owner, 0x48, 0, r, c.subSeq, 0, true⟩
    match xWrite w accRecord va (recBytes c cpl (b2n (!bit cpl order))) s with
    | (none, s) => recSettle c (wr (ringReg Rg.RINGSTATE_CQ_TAIL r) (w32 (cpl + 1)) s)
    | (some _, s) =>
      let s := if ringState s r == ringActive || ringState s r == ringStopped then ringStop r 4 s else setStopCause r 4 s
      recSettle c s

/-- A record produced: written, or held for its function or the link (R182, R183); it counts in the window either way. -/
def recProduce (c : Rec) (s : State) : State :=
  let lost := stopCause s c.ring == 4
  let s := if mayIssue s c.owner && !linkInL1 s || lost then recWrite c s
    else { s with adm := { s.adm with held := s.adm.held ++ [c] } }
  let s := if lost || stopCause s c.ring == 4 then s else modCountRecord c.ring s
  drainCheck c.ring s

/-- A record produced by the command in hand (R158: written at its end in ascending SUB_SEQ). -/
def recMake (c : Rec) (s : State) : State :=
  let s := if 0x0102 ≤ c.status && c.status ≤ 0x0105 then setEvt Pg.ADMIT 0 s else s
  { s with adm := { s.adm with made := s.adm.made ++ [c] } }

/-- Insertion by (ring, SUB_SEQ), stable. -/
def recInsert (c : Rec) : List Rec → List Rec
  | [] => [c]
  | d :: r => if c.ring < d.ring || (c.ring == d.ring && c.subSeq < d.subSeq) then c :: d :: r else d :: recInsert c r

/-- The records of the command in hand written, and the fires that fall due on its edge made (R158, R178). -/
def settle (s : State) : State :=
  let l := s.adm.made.foldl (fun acc c => recInsert c acc) []
  let s := l.foldl (fun s c => recProduce c s) { s with adm := { s.adm with made := [] } }
  s.adm.fires.foldl (fun s r => if (modOf s r).p == 0 then s else fire r s) { s with adm := { s.adm with fires := [] } }

/-- Held records that may now be written, in production order (R182, R184). -/
def releaseHeld (s : State) : State :=
  let ok := fun (c : Rec) => mayIssue s c.owner && !linkInL1 s
  let out := s.adm.held.filter ok
  let s := { s with adm := { s.adm with held := s.adm.held.filter (fun c => !ok c) } }
  out.foldl (fun s c => drainCheck c.ring (recWrite c s)) s

/-- The pending vectors of a function that are not masked are sent (R184). -/
def sendPending (f : Nat) (s : State) : State :=
  let c := fnCfg s f
  if c.funcMask || !c.msixEn then s
  else
    let go := c.pba.filter (c.unmasked.contains ·)
    let s := putFn f { c with pba := c.pba.filter (fun v => !c.unmasked.contains v) } s
    go.foldl (fun s v => sendVector f v s) s

/-- The function's power state shown: TEN_STAT.D3HOT and HOST.LINK_STAT.PF0_D, with the D3 events. -/
def showD3 (f : Nat) (d3 : Bool) (s : State) : State :=
  let s := wrB (Rg.SRIOV_TEN_STAT + 4 * f) 2 d3 s
  if f == 0 then setEvt Pg.HOST 5 (wrF Rg.HOST_LINK_STAT 15 14 (if d3 then 3 else 0) s) else setEvt Pg.SRIOV 3 s

end Sys2Proof.Machine
end

