-- ==== Sys2Proof/Machine/Score.lean ====
section
/-! DEFINITION. CRCs, the score image and its checks (R260 to R267, R449, R450), and plan fragments (R271, R272). -/
namespace Sys2Proof.Machine

/-! ## CRCs -/

/-- n shifts of a reflected CRC with a polynomial. -/
def crcShift (poly : Nat) : Nat → Nat → Nat
  | 0, c => c
  | n + 1, c => crcShift poly n (if c % 2 == 1 then Nat.xor (c / 2) poly else c / 2)

/-- A reflected CRC carried over more bytes. -/
def crcMore (poly c : Nat) (l : List Byte) : Nat := l.foldl (fun c b => crcShift poly 8 (Nat.xor c b.toNat)) c

/-- A reflected 32-bit CRC with initial value and final inversion all ones. -/
def crcRefl (poly : Nat) (l : List Byte) : Nat := Nat.xor (crcMore poly 0xFFFFFFFF l) 0xFFFFFFFF

/-- CRC-32C (R260, R311). -/
def crc32c (l : List Byte) : Nat := crcRefl 0x82F63B78 l

/-- The CRC-32 of R117 (IEEE 802.3). -/
def crc32 (l : List Byte) : Nat := crcRefl 0xEDB88320 l

/-! ## Task entries (R262) -/

/-- A field of an entry: n bytes from offset o. -/
def fb (l : List Byte) (o n : Nat) : Nat := leAt l o n

def parseTask (idx : Nat) (l : List Byte) : TaskEnt :=
  { idx := idx, job := fb l 0 2, core := fb l 2 1, level := fb l 3 1 % 16, grace := fb l 3 1 / 16, line := fb l 4 2,
    beat := fb l 6 1, ntok := fb l 7 1, slot := fb l 8 2, tnbuf := fb l 10 1, tpool := fb l 11 1, beats := fb l 12 4,
    cmdVa := fb l 16 8, cmdCount := fb l 24 4 }

/-- Range checks of a task entry that hold for scores and fragments alike (R262). -/
def taskFieldsOk (l : List Byte) (t : TaskEnt) : Bool :=
  t.job < 4096 && t.line < 1250 && t.beat < 64 && t.ntok ≤ 16 && t.slot < 4096 && t.tnbuf < 16 && t.tpool < 128
    && 1 ≤ t.beats && t.beats ≤ 80000 && 1 ≤ t.cmdCount && fb l 28 4 == 0

/-- Entries in ascending (LINE, BEAT). -/
def tasksAscend : List TaskEnt → Bool
  | [] => true
  | [_] => true
  | a :: b :: r => decide (a.line * 64 + a.beat ≤ b.line * 64 + b.beat) && tasksAscend (b :: r)

/-- Two tasks occupy one core in a common beat. -/
def tasksClash (a b : TaskEnt) : Bool :=
  let x := a.line * 64 + a.beat
  let y := b.line * 64 + b.beat
  a.core == b.core && x < y + b.beats && y < x + a.beats

/-- Slices of equal size from a list of bytes. -/
def entriesOf (l : List Byte) (size n : Nat) : List (List Byte) := (List.range n).map fun i => (l.drop (i * size)).take size

/-! ## Plan fragments (R271, R272) -/

/-- A fragment header and task list, or none when they break R271, R262 or confinement (R272). -/
def parseFrag (h tl : List Byte) : Option Frag :=
  let cores := fb h 5 1
  let beats := fb h 8 4
  let ntask := fb h 12 2
  let nslot := fb h 14 2
  let units := fb h 16 4
  let span := ceilDiv beats 64
  let es := entriesOf tl 32 ntask
  let ts := (es.zip (List.range ntask)).map fun e => parseTask e.2 e.1
  let headOk := fb h 0 4 == 0x5246535A && fb h 4 1 == 1 && 1 ≤ cores && cores ≤ 16 && fb h 6 1 < 16 && fb h 7 1 < 128
    && 1 ≤ beats && beats ≤ 80000 && 1 ≤ ntask && ntask ≤ 1024 && nslot < 4096 && units < 4 && fb h 20 4 == 0
    && leAt h 32 32 == 0 && tl.length == 32 * ntask
  let each := (es.zip ts).all fun e =>
    let t := e.2
    taskFieldsOk e.1 t && t.job == 0 && t.core < cores && t.line < span && t.line * 64 + t.beat + t.beats ≤ span * 64
      && (t.ntok == 0 || t.slot + t.ntok ≤ nslot)
  let apart := ts.all fun a => ts.all fun b => a.idx == b.idx || !tasksClash a b
  if headOk && each && apart && tasksAscend ts then some ⟨cores, fb h 6 1, fb h 7 1, beats, nslot, units, ts⟩ else none

/-- Address and length of the task list that a header names. -/
def fragTaskVa (h : List Byte) : Nat := fb h 24 8
def fragTaskLen (h : List Byte) : Nat := 32 * min (fb h 12 2) 1024

/-! ## The score image (R260) -/

/-- A directory entry with its index and the bytes of its section's entries. -/
structure Dir where
  idx : Nat
  type : Nat
  half : Nat
  alt : Nat
  rsv : Nat
  count : Nat
  off : Nat
  ents : List (List Byte)
  deriving DecidableEq, Repr

/-- Entry size of a section type. -/
def entSize (t : Nat) : Nat :=
  if t == 1 then 16 else if t == 2 then 32 else if t == 3 then 168 else if t == 4 then 24 else if t == 5 then 16
  else if t == 6 then 8 else if t == 7 then 32 else 8

def perHalf (t : Nat) : Bool := t == 1 || t == 2 || t == 5 || t == 6 || t == 7
def perAlt (t : Nat) : Bool := t == 2 || t == 3 || t == 5 || t == 7

def parseDirs (b : List Byte) : List Dir :=
  (List.range (fb b 12 2)).map fun i =>
    let e := (b.drop (64 + 16 * i)).take 16
    let t := fb e 0 1
    let n := fb e 4 4
    let o := fb e 8 8
    ⟨i, t, fb e 1 1 % 2, fb e 1 1 / 16, fb e 1 1 / 2 % 8 + fb e 2 2, n, o,
      if o + n * entSize t ≤ b.length then entriesOf (b.drop o) (entSize t) n else []⟩

/-- A refused image: code, directory index, entry index (R267), where the fault lies in one. -/
structure LoadErr where
  code : Nat
  dir : Option Nat
  entry : Option Nat
  deriving DecidableEq, Repr

/-- The first entry of any directory of a type that a test refuses. -/
def firstBad (code type : Nat) (ds : List Dir) (bad : Dir → List Byte → Nat → Bool) : Option LoadErr :=
  (ds.filter (·.type == type)).findSome? fun d =>
    (d.ents.zip (List.range d.count)).findSome? fun e => if bad d e.1 e.2 then some ⟨code, some d.idx, some e.2⟩ else none

/-- The first failure of a list of checks. -/
def firstOf : List (Option LoadErr) → Option LoadErr
  | [] => none
  | some e :: _ => some e
  | none :: r => firstOf r

/-- A fault of the image as a whole. -/
def failIf (c : Bool) (code : Nat) : Option LoadErr := if c then some ⟨code, none, none⟩ else none

/-- A fault of a directory entry. -/
def failDir (c : Bool) (code dir : Nat) : Option LoadErr := if c then some ⟨code, some dir, none⟩ else none

/-- CODE 1 (R267): header, directory and section ranges. -/
def checkFormat (b : List Byte) (len : Nat) (ds : List Dir) : Option LoadErr :=
  let zeroed := b.take 28 ++ [0, 0, 0, 0] ++ b.drop 32
  firstOf [
    failIf (!(fb b 0 4 == 0x5343535A && fb b 4 2 == 1 && fb b 6 1 ≤ 15 && 1 ≤ fb b 12 2 && fb b 12 2 ≤ 64
      && 64 + 16 * fb b 12 2 ≤ len && len ≤ 0x1000000 && b.length == len)) 1,
    failIf (crc32c zeroed != fb b 28 4) 1,
    ds.findSome? fun d => failDir (!(1 ≤ d.type && d.type ≤ 8) || (!perHalf d.type && d.half != 0)
      || (!perAlt d.type && d.alt != 0) || len < d.off + d.count * entSize d.type
      || ds.any (fun e => e.idx < d.idx && e.type == d.type && e.half == d.half && e.alt == d.alt)) 1 d.idx]

/-- The page whose event run holds an EVC source, for the ports that R51 names. -/
def portOfSource (src : Nat) : Option Nat :=
  if 0xAA ≤ src && src < 0xCA then some (0x90 + (src - 0xAA) / 4)
  else if 0xE0 ≤ src && src < 0xE8 then some (0xB0 + (src - 0xE0) / 4)
  else if 0xF6 ≤ src && src < 0xFE then some (0xC0 + (src - 0xF6) / 4)
  else none

/-- CODE 2: what R51 and R450 call absent, and East sections without an East half. -/
def checkAbsent (m : Member) (ds : List Dir) : Option LoadErr :=
  firstOf [
    ds.findSome? fun d => failDir (d.half == 1 && m == .zs804q) 2 d.idx,
    firstBad 2 2 ds fun _ e _ => fb e 2 1 < 32 && !corePresent m (fb e 2 1),
    firstBad 2 4 ds fun _ e _ => fb e 0 1 < 8 && !present m (Pg.DRAMC + fb e 0 1),
    firstBad 2 5 ds fun _ e _ => (fb e 0 1 == 1 && fb e 1 1 < 2 && !present m (Pg.CHAFER + fb e 1 1))
      || (fb e 0 1 == 4 && fb e 1 1 < 2 && !present m (Pg.ETH + fb e 1 1)),
    firstBad 2 6 ds fun _ e _ => match portOfSource (fb e 0 2) with
      | some p => !present m p
      | none => false,
    firstBad 2 7 ds fun _ e _ => (fb e 2 1 < 32 && !corePresent m (fb e 2 1)) || (fb e 3 1 < 32 && !corePresent m (fb e 3 1))]

/-- A REFRESH entry keeps to R264. -/
def refreshOk (e : List Byte) : Bool :=
  let d := fb e 1 1
  let bs := (List.range 16).map fun i => fb e (8 + i) 1
  fb e 0 1 < 8 && (d == 4 || d == 8 || d == 16) && fb e 2 6 == 0
    && (bs.take d).all (fun x => x ≤ 62 && x % 2 == 0) && (bs.drop d).all (· == 0)
    && ((bs.take d).zip ((bs.take d).drop 1)).all (fun p => p.1 < p.2)

/-- CODE 3: a present channel without an entry, a broken entry, a channel named twice. -/
def checkRefresh (m : Member) (ds : List Dir) : Option LoadErr :=
  let all := (ds.filter (·.type == 4)).flatMap (·.ents)
  firstOf [
    firstBad 3 4 ds fun _ e _ => !refreshOk e || 1 < (all.filter fun x => fb x 0 1 == fb e 0 1).length,
    failIf ((channels m).any fun c => !(all.any fun x => fb x 0 1 == c)) 3]

/-- An EVENTS entry keeps to its unit's rule: INSTANCE, LINE, BEAT and ARG (R349, R389, R408, R438). -/
def eventOk (e : List Byte) : Bool :=
  let inst := fb e 1 1
  let beat := fb e 4 1
  let arg := fb e 8 8
  match fb e 0 1 with
  | 1 => beat == 0 && fb e 2 2 ≤ 1175 && arg % 128 == 0
  | 2 => inst == 0 && beat ≤ 48 && arg % 32 == 0
  | 3 => inst == 0 && beat == 0 && arg < 32
  | 4 => inst < 2 && beat == 0 && arg < 256
  | _ => false

/-- NSJOB, OSLOT_BASE and OSLOT_CNT of a half. -/
def imgNsjob (b : List Byte) (h : Nat) : Nat := fb b (16 + 2 * h) 2
def imgOslotBase (b : List Byte) (h : Nat) : Nat := fb b (20 + 4 * h) 2
def imgOslotCnt (b : List Byte) (h : Nat) : Nat := fb b (22 + 4 * h) 2

/-- CODE 4: fields out of range and reserved fields (R261 to R266, R349, R389, R408, R438, R450). -/
def checkField (m : Member) (b : List Byte) (ds : List Dir) : Option LoadErr :=
  let nalt := fb b 6 1
  firstOf [
    failIf (fb b 7 1 != 0 || fb b 14 2 != 0 || leAt b 32 32 != 0) 4,
    ds.findSome? fun d => failDir (d.rsv != 0) 4 d.idx,
    firstBad 4 1 ds fun d e _ => 4096 ≤ fb e 0 2 || imgNsjob b d.half ≤ fb e 0 2 || 32 ≤ fb e 2 1 || (bit (fb e 2 1) 4 && 128 ≤ fb e 0 2) || leAt e 3 13 != 0,
    firstBad 4 2 ds fun d e i => !taskFieldsOk e (parseTask i e) || 32 ≤ fb e 2 1 || halfOf (fb e 2 1) != d.half,
    firstBad 4 2 ds fun d e i => i != 0 && !tasksAscend [parseTask (i - 1) (d.ents.getD (i - 1) []), parseTask i e],
    firstBad 4 3 ds fun d e _ => 32 ≤ fb e 0 2 || !corePresent m (fb e 0 2) || fb e 2 6 != 0
      || 1 < (d.ents.filter fun x => fb x 0 2 == fb e 0 2).length,
    failIf ((List.range (nalt + 1)).any fun k => (coresOf m).any fun c =>
      !((ds.filter fun d => d.type == 3 && d.alt == k).any fun d => d.ents.any fun e => fb e 0 2 == c)) 4,
    firstBad 4 5 ds fun d e _ => fb e 0 1 == 0 || 4 < fb e 0 1 || 1250 ≤ fb e 2 2 || 64 ≤ fb e 4 1 || fb e 5 3 != 0
      || (if fb e 0 1 == 1 then 2 ≤ fb e 1 1 || fb e 1 1 != d.half else d.half != 0)
      || !eventOk e,
    firstBad 4 6 ds fun _ e _ => 4096 ≤ fb e 0 2 || 8192 ≤ fb e 2 2 || 1 < fb e 4 1 || fb e 5 3 != 0,
    firstBad 4 8 ds fun _ e _ => fb e 5 3 != 0,
    firstBad 4 7 ds fun d e _ => 4 ≤ fb e 1 1 || 4096 ≤ fb e 4 2 || 4096 ≤ fb e 6 2 || 1250 ≤ fb e 8 2 || 64 ≤ fb e 10 1
      || fb e 11 1 != 0 || leAt e 16 16 != 0 || 32 ≤ fb e 2 1 || 32 ≤ fb e 3 1 || halfOf (fb e 2 1) != d.half
      || fb e 2 1 == fb e 3 1 || Nat.land (fb e 12 4) 0xFFF0E000 != 0
      || imgNsjob b (halfOf (fb e 2 1)) ≤ fb e 4 2 || imgNsjob b (halfOf (fb e 3 1)) ≤ fb e 6 2
      || 1 < (((ds.filter fun x => x.type == 7 && x.alt == d.alt).flatMap (·.ents)).filter fun x => fb x 0 1 == fb e 0 1).length]

/-- The tasks of a placement. -/
def tasksOf (ds : List Dir) (alt : Nat) : List TaskEnt :=
  (ds.filter fun d => d.type == 2 && d.alt == alt).flatMap fun d => (d.ents.zip (List.range d.count)).map fun e => parseTask e.2 e.1

/-- Bit L of the open bitmap of a core in a placement (R263). -/
def openBit (ds : List Dir) (alt core line : Nat) : Bool :=
  ((ds.filter fun d => d.type == 3 && d.alt == alt).flatMap (·.ents)).any fun e => fb e 0 2 == core && bit (leAt e 8 160) line

/-- Occupations that clash, meet open lines or pass the stave's end, and lines that start too many tasks (R267). -/
def checkTasks (ds : List Dir) : Option LoadErr :=
  firstBad 5 2 ds fun d e i =>
    let t := parseTask i e
    let x := t.line * 64 + t.beat
    80000 < x + t.beats
      || (List.range (ceilDiv (x % 64 + t.beats) 64)).any (fun k => openBit ds d.alt t.core (t.line + k))
      || (tasksOf ds d.alt).any (fun u => (u.idx < i && halfOf u.core == d.half) && tasksClash t u)
      || 1024 < ((tasksOf ds d.alt).filter fun u => u.line == t.line && halfOf u.core == d.half).length

/-- Two windows of one Chafer share a line (R349). -/
def windowsMeet (a b : List Byte) : Bool :=
  fb a 0 1 == 1 && fb b 0 1 == 1 && fb a 1 1 == fb b 1 1 && decide (fb a 2 2 < fb b 2 2 + 75) && decide (fb b 2 2 < fb a 2 2 + 75)

/-- CODE 5: tasks, and windows of a Chafer, that clash (R267, R349). -/
def checkOverlap (ds : List Dir) : Option LoadErr :=
  firstOf [checkTasks ds, firstBad 5 5 ds fun d e i =>
    fb e 0 1 == 1 && ((d.ents.zip (List.range d.count)).any fun u =>
      decide (u.2 < i) && windowsMeet u.1 e)]

/-- CODE 6: job counts and slot ranges. -/
def checkCapacity (b : List Byte) (ds : List Dir) : Option LoadErr :=
  let inRange := fun h lo n => n != 0 && lo < imgOslotBase b h + imgOslotCnt b h && imgOslotBase b h < lo + n
  firstOf [
    failIf (4096 < imgNsjob b 0 || 4096 < imgNsjob b 1 || 4096 < imgOslotBase b 0 + imgOslotCnt b 0
      || 4096 < imgOslotBase b 1 + imgOslotCnt b 1) 6,
    firstBad 6 2 ds fun d e i =>
      let t := parseTask i e
      imgNsjob b d.half ≤ t.job || 4096 < t.slot + t.ntok || inRange d.half t.slot t.ntok,
    firstBad 6 6 ds fun _ e _ => inRange (fb e 2 2 / 4096) (fb e 2 2 % 4096) 1]

/-- The ALTS entries in order. -/
def altsOf (ds : List Dir) : List (Nat × Nat) := (ds.filter (·.type == 8)).flatMap fun d => d.ents.map fun e => (fb e 0 4, fb e 4 1)

/-- CODE 7: alternates. -/
def checkAlt (m : Member) (b : List Byte) (ds : List Dir) : Option LoadErr :=
  let alts := altsOf ds
  let fence := fun k => (alts.getD (k - 1) (0, 0)).1
  let chaf := fun k => (alts.getD (k - 1) (0, 0)).2
  firstOf [
    failIf (alts.length != fb b 6 1) 7,
    firstBad 7 8 ds fun _ e _ => 4 ≤ fb e 4 1 || (bit (fb e 4 1) 0 && !present m Pg.CHAFER)
      || (bit (fb e 4 1) 1 && !present m (Pg.CHAFER + 1)),
    ds.findSome? fun d => failDir (perAlt d.type && alts.length < d.alt) 7 d.idx,
    firstBad 7 2 ds fun d e _ => d.alt != 0 && bit (fence d.alt) (fb e 2 1),
    firstBad 7 5 ds fun d e _ => d.alt != 0 && fb e 0 1 == 1 && bit (chaf d.alt) (fb e 1 1),
    firstBad 7 7 ds fun d e _ => d.alt != 0 && (bit (fence d.alt) (fb e 2 1) || bit (fence d.alt) (fb e 3 1))]

/-- Sections of a type keyed half × 16 + alt. -/
def keyed {α : Type} (ds : List Dir) (t : Nat) (f : List Byte → Nat → α) : List (Nat × List α) :=
  (ds.filter (·.type == t)).map fun d => (d.half * 16 + d.alt, (d.ents.zip (List.range d.count)).map fun e => f e.1 e.2)

/-- The image read and checked in the order of R267: the score, or the first failure. -/
def parseScore (m : Member) (addr : Nat) (b : List Byte) : Except LoadErr Score :=
  let len := fb b 8 4
  let ds := parseDirs b
  match firstOf [checkFormat b len ds, checkAbsent m ds, checkRefresh m ds, checkField m b ds, checkOverlap ds,
      checkCapacity b ds, checkAlt m b ds] with
  | some e => .error e
  | none => .ok
    { addr := addr, len := len, crc := fb b 28 4, nalt := fb b 6 1, nsjob := [imgNsjob b 0, imgNsjob b 1],
      oslotBase := [imgOslotBase b 0, imgOslotBase b 1], oslotCnt := [imgOslotCnt b 0, imgOslotCnt b 1],
      jobs := (ds.filter (·.type == 1)).map fun d =>
        (d.half, d.ents.map fun e => ⟨fb e 0 2, fb e 2 1 % 2, fb e 2 1 / 2 % 8, bit (fb e 2 1) 4⟩)
      tasks := keyed ds 2 fun e i => parseTask i e
      opens := keyed ds 3 fun e _ => (fb e 0 2, leAt e 8 160)
      refresh := (ds.filter (·.type == 4)).flatMap fun d => d.ents.map fun e =>
        (fb e 0 1, (List.range (fb e 1 1)).map fun i => fb e (8 + i) 1)
      events := keyed ds 5 fun e _ => ⟨fb e 0 1, fb e 1 1, fb e 2 2, fb e 4 1, fb e 8 8⟩
      bindings := (ds.filter (·.type == 6)).flatMap fun d => d.ents.map fun e =>
        ⟨fb e 0 2, fb e 2 2 % 4096, fb e 2 2 / 4096, fb e 4 1⟩
      rounds := keyed ds 7 fun e _ =>
        { id := fb e 0 1, tokenEn := bit (fb e 1 1) 0, rel := bit (fb e 1 1) 1, coreA := fb e 2 1, coreB := fb e 3 1,
          jobA := fb e 4 2, jobB := fb e 6 2, dline := fb e 8 2, dbeat := fb e 10 1, token := fb e 12 4 }
      alts := altsOf ds }

/-- The image at an address as Cantor reads it (R267): outside installed DRAM it is refused with FORMAT. -/
def readScore (s : State) (addr : Nat) : Except LoadErr Score :=
  if dramTop s.member < addr + 64 then .error ⟨1, none, none⟩
  else
    let len := leAt (memRead s (addr + 8) 4) 0 4
    if dramTop s.member < addr + len || 0x1000000 < len then .error ⟨1, none, none⟩
    else parseScore s.member addr (memRead s addr len)

end Sys2Proof.Machine
end

