-- ==== Sys2Proof/Machine/Watch.lean ====
section
/-! DEFINITION. Age Watch (R457 to R459): feeds, counting, expiry and gates. -/
namespace Sys2Proof.Machine

/-- Watches whose configuration is not zero, with AW_CFG. -/
def cfgWatches (s : State) : List (Nat × W32) :=
  (s.regs.filter fun c => Rg.AGEWATCH_AW_CFG ≤ c.1 && c.1 < Rg.AGEWATCH_AW_CFG + 1024).map fun c =>
    ((c.1 - Rg.AGEWATCH_AW_CFG) / 4, c.2)

def watchOf (s : State) (w : Nat) : WatchSt := kvGet ⟨0, false, false⟩ s.safety.watch w

/-- A watch stored, with its AW_EXP bit and AW_AGE of the selected watch. -/
def putWatch (w : Nat) (v : WatchSt) (s : State) : State :=
  let s := { s with safety := { s.safety with watch := kvPut ⟨0, false, false⟩ s.safety.watch w v } }
  let s := wrB (Rg.AGEWATCH_AW_EXP + 4 * (w / 32)) (w % 32) v.expired s
  if rdF s Rg.AGEWATCH_AW_SEL 7 0 == w then
    wr Rg.AGEWATCH_AW_AGE (w32 (min v.count 65535 + b2n v.expired * 0x10000 + b2n v.fed * 0x20000)) s
  else s

/-- AGEWATCH.AW_CTRL.EN in force. -/
def watchEn (s : State) : Bool := rdB s Rg.AGEWATCH_AW_CTRL 0

/-- A feed of one watch (R458). -/
def feedWatch (w : Nat) (s : State) : State := putWatch w ⟨0, false, true⟩ s

/-- What ARG of a watch names: a source in 12 bits, a round in 8, or a half and a job in 13 (R458). -/
def feedArg (c : W32) : Nat :=
  match fld c 2 0 with
  | 1 => fld c 14 3
  | 2 => fld c 10 3
  | _ => fld c 15 3

/-- Every watch fed by a kind and argument (R458). -/
def feedBy (kind arg : Nat) (s : State) : State :=
  (cfgWatches s).foldl (fun s c => if fld c.2 2 0 == kind && feedArg c.2 == arg then feedWatch c.1 s else s) s

/-- Every watch with a feed counts a line boundary (R457). -/
def watchTick (s : State) : State :=
  if !watchEn s then s
  else (cfgWatches s).foldl (fun s c =>
    if fld c.2 2 0 == 0 then s
    else
      let v := watchOf s c.1
      putWatch c.1 { v with count := v.count + 1 } s) s

/-- A watch whose count has passed its limit and that has not expired yet. -/
def watchDue (s : State) (w : Nat) : Bool :=
  let c := rd s (Rg.AGEWATCH_AW_CFG + 4 * w)
  let v := watchOf s w
  watchEn s && fld c 2 0 != 0 && fld c 31 16 < v.count && !v.expired

/-- Expiry of a watch (R459). -/
def watchExpire (w : Nat) (s : State) : State :=
  let s := putWatch w { watchOf s w with expired := true } s
  let s := raiseSrc (0x300 + w) (bump Rg.AGEWATCH_EXPIRIES s)
  setEvt Pg.AGEWATCH 0 (raiseFault 3 Pg.AGEWATCH w 0 s)

/-- The gate halfword of a watch (R459). -/
def gateOf (s : State) (w : Nat) : Nat :=
  let v := rd s (Rg.AGEWATCH_AW_GATE + 4 * (w / 2))
  if w % 2 == 0 then fld v 15 0 else fld v 31 16

/-- An expired watch gates a job (kind 1) or a ring (kind 2) of this argument. -/
def gated (s : State) (kind arg : Nat) : Bool :=
  watchEn s && s.safety.watch.any fun c => c.2.expired && gateOf s c.1 % 4 == kind
    && (if kind == 1 then bits (gateOf s c.1) 14 2 else bits (gateOf s c.1) 15 2) == arg

end Sys2Proof.Machine
end

