-- ==== Sys2Proof/Machine/Cantor.lean ====
section
/-! DEFINITION. Cantor (12_cantor.md): tokens and slots, ready lists, firing and slips, job ends, restarts and fences. -/
namespace Sys2Proof.Machine

/-- Job-table key of a score job: half and index (R257). -/
def jobKey (h j : Nat) : Nat := h * 4096 + j

/-- Job-table key of an invocation job, which a switch of scores leaves as it is (R257, R268). -/
def invKey (h j : Nat) : Nat := 8192 + h * 4096 + j
def jobAt (s : State) (k : Nat) : Option Job := kvFind s.cantor.jobs k
def putJob (k : Nat) (j : Job) (s : State) : State := { s with cantor := { s.cantor with jobs := kvInsert s.cantor.jobs k j } }

/-- A Cantor source of a half raised (R282, R285; the table of Cantor sources). -/
def cantorRaise (h j : Nat) (s : State) : State :=
  if present s.member (Pg.CANTOR + h) then raiseSrc (0x100 + 0x100 * h + j) s else s

/-- Tasks of the placement in force, of a half. -/
def scoreTasks (s : State) (h : Nat) : List TaskEnt :=
  match s.cantor.score with
  | none => []
  | some c => kvGet [] c.tasks (h * 16 + s.cantor.alt)

/-- A line of a core is open (R30, R107): under the boot score every line of every present core. -/
def coreOpen (s : State) (core line : Nat) : Bool :=
  match s.cantor.score with
  | none => !beforeS6 s && corePresent s.member core
  | some c => (kvGet [] c.opens s.cantor.alt).any fun e => e.1 == core && bit e.2 line

/-! ## Tokens and slots (R273 to R275) -/

def slotVal (s : State) (h i : Nat) : Nat := kvGet 0 s.cantor.slots (h * 4096 + i)
def putSlot (h i v : Nat) (s : State) : State :=
  { s with cantor := { s.cantor with slots := kvPut 0 s.cantor.slots (h * 4096 + i) v } }

/-- n slots cleared. -/
def clearSlots (h i n : Nat) (s : State) : State := (List.range n).foldl (fun s k => putSlot h (i + k) 0 s) s

def tokCount (reg h : Nat) (s : State) : State := setEvt (Pg.CANTOR + h) 4 (bump (reg + h * 0x1000) s)

/-- A token acts on its slot (R275); HALF 1 without an East half is dropped (R274). -/
def tokenAct (tok : Nat) (s : State) : State :=
  let h := bits tok 12 12
  let i := bits tok 11 0
  let tag := bits tok 19 16
  if !(halves s.member).contains h then tokCount Rg.CANTOR_TOK_DROP 0 s
  else
    let v := slotVal s h i
    if v == 0 then putSlot h i (tag + 1) s
    else if v == tag + 1 then tokCount Rg.CANTOR_TOK_DUP h s
    else tokCount Rg.CANTOR_TOK_STALE h (putSlot h i (tag + 1) s)

/-- A token sent, on its way to its slot (R274). -/
def tokenSend (tok : Nat) (s : State) : State := { s with cantor := { s.cantor with tokens := s.cantor.tokens ++ [tok] } }

/-- A token word (R274). -/
def tokenOf (half slot tag : Nat) : Nat := slot + half * 0x1000 + tag % 16 * 0x10000

/-- The bindings of a raised source deliver their tokens (R266). -/
def bindRaise (src : Nat) (s : State) : State :=
  match s.cantor.score with
  | none => s
  | some c => (c.bindings.filter (·.source == src)).foldl (fun s b =>
      tokenSend (tokenOf b.half b.slot (s.clk.snum + b.staveOff)) s) s

/-! ## Ends of jobs (R283, R285) -/

/-- The half of a job key. -/
def keyHalf (k : Nat) : Nat := k / 4096 % 2

/-- A task that waits or runs leaves its stream's mark (R297). -/
def dropStream (core job idx : Nat) (s : State) : State :=
  { s with cantor := { s.cantor with streams := s.cantor.streams.filter fun m => !(m.core == core && m.job == job && m.idx == idx) } }

/-- A waiting task cancelled: its slots clear, buffers it has taken return to their pool, its stream is free. -/
def cancelWait (w : Wait) (s : State) : State :=
  let s := clearSlots w.half w.slot w.task.ntok s
  let s := if w.taken then freeBufs w.task.tpool w.bufs s else s
  dropStream w.core w.job w.task.idx s

/-- Every unfired task of a job cancelled (R283), those of later lines of a score job included. -/
def cancelUnfired (k : Nat) (s : State) : State :=
  let ws := (s.cantor.ready ++ s.cantor.delay1).filter (·.job == k)
  let s := { s with cantor := { s.cantor with ready := s.cantor.ready.filter (·.job != k)
                                              delay1 := s.cantor.delay1.filter (·.job != k) } }
  let s := ws.foldl (fun s w => cancelWait w s) s
  ((scoreTasks s (keyHalf k)).filter fun t => t.job == k % 4096 && s.clk.line < t.line).foldl
    (fun s t => clearSlots (keyHalf k) t.slot t.ntok s) s

/-- The task that a core runs. -/
def coreRun (s : State) (c : Nat) : Option CoreRun := kvFind s.cantor.runs c

/-- A core's task ends or stops (R296): the core is free. -/
def coreFree (c : Nat) (s : State) : State :=
  match coreRun s c with
  | none => s
  | some r =>
    let s := dropStream c r.w.job r.w.task.idx { s with cantor := { s.cantor with runs := kvErase s.cantor.runs c } }
    wr (Rg.CORE_CMD_IDX + c * 0x1000) 0 (wr (Rg.CORE_TASK_STAT + c * 0x1000) 0 (wrB (hdr (Pg.CORE + c) Hdr.BLK_STAT) 1 false s))

/-- Every running task of a job is stopped (R283, R296). -/
def stopRuns (k : Nat) (s : State) : State :=
  (s.cantor.runs.filter fun r => r.2.w.job == k).foldl (fun s r => coreFree r.1 s) s

/-- A failing score-job instance logged (R285). -/
def jobLog (k status cause core idx : Nat) (restarts : Nat) (s : State) : State :=
  let h := keyHalf k
  let b := h * 0x1000
  let e := toLE 8 (stimeNow s) ++ toLE 2 (k % 4096) ++ toLE 2 status ++ toLE 2 idx
    ++ toLE 2 (core + (cause + s.cantor.alt * 16) * 0x100) ++ toLE 1 restarts ++ toLE 15 0
  cantorRaise h 0x81 (setEvt (Pg.CANTOR + h) 1 (logPut (Rg.CANTOR_FLOG_HEAD + b) (Rg.CANTOR_FLOG + b) e s))

/-- The end of an invocation's work as its final record tells it (R157, R159). -/
def finalRec (k : Nat) (j : Job) (x : Invoc) (s : State) : Rec :=
  { ring := x.ring, owner := x.owner, epoch := x.epoch, status := j.status, subSeq := x.subSeq,
    deferLines := min (j.startLin - x.f) 0xFFFF, kind := 0,
    flags := b2n x.guar + b2n x.elastic * 2 + b2n (x.f / 1250 < j.startLin / 1250) * 4 + b2n x.noteSkipped * 8 + b2n x.poolWait * 16,
    stime := stimeNow s, startLine := j.start, core := j.cores.headD 0xFF, ncores := j.cores.length, detail := 0,
    job := some k }

/-- The final record of an ended invocation, once the accesses it has issued have completed (R230, R258). -/
def invFinal (k : Nat) (s : State) : State :=
  match jobAt s k with
  | some j =>
    match j.inv with
    | some x =>
      if j.done && !(s.ms.accesses.any fun a => match a.who with | some w => w.inv && w.job == k | none => false) then
        recMake (finalRec k j x s) s
      else s
    | none => s
  | none => s

/-- A job ends with a status other than OK (R283): cause, core and task index as the log has them. -/
def jobEnd (k status cause core idx : Nat) (s : State) : State :=
  match jobAt s k with
  | none => s
  | some j =>
    if j.done then s
    else
      let s := putJob k { j with done := true, status := status, state := 0, saved := j.restarts } s
      let s := stopRuns k (cancelUnfired k s)
      if j.kind == 1 then
        let s := jobLog k status cause core idx j.restarts s
        if j.signal then cantorRaise (keyHalf k) (k % 4096) s else s
      else invFinal k s

/-- A job restarts (R283): a score job with the next stave, an invocation from the next line boundary. -/
def jobRestart (k status core idx : Nat) (s : State) : State :=
  match jobAt s k with
  | none => s
  | some j =>
    if j.kind == 1 then
      let s := if j.done then s else jobEnd k status 0 core idx s
      match jobAt s k with
      | some j2 => putJob k { j2 with restarts := j2.restarts + 1, status := status } s
      | none => s
    else
      match j.inv with
      | none => s
      | some x =>
        let s := stopRuns k (cancelUnfired k s)
        let s := putJob k { j with restarts := j.restarts + 1, status := status, state := 1, cores := [] } s
        { s with adm := { s.adm with restart := s.adm.restart ++ [(k, keyHalf k, x)] } }

/-- The fences that the next boundary's placement does not see yet (R35, R269). -/
def lateMark (s : State) (unit : Nat) : List Nat :=
  if s.clk.line == 1249 && 60 ≤ s.clk.beat then unit :: s.cantor.lateFence else s.cantor.lateFence

/-- The page of a fence unit code (R462): core 0 to 31, Chafer West 0x40, East 0x41. -/
def unitPage (u : Nat) : Nat := if u < 32 then Pg.CORE + u else Pg.CHAFER + (u - 0x40)

def chaferOpens (s : State) (h : Nat) : List OpenEnt := kvGet [] s.chafer.opens h
/-- The open queue of a Chafer stored, with STAT.QUEUE (R367). -/
def putOpens (h : Nat) (l : List OpenEnt) (s : State) : State :=
  wrF (Rg.CHAFER_STAT + h * 0x1000) 20 16 l.length
    { s with chafer := { s.chafer with opens := kvPut [] s.chafer.opens h l } }

/-- The invocations whose open surveys a Chafer holds, queued or in service (R371). -/
def chaferJobs (s : State) (h : Nat) : List Nat :=
  let inWin := match kvFind s.chafer.wins h with
    | some w => w.surveys.filterMap fun v => v.opn.map (·.job)
    | none => []
  (chaferOpens s h).map (·.job) ++ inWin

/-- A Chafer stops (R371): its window is abandoned, and the invocations of its open surveys end with a status. -/
def chaferStop (h status : Nat) (s : State) : State :=
  let ks := chaferJobs s h
  let s := putOpens h [] { s with chafer := { s.chafer with wins := kvErase s.chafer.wins h } }
  let s := wrF (Rg.CHAFER_STAT + h * 0x1000) 2 0 0 s
  ks.foldl (fun s k => jobEnd k status 0 (0x40 + h) 0 s) s

/-- BLK_STAT of a core or Chafer as it reads: READY and BUSY beside the stored bits (R559). -/
def unitStat (s : State) (u : Nat) : W32 :=
  let p := unitPage u
  let ready := if u < 32 then decide (4 ≤ stage s) else enabled s p
  let busy := if u < 32 then (coreRun s u).isSome
    else (kvFind s.chafer.wins (u - 0x40)).isSome || !(chaferOpens s (u - 0x40)).isEmpty
  setFld (rd s (hdr p Hdr.BLK_STAT)) 1 0 (b2n ready + b2n busy * 2)

/-- A unit is fenced (R461). -/
def fenceUnit (u : Nat) (s : State) : State :=
  let p := unitPage u
  if fenced s p || !present s.member p then s
  else
    let a := hdr p Hdr.BLK_STAT
    let s := { s with cantor := { s.cantor with lateFence := lateMark s u } }
    let new := setFld (setFld (rd s a) 3 3 1) 1 0 0
    let s := hwChange 1 p Hdr.BLK_STAT (unitStat s u) new (wr a new s)
    let s := if u < 32 then (halves s.member).foldl (fun s h => wrB (Rg.CANTOR_FENCED + h * 0x1000) u true s) s else s
    let s := setEvt Pg.SAFETY 3 (raiseFault 5 p u 0 s)
    let s := match (if u < 32 then coreRun s u else none) with
      | some r => jobEnd r.w.job 0x0404 0 u r.w.task.idx s
      | none => s
    let s := if u < 32 then s else chaferStop (u - 0x40) 0x0404 s
    if u < 32 then { s with ms := { s.ms with nrc := s.ms.nrc.filter fun e => e.1 / 0x40000000000 != u } } else s

/-- A resource fault of a job, handled by its FAIL_MODE (R283, R460). -/
def jobFault (k status unit core idx : Nat) (s : State) : State :=
  match jobAt s k with
  | none => s
  | some j =>
    if j.failMode == 1 then jobEnd k 0x0404 0 core idx (fenceUnit unit s)
    else if j.restarts < j.restartMax then jobRestart k status core idx s
    else jobEnd k 0x0405 0 core idx s

/-- A failed translated access of a job: directly, or as a resource fault (R230, R254, R460). -/
def accessFail (k : Nat) (e : XErr) (unit core idx : Nat) (s : State) : State :=
  if e.resource then jobFault k e.status unit core idx s else jobEnd k e.status 0 core idx s

/-- The OK end of a job (R258, R283). -/
def jobOk (k : Nat) (s : State) : State :=
  match jobAt s k with
  | none => s
  | some j =>
    let s := putJob k { j with done := true, status := 0, state := 0, saved := j.restarts,
                               restarts := if j.kind == 1 then 0 else j.restarts } s
    if j.kind == 1 then
      let s := feedBy 3 (k % 4096 + keyHalf k * 4096) s
      if j.signal then cantorRaise (keyHalf k) (k % 4096) s else s
    else invFinal k s

/-! ## Ready lists (R277, R279) -/

/-- Physical ranges of a command stream, page by page, as its context maps them now (R297). -/
def streamRanges (s : State) (ctx half va n : Nat) : List (Nat × Nat) :=
  (List.range ((va % 4096 + n + 4095) / 4096)).filterMap fun i =>
    let a := max va (va / 4096 * 4096 + 4096 * i)
    let e := min (va + n) (va / 4096 * 4096 + 4096 * (i + 1))
    match (translate ctx half accRead a s).1 with
    | .ok o => if o.host then none else some (o.pa, e - a)
    | .flt _ => none

/-- The context of a waiting task (R214). -/
def waitCtx (s : State) (w : Wait) : Nat :=
  match (jobAt s w.job).bind (·.inv) with
  | some x => x.owner
  | none => 0

/-- Who makes the accesses of a task on its core. -/
def waitWho (s : State) (w : Wait) : Who :=
  match (jobAt s w.job).bind (·.inv) with
  | some x => ⟨x.owner, w.core, halfOf w.core, x.ring, x.subSeq, w.job, true⟩
  | none => ⟨0, w.core, halfOf w.core, 0x3FFF, 0, w.job, false⟩

/-- A task enters its core's ready list (R277, R258); a gated or ended job's task is cancelled (R283, R459). -/
def enterReady (w : Wait) (s : State) : State :=
  match jobAt s w.job with
  | none => s
  | some j =>
    let inst := w.line / 1250 + 1
    let fresh := j.kind == 1 && j.startLin != inst
    let j := if fresh then
        { j with startLin := inst, done := false, state := 1, status := j.status,
                 tasksLeft := ((scoreTasks s w.half).filter fun t => t.job == w.job % 4096).length }
      else j
    if j.done then cancelWait w s
    else
      let s := putJob w.job j s
      if gated s 1 (w.job % 4096 + w.half * 4096) && !w.inv then
        setEvt Pg.AGEWATCH 1 (jobEnd w.job 0x0403 0 w.core w.task.idx (cancelWait w s))
      else
        let m : StreamMark := ⟨w.core, w.job, w.task.idx,
          streamRanges s (waitCtx s w) (halfOf w.core) w.task.cmdVa (32 * w.task.cmdCount), false⟩
        { s with cantor := { s.cantor with ready := s.cantor.ready ++ [w], streams := s.cantor.streams ++ [m] } }

/-- A score task of the placement that is due, as it enters its ready list. -/
def scoreWait (s : State) (h : Nat) (t : TaskEnt) : Wait :=
  let line := s.clk.snum * 1250 + t.line
  { half := h, job := jobKey h t.job, inv := false, core := t.core, task := t, line := line, planned := line * 64 + t.beat,
    tag := s.clk.snum % 16, slot := t.slot, bufs := [], taken := false, cmds := [], fetched := 0, fetchErr := none }

/-- A score task whose instance has failed in this stave: it was cancelled then (R283). -/
def taskDead (s : State) (w : Wait) : Bool :=
  match jobAt s w.job with
  | some j => !w.inv && j.done && j.startLin == w.line / 1250 + 1
  | none => false

/-- The delay lists tick (R277, R34 step 4): score tasks, tasks of invocations and timed tokens of the new line. -/
def delayTick (s : State) : State :=
  let due := (halves s.member).flatMap fun h => ((scoreTasks s h).filter (·.line == s.clk.line)).map (scoreWait s h)
  let due := due.filter fun w => !taskDead s w
  let now := linLine s
  let inv := s.cantor.delay1.filter (·.line ≤ now)
  let toks := s.cantor.timed.filter (·.lin ≤ now)
  let evs := match s.cantor.score with
    | none => []
    | some c => (halves s.member).flatMap fun h => (kvGet [] c.events (h * 16 + s.cantor.alt)).filter (·.line == s.clk.line)
  let s := { s with cantor := { s.cantor with delay1 := s.cantor.delay1.filter (now < ·.line)
                                              timed := s.cantor.timed.filter (now < ·.lin), events := evs } }
  let s := (due ++ inv).foldl (fun s w => enterReady w s) s
  toks.foldl (fun s t => tokenAct t.tok s) s

/-- The operands of a task match (R275). -/
def tokensMatch (s : State) (w : Wait) : Bool :=
  (List.range w.task.ntok).all fun i => slotVal s w.half (w.slot + i) == w.tag + 1

/-- The allocation port of a Cantor (R169). -/
def cantorPort (h : Nat) : Nat := 9 + h

/-- Waiting tasks are the same task. -/
def sameWait (a b : Wait) : Bool := a.job == b.job && a.task.idx == b.task.idx && a.planned == b.planned

/-- A waiting task replaced in the ready list. -/
def putReady (w : Wait) (s : State) : State :=
  { s with cantor := { s.cantor with ready := s.cantor.ready.map fun x => if sameWait x w then w else x } }

def dropReady (w : Wait) (s : State) : State :=
  { s with cantor := { s.cantor with ready := s.cantor.ready.filter fun x => !sameWait x w } }

/-- The grace of a waiting task has run out (R281). -/
def graceOver (s : State) (w : Wait) : Bool := decide (w.planned + w.task.grace + 1 ≤ linBeat s)

/-- Tasks of a core's ready list whose planned beat has begun. -/
def begun (s : State) (c : Nat) : List Wait := s.cantor.ready.filter fun w => w.core == c && w.planned ≤ linBeat s

/-- The order of firing (R279): LEVEL, planned beat, task index, score tasks first. -/
def fireBefore (a b : Wait) : Bool :=
  if a.task.level != b.task.level then b.task.level < a.task.level
  else if a.planned != b.planned then a.planned < b.planned
  else if a.task.idx != b.task.idx then a.task.idx < b.task.idx
  else !a.inv && b.inv

/-- The buffer requests of one sub-beat (R279). -/
def requestBufs (c : Nat) (s : State) : State :=
  ((begun s c).filter fun w => w.task.tnbuf != 0 && !w.taken && !graceOver s w).foldl (fun s w =>
    match allocMany (cantorPort w.half) w.task.tpool w.task.tnbuf [] s with
    | (some l, s) => putReady { w with bufs := l, taken := true } s
    | (none, s) => s) s

/-- A task may fire but for its core (R279); one whose grace has run out slips (R281). -/
def mayFire (s : State) (w : Wait) : Bool := tokensMatch s w && (w.task.tnbuf == 0 || w.taken) && !graceOver s w

/-- The first of the candidates in firing order. -/
def firstToFire : List Wait → Option Wait
  | [] => none
  | a :: r => match firstToFire r with
    | none => some a
    | some b => some (if fireBefore b a then b else a)

/-- A task fires (R279, R280). -/
def fireTask (c : Nat) (w : Wait) (s : State) : State :=
  let s := clearSlots w.half w.slot w.task.ntok (dropReady w s)
  let s := { s with cantor := { s.cantor with runs := kvInsert s.cantor.runs c ⟨w, 0, [], linSub s⟩ } }
  let s := if w.planned * 32 < linSub s then bump (Rg.CANTOR_LATE_FIRES + w.half * 0x1000) s else s
  let s := match jobAt s w.job with
    | some j =>
      let got := w.bufs.map fun h => h + w.task.tpool * 0x10000
      putJob w.job { j with state := 2, bufs := if w.inv then j.bufs ++ got else j.bufs } s
    | none => s
  let s := wr (Rg.CORE_TASK_STAT + c * 0x1000) (w32 (1 + b2n w.inv * 2 + w.job % 4096 * 16)) s
  let s := wrB (hdr (Pg.CORE + c) Hdr.BLK_STAT) 1 true s
  traceEvt 3 c (w.job % 4096 + b2n w.inv * 4096) s

/-- The ready task of a core that fires now, if any does (R279, R284, R520). -/
def tryFire (c : Nat) (s : State) : State :=
  if held s || fenced s (Pg.CORE + c) then s
  else
    let s := requestBufs c s
    if (coreRun s c).isSome then s
    else
      match firstToFire ((begun s c).filter (mayFire s)) with
      | some w => fireTask c w s
      | none => s

/-- The first unmet condition of R279 at the slip (R281). -/
def slipCause (s : State) (w : Wait) : Nat :=
  if !tokensMatch s w then 1 else if w.task.tnbuf != 0 && !w.taken then 2 else 3

/-- A slip (R281, R282). -/
def slipTask (w : Wait) (cause : Nat) (s : State) : State :=
  let h := w.half
  let s := traceEvt 5 w.core (w.job % 4096 + cause * 0x10000) s
  let s := cantorRaise h 0x80 (setEvt (Pg.CANTOR + h) 0 (bump (Rg.CANTOR_SLIPS + h * 0x1000) s))
  let s := if w.inv then s else raiseFault 11 (Pg.CANTOR + h) (w.job % 4096) cause s
  jobEnd w.job 0x0401 cause w.core w.task.idx s

/-- A ready task of a core whose grace has run out (R281); score tasks do not slip under a hold (R520). -/
def slipDue (s : State) (c : Nat) : Option Wait :=
  (begun s c).find? fun w => graceOver s w && !(held s && !w.inv)

/-- A task has run for longer than its BEATS (R280). -/
def overran (s : State) (r : CoreRun) : Bool := decide (r.startSub + r.w.task.beats * 32 < linSub s)

/-- A task ends with its last command (R296, R258). -/
def taskDone (c : Nat) (s : State) : State :=
  match coreRun s c with
  | none => s
  | some r =>
    let k := r.w.job
    let s := if overran s r then bump (Rg.CANTOR_OVERRUNS + r.w.half * 0x1000) s else s
    let s := traceEvt 4 c (k % 4096 + b2n r.w.inv * 4096) (coreFree c s)
    match jobAt s k with
    | none => s
    | some j =>
      if j.done || (j.kind == 1 && j.startLin != r.w.line / 1250 + 1) then s
      else if j.tasksLeft ≤ 1 then jobOk k (putJob k { j with tasksLeft := 0 } s)
      else putJob k { j with tasksLeft := j.tasksLeft - 1, state := 1 } s

/-- The span of an invocation ends with a task unfinished (R280). -/
def spanEnd (k : Nat) (s : State) : State :=
  match jobAt s k with
  | none => s
  | some j =>
    if j.kind != 2 || j.done || linLine s < j.startLin + j.span || s.adm.restart.any (·.1 == k) then s
    else
      let run := s.cantor.runs.find? fun r => r.2.w.job == k
      let (core, idx) := match run with
        | some r => (r.1, r.2.w.task.idx)
        | none => (j.cores.headD 0, 0)
      let s := match run with
        | some r => if overran s r.2 then bump (Rg.CANTOR_OVERRUNS + keyHalf k * 0x1000) s else s
        | none => s
      let h := keyHalf k
      let s := traceEvt 5 core (k % 4096 + 0x40000) s
      let s := cantorRaise h 0x80 (setEvt (Pg.CANTOR + h) 0 (bump (Rg.CANTOR_SLIPS + h * 0x1000) s))
      jobEnd k 0x0401 4 core idx s

/-! ## Scores and placements (R268, R269) -/

/-- The score-job entries of a score loaded (R261, R268). -/
def loadJobs (c : Score) (s : State) : State :=
  (halves s.member).foldl (fun s h =>
    (List.range (c.nsjob.getD h 0)).foldl (fun s j =>
      let cfg := ((kvGet [] c.jobs h).find? (·.job == j)).getD ⟨j, 0, 0, false⟩
      putJob (jobKey h j) ⟨1, 0, cfg.failMode, cfg.restartMax, 0, 0, cfg.signal, 0x3FFF, 0, 0, 0, 0, 0, [], 0, 0, 0, [],
        none, false, 0⟩ s) s) s

/-- Score jobs of the score in force leave the job tables. -/
def dropScoreJobs (s : State) : State :=
  let ks := (s.cantor.jobs.filter (·.2.kind == 1)).map (·.1)
  let s := ks.foldl (fun s k => stopRuns k (cancelUnfired k s)) s
  { s with cantor := { s.cantor with jobs := s.cantor.jobs.filter (·.2.kind != 1) } }

/-- The state of the load registers (R267). -/
def setLoadState (v code dir ent : Nat) (s : State) : State :=
  wr Rg.CANTOR_LOAD_INFO (w32 (dir + ent * 0x100)) (wr Rg.CANTOR_LOAD_STAT (w32 (v + code * 0x100)) s)

/-- A number that a fault does not fix (R267 names no directory or entry for a fault of the whole image). -/
def openNat (x : Option Nat) (s : State) : Nat × State :=
  match x with
  | some n => (n, s)
  | none => freeVal s

/-- LOAD_STAT and LOAD_INFO of a refused image (R267). -/
def loadRefused (e : LoadErr) (s : State) : State :=
  let (d, s) := openNat e.dir s
  let (n, s) := openNat e.entry s
  setLoadState 3 e.code (d % 0x100) (n % 0x1000000) s

/-- An armed score takes effect (R268). -/
def scoreSwitch (s : State) : State :=
  match s.cantor.armed with
  | none => s
  | some c =>
    let s := dropScoreJobs s
    let s := loadJobs c { s with cantor := { s.cantor with score := some c, armed := none, slots := [] } }
    let s := setLoadState 0 0 0 0 (wrB Rg.CANTOR_SCORE_STAT 0 true s)
    hwSet 2 Rg.CANTOR_SCORE_ID (w32 c.crc) s

/-- The boot score in force (R105, R107). -/
def bootScore (s : State) : State :=
  let s := dropScoreJobs s
  let s := { s with cantor := { s.cantor with score := none, armed := none, validating := none, alt := 0, slots := []
                                              events := [] } }
  wr Rg.CANTOR_SCORE_ID 0 (wr Rg.CANTOR_SCORE_STAT 0 (setLoadState 0 0 0 0 s))

/-- F of R269: fenced cores and fenced Chafers, but for fences after the cutoff of R35. -/
def fenceSet (s : State) : Nat × Nat :=
  let seen := fun u => fenced s (unitPage u) && !s.cantor.lateFence.contains u
  ((List.range 32).foldl (fun m c => if seen c then m + 2 ^ c else m) 0, b2n (seen 0x40) + b2n (seen 0x41) * 2)

/-- The alternate whose fence set contains F with the fewest members, the lowest k among ties (R269). -/
def bestAlt (f : Nat × Nat) : List (Nat × Nat) → Nat → Option (Nat × Nat)
  | [], _ => none
  | a :: r, k =>
    let rest := bestAlt f r (k + 1)
    let ok := Nat.land f.1 a.1 == f.1 && Nat.land f.2 a.2 == f.2
    let n := popcount 32 a.1 + popcount 2 a.2
    match rest with
    | none => if ok then some (k, n) else none
    | some (k2, n2) => if ok && n ≤ n2 then some (k, n) else some (k2, n2)

/-- The placement of the stave selected (R269). -/
def selectPlacement (old : W32) (s : State) : State :=
  match s.cantor.score with
  | none => { s with cantor := { s.cantor with lateFence := [] } }
  | some c =>
    let f := fenceSet s
    let force := rdB s Rg.CANTOR_ALT_FORCE 4
    let fa := rdF s Rg.CANTOR_ALT_FORCE 3 0
    let (alt, noAlt) :=
      if force then ((if c.nalt < fa then 0 else fa), false)
      else if f == (0, 0) then (0, false)
      else match bestAlt f c.alts 1 with
        | some (k, _) => (k, false)
        | none => (0, true)
    let new := setFld (setFld (rd s Rg.CANTOR_SCORE_STAT) 7 4 alt) 8 8 (b2n noAlt)
    let changed := alt != s.cantor.alt
    let s := { s with cantor := { s.cantor with alt := alt, lateFence := [] } }
    let s := wr Rg.CANTOR_SCORE_STAT new s
    let s := if changed then cantorRaise 0 0x82 (setEvt Pg.CANTOR 3 (hwChange 2 Pg.CANTOR 0x054 old new s)) else s
    if noAlt then cantorRaise 0 0x85 s else s

/-- A stave reset in step 3 of the boundary (R105, R286): every job in flight ends, and the boot score takes effect. -/
def staveReset (s : State) : State :=
  let live := (s.cantor.jobs.filter fun k => k.2.kind == 2 || (k.2.startLin != 0 && !k.2.done)).map (·.1)
  let old := rd s Rg.CANTOR_SCORE_ID
  let loaded := s.cantor.score.isSome
  let s := [0, 1].foldl (fun s h => chaferStop h 0x0601 s) s
  let s := live.foldl (fun s k => jobEnd k 0x0601 0 0xFF 0 s) s
  let s := bootScore { s with cantor := { s.cantor with ready := [], delay1 := [], timed := [], tokens := [], streams := [] }
                              adm := { s.adm with restart := [] } }
  let s := if loaded then hwChange 2 Pg.CANTOR 0x058 old 0 s else s
  wrB Rg.GUARD_RESET 2 false { s with cantor := { s.cantor with resetDue := false } }

/-- Score-job instances begun and not ended are cut at the end of a hold (R521). -/
def holdCut (s : State) : State :=
  (s.cantor.jobs.filter fun k => k.2.kind == 1 && k.2.startLin != 0 && !k.2.done).foldl (fun s k =>
    let s := stopRuns k.1 (cancelUnfired k.1 s)
    bump Rg.DEBUG_HOLD_CUT (putJob k.1 { k.2 with done := true, state := 0 } s)) s

end Sys2Proof.Machine
end

