-- ==== Sys2Proof/Machine/Evc.lean ====
section
/-! DEFINITION. The event controller (09_event_controller.md): raises, routing, claims, completions, configuration and
forwarding to PF0. -/
namespace Sys2Proof.Machine

def evSrc (s : State) (src : Nat) : EvSrc := kvGet EvSrc.reset s.evc.src src
def putSrc (src : Nat) (x : EvSrc) (s : State) : State := { s with evc := { s.evc with src := kvPut EvSrc.reset s.evc.src src x } }

/-- The register that holds a source's configuration halfword (R198). -/
def evCfgReg (src : Nat) : Nat := Rg.EVCSRC_CFG + src / 512 * 0x1000 + 4 * (src % 512 / 2)

/-- The configuration halfword of a source (R198). -/
def evCfg (s : State) (src : Nat) : Nat :=
  let w := rd s (evCfgReg src)
  if src % 2 == 0 then fld w 15 0 else fld w 31 16
def evEn (s : State) (src : Nat) : Bool := bit (evCfg s src) 0
def evCount (s : State) (src : Nat) : Bool := bit (evCfg s src) 1
def evPrio (s : State) (src : Nat) : Nat := bits (evCfg s src) 5 2

/-- P = 1 or C > 0. -/
def EvSrc.pends (x : EvSrc) : Bool := x.p || x.c != 0

/-- A hart held in reset (R207), as HART_STAT shows it; a stopped pair counts as held (R455). -/
def hartInReset (s : State) (h : Nat) : Bool := rdB s (Rg.EVC_HART_STAT + 4 * h) 10

/-- Current priority of a hart plus one, 0 when idle (R202). -/
def evCur (s : State) (h : Nat) : Nat :=
  s.evc.src.foldl (fun m x => if x.2.a && x.2.holder == h then max m (evPrio s x.1 + 1) else m) 0

/-- The source is claimable by the hart (R203). -/
def evClaimable (s : State) (h : Nat) (src : Nat) (x : EvSrc) : Bool := x.pends && !x.a && x.route == h && evEn s src

/-- The hart has a claimable source, of any priority (R209). -/
def evWake (s : State) (h : Nat) : Bool := s.evc.src.any fun x => evClaimable s h x.1 x.2

/-- MEIP of a hart (R203). -/
def evMeip (s : State) (h : Nat) : Bool :=
  let cur := evCur s h
  s.evc.src.any fun x => evClaimable s h x.1 x.2 && cur < evPrio s x.1 + 1

/-- EVC.HART_STAT of a hart (R202, R203, R209). -/
def evHartStat (s : State) (h : Nat) : Nat :=
  let c := evCur s h
  (if c == 0 then 0x1F else c - 1) + b2n (evMeip s h) * 0x100 + b2n (evWake s h) * 0x200 + b2n (hartInReset s h) * 0x400

def hartSt (s : State) (h : Nat) : HartSt := kvGet HartSt.reset s.dbg.harts h
def putHart (h : Nat) (x : HartSt) (s : State) : State :=
  { s with dbg := { s.dbg with harts := kvPut HartSt.reset s.dbg.harts h x } }

/-- Harts with a claimable source leave wait-for-interrupt (R209). -/
def wakeHarts (s : State) : State :=
  (List.range 4).foldl (fun s h =>
    if (hartSt s h).wfi && evWake s h && !hartInReset s h then putHart h { hartSt s h with wfi := false } s else s) s

/-- The hart that lowest-priority routing picks (R208): harts of LP_MASK out of reset, lowest priority, lowest number. -/
def lpPick (s : State) : Option Nat :=
  let m := rdF s Rg.EVC_LP_MASK 3 0
  (List.range 4).foldl (fun (best : Option Nat) h =>
    if !bit m h || hartInReset s h then best
    else match best with
      | none => some h
      | some b => if evCur s h < evCur s b then some h else best) none

/-- A source is routed (R207, R208). -/
def evRoute (src : Nat) (s : State) : State :=
  let c := evCfg s src
  let tgt := bits c 8 7
  let h := if bit c 6 then (lpPick s).getD tgt else tgt
  putSrc src { evSrc s src with route := h, routed := true } s

/-- FWD entries that name a raised source set PEND (R211). -/
def fwdRaise (src : Nat) (s : State) : State :=
  (List.range 64).foldl (fun s k =>
    let w := rd s (Rg.EVC_FWD + 4 * k)
    if fbit w 31 && fld w 11 0 == src then wrB (Rg.EVC_FWD + 4 * k) 30 true s else s) s

/-- One raise applied to its source (R194, R200, R201), with what a raise brings about elsewhere (R211, R266, R458,
R506, R517). -/
def evRaise (src : Nat) (s : State) : State :=
  let x := evSrc s src
  let was := x.pends
  let s := if evCount s src then
      if x.c == 255 then setEvt Pg.EVC 0 (wr Rg.EVC_SAT_LAST (w32 src) s) else putSrc src { x with c := x.c + 1 } s
    else putSrc src { x with p := true } s
  let s := if was || x.a then s else evRoute src s
  let s := traceEvt 2 0 src (fwdRaise src s)
  wakeHarts (wvEvent src (feedBy 1 src (bindRaise src s)))

/-- A raise message reaches the EVC (R194): beyond 8 on one edge it is held. -/
def evTake (src : Nat) (s : State) : State :=
  if 8 ≤ s.evc.edgeN then { s with evc := { s.evc with held := s.evc.held ++ [src] } }
  else evRaise src { s with evc := { s.evc with edgeN := s.evc.edgeN + 1 } }

/-- The best claim of a hart: highest PRIO above its current one, lowest number among equals (R204). -/
def evBest (s : State) (h : Nat) : Option Nat :=
  let cur := evCur s h
  s.evc.src.foldl (fun (best : Option Nat) x =>
    if evClaimable s h x.1 x.2 && cur < evPrio s x.1 + 1 then
      match best with
      | none => some x.1
      | some b => if evPrio s b < evPrio s x.1 then some x.1 else best
    else best) none

/-- A read of EVC.CLAIM by an origin: the word returned and the claim (R204). -/
def evClaim (o : Nat) (s : State) : W32 × State :=
  if o < 0x44 || 0x47 < o then (0, s)
  else
    let h := o - 0x44
    match evBest s h with
    | none => (0, s)
    | some src =>
      let x := evSrc s src
      let n := if evCount s src then x.c else 1
      (w32 (src + n * 0x1000 + evPrio s src * 0x100000 + 0x80000000),
        putSrc src { x with p := false, c := 0, a := true, holder := h } s)

/-- The source is held by the hart of an origin (R205). -/
def evHeldBy (s : State) (o src : Nat) : Bool := 0x44 ≤ o && o ≤ 0x47 && (evSrc s src).a && (evSrc s src).holder == o - 0x44

/-- A source completed (R200, R201); one left pending is routed again (R208). -/
def evDone (src : Nat) (s : State) : State :=
  let x := { evSrc s src with a := false, holder := 0 }
  let s := putSrc src x s
  wakeHarts (if x.pends then evRoute src s else s)

/-- Every source held by a hart completed (R455). -/
def evDropHart (h : Nat) (s : State) : State :=
  ((s.evc.src.filter fun x => x.2.a && x.2.holder == h).map (·.1)).foldl (fun s src => evDone src s) s

/-- P and C of a source cleared (R210). -/
def evClear (src : Nat) (s : State) : State := putSrc src { evSrc s src with p := false, c := 0 } s

/-- Sources of an origin's doorbell range (R196). -/
def doorOk (o aux src : Nat) : Bool :=
  let base := fun (o : Nat) =>
    if o == 0x41 then 0x900 ≤ src && src < 0xA00
    else if (0x44 ≤ o && o ≤ 0x48) || o == 0x4B then true
    else if o == 0x49 then 0xC00 ≤ src
    else false
  if o == 0x4A then base aux else base o

/-- A configuration word may be written: no MODE change of a pending or active source (R199). -/
def evCfgOk (s : State) (src : Nat) (h : Nat) : Bool :=
  let x := evSrc s src
  !((x.pends || x.a) && bit h 1 != evCount s src)

/-- A source whose halfword has been written: a change of ROUTE or TARGET re-routes it while it pends (R199). -/
def evCfgAfter (src old : Nat) (s : State) : State :=
  let x := evSrc s src
  if bits old 8 6 != bits (evCfg s src) 8 6 && x.pends && !x.a then evRoute src s else s

/-- One committed message of a forwarding entry (R211, R212). -/
def fwdCommit (k : Nat) (s : State) : State :=
  let a := Rg.EVC_FWD + 4 * k
  if !rdB s a 30 then s
  else
    let v := rdF s a 23 16
    let s := wrB a 30 false s
    if mayIssue s 0 then sendVector 0 v s else heldFire 0 v s

/-- Block reset of an EVCSRC page (R213). -/
def evcsrcReset (page : Nat) (s : State) : State :=
  { s with evc := { s.evc with src := s.evc.src.filter fun x => x.1 / 512 != page - Pg.EVCSRC } }

/-- What EVCSRC registers other than CFG read (the register page of EVCSRC). -/
def evcsrcView (s : State) (page off : Nat) : Nat :=
  let b := (page - Pg.EVCSRC) * 512
  let collect := fun (n step lo : Nat) (f : Nat → Nat) => (List.range n).foldl (fun v i => v + f (lo + i) * 2 ^ (i * step)) 0
  if off < 0x80 then collect 32 1 (b + (off - 0x40) / 4 * 32) fun i => b2n (evSrc s i).pends
  else if off < 0xC0 then 0
  else if off < 0x100 then collect 32 1 (b + (off - 0xC0) / 4 * 32) fun i => b2n (evSrc s i).a
  else if off < 0x180 then
    collect 16 2 (b + (off - 0x100) / 4 * 16) fun i =>
      let x := evSrc s i
      if x.a then x.holder else if x.pends && x.routed then x.route else bits (evCfg s i) 8 7
  else collect 4 8 (b + (off - 0xE00)) fun i => (evSrc s i).c

end Sys2Proof.Machine
end

