-- ==== Sys2Proof/Machine/SafetyOps.lean ====
section
/-! DEFINITION. Round execution, unison pairs, FAULT_N and the watchdog (R449 to R468). -/
namespace Sys2Proof.Machine

/-! ## Rounds (R451, R452) -/

/-- The rounds of the placement in force. -/
def roundEnts (s : State) : List RoundEnt :=
  match s.cantor.score with
  | none => []
  | some c => (halves s.member).flatMap fun h => kvGet [] c.rounds (h * 16 + s.cantor.alt)

def roundOf (s : State) (id : Nat) : Option RoundEnt := (roundEnts s).find? (·.id == id)
def creditOf (s : State) (id : Nat) : RoundSt := (s.safety.rounds.find? (·.id == id)).getD ⟨id, none, none, false⟩
def putCredit (c : RoundSt) (s : State) : State :=
  { s with safety := { s.safety with rounds := c :: s.safety.rounds.filter (·.id != c.id) } }

/-- The edge that begins the deadline beat of a round has come in this stave (R451). -/
def deadlinePast (s : State) (e : RoundEnt) : Bool := e.dline * 64 + e.dbeat ≤ s.clk.line * 64 + s.clk.beat

/-- A round-log entry (R452, R232). -/
def roundLog (e : RoundEnt) (c : RoundSt) (outcome : Nat) (s : State) : State :=
  let l := toLE 8 (stimeNow s) ++ toLE 1 e.id
    ++ toLE 1 (s.cantor.alt + outcome * 16 + b2n c.sigA.isSome * 64 + b2n c.sigB.isSome * 128)
    ++ toLE 1 e.coreA ++ toLE 1 e.coreB ++ toLE 4 (c.sigA.getD 0).toNat ++ toLE 4 (c.sigB.getD 0).toNat ++ toLE 12 0
  logPut Rg.SAFETY_RLOG_HEAD Rg.SAFETY_RLOG l s

/-- A mismatch acts on the instance of this stave of one of its jobs, ended or not (R460): an instance that had ended
OK counts as ended no longer, with RESTARTS as before that end; one that has failed is left. -/
def mismatchJob (k core : Nat) (s : State) : State :=
  match jobAt s k with
  | none => s
  | some j =>
    let inst := s.clk.snum + 1
    if j.kind != 1 then s
    else if j.startLin != inst then
      jobFault k 0x0402 core core 0 (putJob k { j with startLin := inst, done := false, state := 1 } s)
    else if !j.done then jobFault k 0x0402 core core 0 s
    else if j.status == 0 then jobFault k 0x0402 core core 0 (putJob k { j with done := false, restarts := j.saved } s)
    else s

/-- The second credit of a round (R452). The two jobs of a mismatch fault in the order of their cores' pages, as R465 orders
the log entries of one edge. -/
def roundOutcome (e : RoundEnt) (c : RoundSt) (s : State) : State :=
  if c.sigA == c.sigB then
    let s := bump Rg.SAFETY_COUNTS s
    let s := if e.tokenEn then
        let tag := (bits e.token 19 16 + (if e.rel then s.clk.snum else 0)) % 16
        tokenSend (setBits e.token 19 16 tag) s
      else s
    feedBy 2 e.id s
  else
    let s := roundLog e c 1 (bump (Rg.SAFETY_COUNTS + 4) s)
    let s := raiseFault 1 Pg.SAFETY (e.id + s.cantor.alt * 0x100) (e.coreA + e.coreB * 0x100) s
    let s := setEvt Pg.SAFETY 0 s
    let a := mismatchJob (jobKey (halfOf e.coreA) e.jobA) e.coreA
    let b := mismatchJob (jobKey (halfOf e.coreB) e.jobB) e.coreB
    if e.coreA < e.coreB then b (a s) else a (b s)

/-- A signature reaches the comparator (R451): credited, or stray. -/
def roundArrive (m : SigMsg) (s : State) : State :=
  if !rdB s Rg.SAFETY_ROUND_EN 0 then s
  else
    let stray := setEvt Pg.SAFETY 2 (bump (Rg.SAFETY_COUNTS + 12) s)
    match roundOf s m.id with
    | none => stray
    | some e =>
      let c := creditOf s m.id
      if m.tag != s.clk.snum % 16 || deadlinePast s e then stray
      else if m.core == e.coreA then
        if c.sigA.isSome then stray
        else
          let c := { c with sigA := some m.sig }
          let s := putCredit c s
          if c.sigB.isSome then roundOutcome e c s else s
      else if m.core == e.coreB then
        if c.sigB.isSome then stray
        else
          let c := { c with sigB := some m.sig }
          let s := putCredit c s
          if c.sigA.isSome then roundOutcome e c s else s
      else stray

/-- The deadline of a round has passed with fewer than two credits, not yet reported (R452). -/
def deadlineDue (s : State) (e : RoundEnt) : Bool :=
  let c := creditOf s e.id
  rdB s Rg.SAFETY_ROUND_EN 0 && deadlinePast s e && !c.late && !(c.sigA.isSome && c.sigB.isSome)

/-- A round is INCOMPLETE (R452). -/
def roundIncomplete (e : RoundEnt) (s : State) : State :=
  let c := creditOf s e.id
  let s := roundLog e c 2 (bump (Rg.SAFETY_COUNTS + 8) (putCredit { c with late := true } s))
  let s := raiseFault 2 Pg.SAFETY (e.id + s.cantor.alt * 0x100)
    (e.coreA + e.coreB * 0x100 + b2n c.sigA.isSome * 0x10000 + b2n c.sigB.isSome * 0x20000) s
  setEvt Pg.SAFETY 1 s

/-- Credits clear at a stave boundary (R451). -/
def creditsClear (s : State) : State := { s with safety := { s.safety with rounds := [] } }

/-! ## Unison pairs (R455, R456) -/

def hartPg (h : Nat) : Nat := Pg.HART + h
def hartStopped (s : State) (h : Nat) : Bool := rdB s (Rg.HART_STAT + h * 0x1000) 1
def hartRunning (s : State) (h : Nat) : Bool := rdB s (Rg.HART_STAT + h * 0x1000) 0

/-- IN_RESET of a hart, as HART_STAT and the routing of R207 see it. -/
def setHartReset (h : Nat) (b : Bool) (s : State) : State := wrB (Rg.EVC_HART_STAT + 4 * h) 10 b s

/-- A failed comparison (R455). -/
def unisonStop (h pc : Nat) (s : State) : State :=
  let b := h * 0x1000
  let s := wr (Rg.HART_STAT + b) (w32 2) s
  let s := wr (Rg.HART_MIS_PC + b) (w32 pc) (bump (Rg.HART_MISMATCHES + b) s)
  let s := setHartReset h true s
  let s := evDropHart h (putHart h { hartSt s h with halted := false, wfi := false, pc := pc } s)
  let s := wrB Rg.DEBUG_STAT (4 + h) false s
  setEvt (hartPg h) 0 (raiseFault 4 (hartPg h) h (pc % 0x100000000) s)

/-- A write of RESTART is accepted (R456). -/
def restartOk (s : State) (o h : Nat) : Bool :=
  hartStopped s h && 0x44 ≤ o && o ≤ 0x47 && o != 0x44 + h && hartRunning s (o - 0x44)

/-- A pair starts at its entry: after a restart (R456) or at the entry to S6 (R107). -/
def hartStart (h : Nat) (s : State) : State :=
  let b := h * 0x1000
  let s := setHartReset h false (wr (Rg.HART_STAT + b) (w32 1) s)
  putHart h { HartSt.reset with pc := rdN s (Rg.HART_ENTRY + b) } s

/-- A stopped pair restarted (R456). -/
def unisonRestart (h : Nat) (s : State) : State :=
  setEvt (hartPg h) 1 (bump (Rg.HART_RESTARTS + h * 0x1000) (hartStart h s))

/-! ## Class map, FAULT_N and the watchdog (R464 to R468) -/

/-- Minimum class of each cause, cause 1 first (R463). -/
def minClasses : List Nat := [0, 0, 0, 1, 0, 0, 2, 2, 1, 1, 0, 1, 2, 0, 0]

/-- No cause is set below its minimum class (R464). -/
def classMapOk (v : Nat) : Bool :=
  (List.range 15).all fun i => minClasses.getD i 0 ≤ bits v (2 * (i + 1) + 1) (2 * (i + 1))

/-- Line boundaries have passed as R467 asks. -/
def pinWaited (s : State) : Bool := rdF s Rg.FAULT_PIN_CFG 7 0 ≤ s.safety.pinLines

/-- FAULT_N is released (R467). -/
def pinRelease (s : State) : State :=
  let was := rdB s Rg.FAULT_PIN 0
  let s := wr Rg.FAULT_PIN 0 s
  if was then emit (.faultN true) s else s

/-- FAULT.PIN.RELEASE is not refused (R467). -/
def pinReleaseOk (s : State) (o : Nat) : Bool :=
  0x44 ≤ o && o ≤ 0x47 && rdB s Rg.CLOCK_STAT 0 && !(present s.member Pg.BRIDGE && !rdB s Rg.BRIDGE_STAT 0)
    && !((List.range 4).any (hartStopped s))

/-- An accepted write of RELEASE (R467). -/
def pinReleaseWrite (s : State) : State := if pinWaited s then pinRelease s else wrB Rg.FAULT_PIN 3 true s

/-- One line boundary of the FAULT_N count (R467). -/
def pinTick (s : State) : State := { s with safety := { s.safety with pinLines := s.safety.pinLines + 1 } }

/-- Cause WATCHDOG (R468). -/
def wdogFault (s : State) : State := raiseFault 13 Pg.FAULT 0 0 s

/-- A write of WDOG_KICK (R468). -/
def wdogKick (o v : Nat) (s : State) : State :=
  if v == 0x5AFE && 0x44 ≤ o && o ≤ 0x47 then wr Rg.FAULT_WDOG_AGE 0 s else wdogFault s

/-- One line boundary of the watchdog: WDOG_AGE increments while LINES is not 0 (R468). -/
def wdogTick (s : State) : State :=
  if rdF s Rg.FAULT_WDOG_CFG 15 0 == 0 then s else wr Rg.FAULT_WDOG_AGE (rd s Rg.FAULT_WDOG_AGE + 1) s

def wdogDue (s : State) : Bool :=
  rdF s Rg.FAULT_WDOG_CFG 15 0 != 0 && rdF s Rg.FAULT_WDOG_CFG 15 0 ≤ rdN s Rg.FAULT_WDOG_AGE

/-- WDOG_AGE reaches LINES (R468). -/
def wdogExpire (s : State) : State := wr Rg.FAULT_WDOG_AGE 0 (setEvt Pg.FAULT 3 (wdogFault s))

/-- SAFETY.FENCE is not refused (R462). -/
def fenceOk (s : State) (o u : Nat) : Bool :=
  0x44 ≤ o && o ≤ 0x47 && (u < 32 || u == 0x40 || u == 0x41) && present s.member (unitPage u)

/-- AW_CFG is not refused (R457). -/
def awCfgOk (v : W32) : Bool := !(fld v 31 16 == 0 && fld v 2 0 != 0) && fld v 2 0 ≤ 4

/-- A watch configured anew (R457). -/
def awCfgAfter (w : Nat) (s : State) : State := putWatch w ⟨0, false, (watchOf s w).fed⟩ s

end Sys2Proof.Machine
end

