-- ==== Sys2Proof/Machine/Debug.lean ====
section
/-! DEFINITION. The TAP, the DTM and the debug module, unison pairs under debug, and the stave hold's end (R510 to R523). -/
namespace Sys2Proof.Machine

/-! ## DEBUG.CTRL (R510) -/

/-- OTP word 49 bit 5, DEBUG_OFF. -/
def debugOff (s : State) : Bool := fbit (kvGet 0 s.boot.otp 49) 5
def debugAllow (s : State) : Bool := !debugOff s && rdB s Rg.DEBUG_CTRL 0
def isMain (o : Nat) : Bool := 0x44 ≤ o && o ≤ 0x47

/-- A write of DEBUG.CTRL is not refused (R510). -/
def debugCtrlOk (s : State) (o : Nat) (v : W32) : Bool :=
  (fbit v 0 == rdB s Rg.DEBUG_CTRL 0 || isMain o) && !(fbit v 0 && debugOff s)

def pairHalted (s : State) (h : Nat) : Bool := (hartSt s h).halted

/-- A pair leaves debug mode (R512, R515): what it holds in its registers from then on is the firmware's. -/
def pairResume (h : Nat) (s : State) : State :=
  if !pairHalted s h then s
  else
    let s := putHart h { hartSt s h with halted := false, resumeAck := true, gpr := [], csr := [] } s
    wrB Rg.DEBUG_STAT (4 + h) false (wrB (Rg.HART_STAT + h * 0x1000) 2 false s)

/-- ALLOW as the write leaves it: clearing it resumes every halted hart (R510). -/
def allowSet (v : W32) (s : State) : State :=
  let s := wr Rg.DEBUG_CTRL (w32 (v.toNat % 4)) s
  let s := wrB Rg.DEBUG_STAT 1 (debugAllow s) s
  if fbit v 0 then s else (List.range 4).foldl (fun s h => pairResume h s) s

/-- DEBUG.HOLD_CTRL is not refused (R518, R519). -/
def holdCtrlOk (s : State) (o : Nat) (v : W32) : Bool :=
  let any := fbit v 0 || fbit v 1
  (!any || isMain o || o == 0x48) && !(fbit v 1 && !fbit v 0 && !rdB s Rg.DEBUG_HOLD_STAT 0 && !held s)

/-- An accepted write of HOLD_CTRL: AT, then a request, then a release. -/
def holdCtrl (v : W32) (s : State) : State :=
  let s := wr Rg.DEBUG_HOLD_CTRL (w32 (b2n (fbit v 2) * 4)) s
  let s := if fbit v 0 then holdRequest s else s
  if fbit v 1 then holdRelease s else s

/-! ## Debug mode (R512, R514, R515) -/

/-- dmcontrol.haltreq and resumereq name the hart that hartsel selects. -/
def dmReg (s : State) (a : Nat) : W32 := kvGet 0 s.dbg.dm a
def putDm (a : Nat) (v : W32) (s : State) : State := { s with dbg := { s.dbg with dm := kvPut 0 s.dbg.dm a v } }
def hartsel (s : State) : Nat := fld (dmReg s 0x10) 25 16
def haltReq (s : State) (h : Nat) : Bool := fbit (dmReg s 0x10) 0 && fbit (dmReg s 0x10) 31 && hartsel s == h
def resumeReq (s : State) (h : Nat) : Bool := fbit (dmReg s 0x10) 0 && fbit (dmReg s 0x10) 30 && hartsel s == h

/-- A pair enters debug mode at a program counter: asked for, or by a trigger (R514, R515). -/
def pairHalt (h pc : Nat) (trigger : Bool) (s : State) : State :=
  if !(h < 4 && debugAllow s && hartRunning s h && !pairHalted s h && (trigger || haltReq s h)) then s
  else
    let s := putHart h { hartSt s h with halted := true, wfi := false, resumeAck := false, pc := pc % 0x100000000 } s
    let s := wrB Rg.DEBUG_STAT (4 + h) true (wrB (Rg.HART_STAT + h * 0x1000) 2 true s)
    let s := setEvt Pg.DEBUG 0 s
    if rdB s Rg.DEBUG_CTRL 1 then holdRequest s else s

/-- One instruction of a halted hart (R512): where it goes and what it changes is the program's. -/
def pairStep (h : Nat) (s : State) : State :=
  if !(h < 4 && debugAllow s && pairHalted s h) then s
  else
    let (pc, s) := freeVal s
    putHart h { hartSt s h with pc := pc % 0x100000000, gpr := [], csr := [] } s

/-- A register of a halted hart, by the number of the Access Register command (R512): dpc is the program counter, x0
reads 0; a register that the debugger has not met holds what the program left there. -/
def hartReg (h n : Nat) (s : State) : W32 × State :=
  let x := hartSt s h
  if n == 0x7B1 then (w32 x.pc, s)
  else if n == 0x1000 then (0, s)
  else
    let gpr := 0x1000 ≤ n
    match kvFind (if gpr then x.gpr else x.csr) n with
    | some v => (v, s)
    | none =>
      let (f, s) := freeVal s
      let y := if gpr then { x with gpr := kvInsert x.gpr n (w32 f) } else { x with csr := kvInsert x.csr n (w32 f) }
      (w32 f, putHart h y s)

def putHartReg (h n : Nat) (v : W32) (s : State) : State :=
  let x := hartSt s h
  if n == 0x7B1 then putHart h { x with pc := v.toNat } s
  else if n == 0x1000 then s
  else if 0x1000 ≤ n then putHart h { x with gpr := kvInsert x.gpr n v } s
  else putHart h { x with csr := kvInsert x.csr n v } s

/-- cmderr of abstractcs set, unless one stands. -/
def cmdErr (e : Nat) (s : State) : State :=
  if fld (dmReg s 0x16) 10 8 == 0 then putDm 0x16 (setFld (dmReg s 0x16) 10 8 e) s else s

/-- The Access Register command (R512): a GPR or CSR of a halted hart, through data0. -/
def accessRegister (h n : Nat) (write : Option W32) (s : State) : State :=
  if !debugAllow s then s
  else if !(h < 4 && pairHalted s h) then cmdErr 4 s
  else if 0x1020 ≤ n then cmdErr 2 s
  else
    match write with
    | some v => putHartReg h n v (putDm 4 v s)
    | none =>
      let (v, s) := hartReg h n s
      putDm 4 v s

/-! ## TAP and DTM (R511, R512) -/

/-- An instruction is available (R511). -/
def tapAvail (s : State) (ir : Nat) : Bool :=
  if ir == 0 || ir == 3 || ir == 4 then !s.boot.porstN || debugAllow s
  else if ir == 0x10 || ir == 0x11 then !debugOff s
  else ir == 1 || ir == 2

/-- An instruction selected; one that is not available acts as BYPASS. -/
def tapSelect (ir : Nat) (s : State) : State :=
  { s with dbg := { s.dbg with ir := if tapAvail s ir then ir else 0x1F } }

/-- The device identification (R511). -/
def idcode (s : State) : Nat :=
  let m := match s.member with | .zs832f => 0x0832 | .zs816h => 0x0816 | .zs804q => 0x0804
  Config.stepping % 16 * 0x10000000 + m * 0x1000 + 0x5A3 * 2 + 1

/-- EXTEST and SAMPLE/PRELOAD shift out what the balls show, which the manual leaves to the board, and update the
boundary register. -/
def tapBoundary (ir data : Nat) (s : State) : State :=
  let s := tapSelect ir s
  if s.dbg.ir != ir then emit (.tdo 0x1F 0) s
  else
    let (f, s) := freeVal s
    emit (.tdo ir f) { s with dbg := { s.dbg with boundary := data } }

/-- CLAMP, HIGHZ and BYPASS select the one-bit bypass register. -/
def tapBypass (ir : Nat) (s : State) : State := emit (.tdo (tapSelect ir s).dbg.ir 0) (tapSelect ir s)

/-- dtmcs: version 1, 7 address bits, the error state; idle is the implementation's (R512). -/
def tapDtmcs (v : Nat) (s : State) : State :=
  let s := tapSelect 0x10 s
  if s.dbg.ir != 0x10 then emit (.tdo 0x1F 0) s
  else
    let (f, s) := freeVal s
    let s := emit (.tdo 0x10 (1 + 7 * 16 + s.dbg.dmiStat * 0x400 + f % 8 * 0x1000)) s
    if bit v 16 || bit v 17 then { s with dbg := { s.dbg with dmiStat := 0 } } else s

/-- dmstatus (R512, R514): version 3, authenticated, and the state of the selected hart; a bit of the standard that
follows what the manual leaves to the implementation is left open. -/
def dmStatus (s : State) : W32 × State :=
  if !debugAllow s then (3, s)
  else
    let h := hartsel s
    let two := fun (b : Bool) (lo : Nat) => b2n b * 3 * 2 ^ lo
    let none_ := decide (4 ≤ h)
    let un := decide (h < 4) && hartStopped s h
    let hl := decide (h < 4) && pairHalted s h
    let rn := decide (h < 4) && hartRunning s h && !hl
    (w32 (3 + 0x80 + two hl 8 + two rn 10 + two un 12 + two none_ 14 + two (decide (h < 4) && (hartSt s h).resumeAck) 16), s)

/-- A debug-module register as it reads (R512): abstractcs has an 8-word program buffer and its data registers. -/
def dmRead (a : Nat) (s : State) : W32 × State :=
  if a == 0x11 then dmStatus s
  else if !debugAllow s then (0, s)
  else if a == 0x16 then (setFld (setFld (dmReg s a) 28 24 8) 3 0 2, s)
  else if a == 0x38 then (w32 (0x20000000 + 0x407 + (dmReg s a).toNat % 0x20000000 / 0x800 * 0x800 + 32 * 32), s)
  else (dmReg s a, s)

/-- Registers of the debug module that hold what is written (R512). -/
def dmHolds (a : Nat) : Bool :=
  (4 ≤ a && a ≤ 5) || a == 0x10 || a == 0x17 || a == 0x18 || (0x20 ≤ a && a ≤ 0x27) || a == 0x38 || a == 0x39 || a == 0x3C

/-- A DMI write: cmderr and the bus errors are cleared by ones; dmactive 0 resets the module. -/
def dmWrite (a : Nat) (v : W32) (s : State) : State :=
  if !debugAllow s then s
  else if a == 0x10 && !fbit v 0 then { s with dbg := { s.dbg with dm := [] } }
  else if a == 0x16 then putDm a (setFld (dmReg s a) 10 8 (Nat.land (fld (dmReg s a) 10 8) (7 - fld v 10 8))) s
  else if dmHolds a then putDm a v s
  else s

/-- The DMI instruction: op 1 reads, op 2 writes; what it shifts out is the read's data (R512). -/
def tapDmi (op a data : Nat) (s : State) : State :=
  let s := tapSelect 0x11 s
  if s.dbg.ir != 0x11 then emit (.tdo 0x1F 0) s
  else if op == 1 then
    let (v, s) := dmRead (a % 128) s
    emit (.tdo 0x11 v.toNat) s
  else if op == 2 then emit (.tdo 0x11 data) (dmWrite (a % 128) (w32 data) s)
  else emit (.tdo 0x11 0) s

/-! ## TRACE_DATA (R516) -/

/-- A word of the trace RAM read through TRACE_DATA, and TRACE_IDX advanced. -/
def traceRead (s : State) : W32 × State :=
  let i := rdN s Rg.DEBUG_TRACE_IDX
  (w32 (leAt (gmemRead s (0x50050000 + 4 * i) 4) 0 4), wr Rg.DEBUG_TRACE_IDX (w32 ((i + 1) % 0x4000)) s)

/-- TRACE_CTRL written: setting EN begins a new count of entries (R517). -/
def traceCtrl (v : W32) (s : State) : State :=
  let was := rdB s Rg.DEBUG_TRACE_CTRL 0
  let s := wr Rg.DEBUG_TRACE_CTRL (w32 (v.toNat % 0x2000 / 16 * 16 + v.toNat % 8)) s
  if fbit v 0 && !was then { s with trace := { s.trace with sinceEn := 0 } } else s

/-! ## Guard memories as the system bus sees them (R395, R405, R513, R516, R543) -/

/-- A read of the guard memories: the overlay and sample RAMs answer only Wingcase and Choir, and the map of the TCM is
not given, so what is read there is left open. -/
def guardRead (a n : Nat) (s : State) : Nat × State :=
  if 0x50050000 ≤ a && a + n ≤ 0x50070000 then (leAt (gmemRead s a n) 0 n, s)
  else
    let (f, s) := freeVal s
    (f % 256 ^ n, s)

/-- A write of the guard memories: the overlay, sample and trace RAMs take it. -/
def guardWrite (a : Nat) (l : List Byte) (s : State) : State :=
  if 0x50000000 ≤ a && a + l.length ≤ 0x50060000 then gmemWrite a l s else s

end Sys2Proof.Machine
end

