-- ==== Sys2Proof/Machine/Dram.lean ====
section
/-! DEFINITION. DRAM channels beside their accesses: refresh slots and density (R236 to R239), self-refresh (R240), MR4
(R237) and scrubbing (R255). -/
namespace Sys2Proof.Machine

def drReg (a c : Nat) : Nat := a + c * 0x1000
def drTrained (s : State) (c : Nat) : Bool := rdB s (drReg Rg.DRAMC_STAT c) 1

/-- The channel serves accesses (R240). -/
def drServes (s : State) (c : Nat) : Bool := enabled s (Pg.DRAMC + c)

/-- Start beats of a channel's refresh slots: the score's, else those of the boot timetable (R237, R238). -/
def refreshPattern (s : State) (c : Nat) : List Nat :=
  match s.cantor.score with
  | some x => kvGet [] x.refresh c
  | none => (List.range 16).map (4 * ·)

/-- DENSITY of every present channel shows D in force (R237). -/
def densitySync (s : State) : State :=
  (channels s.member).foldl (fun s c => wrF (drReg Rg.DRAMC_STAT c) 12 8 (refreshPattern s c).length s) s

/-- Refreshes needed per line for an MR4 refresh rate (R237). -/
def neededFor (rate : Nat) : Nat :=
  match rate with
  | 0 => 1
  | 1 => 2
  | 2 => 4
  | 3 => 8
  | _ => 16

/-- Refreshes that a channel needs in the present line. -/
def refreshNeeded (s : State) (c : Nat) : Nat := kvGet 0 s.ms.needed c

/-- MR4 of a channel read: its density governs from the next line, and a temperature above range is reported (R237,
R239). -/
def mr4Read (c rate : Nat) (s : State) : State :=
  let s := wrF (drReg Rg.DRAMC_STAT c) 6 4 rate s
  let s := { s with ms := { s.ms with nextNeeded := kvPut 0 s.ms.nextNeeded c (neededFor rate) } }
  if rate == 5 then raiseFault 9 (Pg.DRAMC + c) 0 0 (setEvt (Pg.DRAMC + c) 3 s) else s

/-- A line begins: the densities read in the line before govern (R237). -/
def refreshLine (s : State) : State := { s with ms := { s.ms with needed := s.ms.nextNeeded } }

/-- A refresh slot of the channel starts at the present beat (R236). -/
def slotDue (s : State) (c : Nat) : Bool :=
  s.clk.running && drTrained s c && drServes s c && s.clk.sub == 0 && (refreshPattern s c).contains s.clk.beat

/-- A refresh slot: lengthened when more refreshes are needed than D, and the added beats counted (R239). -/
def refreshSlot (c : Nat) (s : State) : State :=
  let d := (refreshPattern s c).length
  let add := 2 * ceilDiv (refreshNeeded s c) d - 2
  if refreshNeeded s c ≤ d then s
  else
    let a := drReg Rg.DRAMC_REF_STOLEN c
    setEvt (Pg.DRAMC + c) 2 (wr a (satAdd (rd s a) add) s)

/-- BLK_CTRL.ENABLE of a channel as SELF_REFRESH shows it (R240). -/
def selfRefresh (c : Nat) (s : State) : State := wrB (drReg Rg.DRAMC_STAT c) 2 (!drServes s c) s

/-! ## Scrubbing (R255) -/

def scrubStaves (s : State) (c : Nat) : Nat := rdF s (drReg Rg.DRAMC_SCRUB c) 15 0
def scrubPos (s : State) (c : Nat) : Nat := rdF s (drReg Rg.DRAMC_SCRUB_POS c) 25 0
def scrubStart (s : State) (c : Nat) : Nat := kvGet 0 s.ms.scrubStart c / 2
def scrubDone (s : State) (c : Nat) : Bool := kvGet 0 s.ms.scrubStart c % 2 == 1
def putScrub (c start : Nat) (done : Bool) (s : State) : State :=
  { s with ms := { s.ms with scrubStart := kvPut 0 s.ms.scrubStart c (2 * start + b2n done) } }

/-- The staves of the pass have ended. -/
def scrubOver (s : State) (c : Nat) : Bool := scrubStart s c + scrubStaves s c ≤ s.clk.staves

/-- The scrubber may read a line now: it runs, and its pass is not complete, or the next one begins. -/
def scrubMay (s : State) (c : Nat) : Bool :=
  s.clk.running && drServes s c && scrubStaves s c != 0 && (!scrubDone s c || scrubOver s c)

/-- The words of a scrubbed line: each error reported, then rewritten corrected or marked, unless the LLC holds the line
modified. -/
def scrubLine (pa : Nat) (s : State) : State :=
  let bad := ((List.range 8).map (pa + 8 * ·)).filter fun w => markOf s w != 0
  let marker := poisoned s pa
  let t := bad.foldl (fun t w => reportErr w (markOf s w) true t) s
  let t := if marker then reportErr pa 4 true t else t
  if bad.isEmpty then t
  else
    let (modified, t) := if kvGet false s.ms.dirty (pa / 64) then freeBit t else (false, t)
    if modified then t else bad.foldl (fun t w => if markOf s w ≤ 2 then setMark w 0 t else poisonWord w t) t

/-- The scrubber reads the next line of the channel; the memory answers with a syndrome class for one of its words, or
with a marker of the line. -/
def scrubRead (c word cls : Nat) (s : State) : State :=
  let s := if scrubDone s c then putScrub c s.clk.staves false s else s
  let pos := scrubPos s c
  let pa := chanGlobal s.member c (64 * pos)
  let s := if cls == 0 then s
    else if cls == 4 then setPoison pa true s
    else setMark (pa + 8 * (word % 8)) (max cls (markOf s (pa + 8 * (word % 8)))) s
  let s := scrubLine pa s
  let last := pos + 1 == chanSize / 64
  let s := wr (drReg Rg.DRAMC_SCRUB_POS c) (w32 (if last then 0 else pos + 1)) s
  if !last then s
  else if scrubOver s c then putScrub c (scrubStart s c) true s
  else wrB (drReg Rg.DRAMC_SCRUB c) 31 false (putScrub c (scrubStart s c) true s)

/-- The staves of a pass end with lines still to read. -/
def scrubBehind (c : Nat) (s : State) : State :=
  setEvt (Pg.DRAMC + c) 4 (wrB (drReg Rg.DRAMC_SCRUB c) 31 true (putScrub c s.clk.staves false s))

def scrubBehindDue (s : State) (c : Nat) : Bool := scrubStaves s c != 0 && !scrubDone s c && scrubOver s c

end Sys2Proof.Machine
end

