-- ==== Sys2Proof/Machine/Rings.lean ====
section
/-! DEFINITION. Rings (07_rings_and_admission.md): doorbells, ring states, descriptor and header fetches, and admission at
a line boundary (R161 to R165, R271, R283, R367). -/
namespace Sys2Proof.Machine

/-! ## Ring registers -/

abbrev ringSqTail (r : Nat) : Nat := ringReg Rg.RINGSTATE_SQ_TAIL r
abbrev ringCqHead (r : Nat) : Nat := ringReg Rg.RINGSTATE_CQ_HEAD r
abbrev ringCtrl (r : Nat) : Nat := ringReg Rg.RINGSTATE_CTRL r
abbrev ringStopInfo (r : Nat) : Nat := ringReg Rg.RINGSTATE_STOP_INFO r
abbrev ringAdmitted (r : Nat) : Nat := ringReg Rg.RINGSTATE_ADMITTED r

/-- The ring accepts doorbells (R150). -/
def ringOpen (s : State) (r : Nat) : Bool := ringState s r == ringActive || ringState s r == ringStopped

/-! ## Doorbells (R32, R151) -/

def doorTailOk (s : State) (r : Nat) (v : W32) : Bool :=
  between32 v.toNat (sqTail s r) ((sqHead s r + 2 ^ sqOrder s r) % 0x100000000)

def doorHeadOk (s : State) (r : Nat) (v : W32) : Bool := between32 v.toNat (cqHead s r) (cqTail s r)

/-- The linear line whose boundary R32 assigns to a doorbell that arrives now. -/
def doorLine (s : State) : Nat := if s.clk.beat < 56 then linLine s + 1 else linLine s + 2

/-- A new SQ_TAIL taken, with the line from which admission considers the slots it covers (R159). -/
def doorTail (r : Nat) (v : W32) (s : State) : State :=
  if v.toNat == sqTail s r then s
  else wr (ringSqTail r) v { s with adm := { s.adm with marks := s.adm.marks ++ [⟨r, v.toNat, doorLine s⟩] } }

def doorHead (r : Nat) (v : W32) (s : State) : State := wr (ringCqHead r) v s

/-- F of a descriptor: the mark of the doorbell that first covered it (R159). -/
def fOf (s : State) (r seq : Nat) : Nat :=
  match s.adm.marks.find? fun m => m.ring == r && 1 ≤ sub32 m.tail seq && sub32 m.tail seq ≤ 0x10000 with
  | some m => m.f
  | none => linLine s

/-- Marks that no descriptor needs any more. -/
def dropMarks (r : Nat) (s : State) : State :=
  { s with adm := { s.adm with marks := s.adm.marks.filter fun m => !(m.ring == r && m.tail == sqHead s r) } }

/-! ## Ring states (R149, R150, R189) -/

/-- The ring's orders allow an enable (R149). -/
def ringOrdersOk (s : State) (r : Nat) : Bool :=
  4 ≤ sqOrder s r && sqOrder s r ≤ 16 && 4 ≤ cqOrder s r && cqOrder s r ≤ 16

def ringEnable (r : Nat) (s : State) : State := setRingState r ringActive (wrB (ringCtrl r) 0 true s)

/-- CTRL.ENABLE cleared: DISABLED from the next line boundary (R150). -/
def ringDisable (r : Nat) (s : State) : State :=
  let s := wrB (ringCtrl r) 0 false s
  if ringOpen s r && !s.adm.disabling.contains r then { s with adm := { s.adm with disabling := s.adm.disabling ++ [r] } } else s

/-- The read waits for the host. -/
def FetchRes.waits : FetchRes → Bool
  | .waiting _ _ => true
  | _ => false

/-- Reads of a ring still under way bring nothing any more (R153). -/
def dropFetches (r : Nat) (s : State) : State :=
  let kept := s.adm.fetches.filter fun f => f.ring != r || f.res.waits
  { s with adm := { s.adm with fetches := kept.map fun f => if f.ring == r then { f with dropped := true } else f } }

/-- The state that a completed ring reset leaves (R150 steps 3 and 4, R189). -/
def ringZero (r : Nat) (s : State) : State :=
  let e := (ringEpoch s r + 1) % 0x10000
  let s := wr (ringReg Rg.RINGSTATE_STATE r) (w32 e) (wr (ringStopInfo r) 0 s)
  let s := wr (ringSqTail r) 0 (wr (ringReg Rg.RINGSTATE_SQ_HEAD r) 0 s)
  let s := wr (ringReg Rg.RINGSTATE_CQ_TAIL r) 0 (wr (ringCqHead r) 0 s)
  let s := wr (ringReg Rg.RINGSTATE_COUNTS r) 0 (wr (ringAdmitted r) 0 (wrB (ringCtrl r) 1 false (wrB (ringCtrl r) 0 false s)))
  { s with adm := { s.adm with marks := s.adm.marks.filter (·.ring != r), disabling := s.adm.disabling.filter (· != r) } }

/-- A ring reset completes when INFLIGHT is 0; a window still open is announced first (R150, R180). -/
def ringResetDone (r : Nat) (s : State) : State :=
  if ringState s r != ringResetting || inflight s r != 0 then s
  else ringZero r (if (modOf s r).p == 0 then s else fire r s)

/-- A write of RING_RESET (R150). -/
def ringReset (r : Nat) (s : State) : State :=
  let s := dropFetches r (putQueue r [] s)
  ringResetDone r (wrB (ringCtrl r) 1 true (setRingState r ringResetting s))

/-- An invocation ends without a record; its job-table entry is free (R137 step 3). -/
def abandon (k : Nat) (s : State) : State :=
  let s := stopRuns k (cancelUnfired k s)
  { s with cantor := { s.cantor with jobs := kvErase s.cantor.jobs k }
           adm := { s.adm with restart := s.adm.restart.filter (·.1 != k) } }

/-- A ring undergoes an FLR of its owner (R137 steps 2 to 4). -/
def ringFlr (r : Nat) (s : State) : State :=
  ringZero r (putMod r ModSt.reset (dropFetches r (putQueue r [] s)))

/-! ## Descriptor fetch (R153, R154) -/

/-- The reads of a ring in flight that still count. -/
def fetchesOf (s : State) (r : Nat) : List Fetch := s.adm.fetches.filter fun f => f.ring == r && !f.dropped

/-- A non-posted read leaves or ends (R125): NP_OUT.NOW and PEAK. -/
def npSet (n : Nat) (s : State) : State :=
  let s := wrF Rg.HOST_NP_OUT 9 0 n s
  if rdF s Rg.HOST_NP_OUT 25 16 < n then wrF Rg.HOST_NP_OUT 25 16 n s else s

def npNow (s : State) : Nat := rdF s Rg.HOST_NP_OUT 9 0

/-- One 64-byte read of the ring engine: what it brings at once, or a read of the host under way. -/
def ringRead (rr : RegRead) (w : Who) (acc va len : Nat) (s : State) : FetchRes × State :=
  match translate w.ctx w.half acc va s with
  | (.flt f, s) => (.bad (xStatus f.kind), xLog w acc va f s)
  | (.ok o, s) =>
    if o.host then (.waiting o.pa (linLine s), npSet (npNow s + 1) (emitTlp (.hostRead w.ctx o.pa len) s).2)
    else if targetOf s.member o.pa == .regs then
      let (d, s) := regBytes rr (ctxOrigin w.ctx) o.pa len s
      (.got d, s)
    else
      let (d, bad, s) := homeRead w.half o.cls o.pa len s
      (if bad == 0 then .got d else .bad 0x0406, s)

/-- The ring may start a descriptor read (R125, R153, R183). -/
def fetchMay (s : State) (r : Nat) : Bool :=
  let n := (fetchesOf s r).length
  r < nRings s.member && ringState s r == ringActive && mayIssue s (ringOwner s r) && queuedN s r + n < 8
    && n < sub32 (sqTail s r) (sqHead s r) && npNow s < 768

/-- One descriptor read started, in slot order (R153). -/
def fetchStart (rr : RegRead) (r : Nat) (s : State) : State :=
  if !fetchMay s r then s
  else
    let seq := (sqHead s r + (fetchesOf s r).length) % 0x100000000
    let o := ringOwner s r
    let va := rd64 s (ringReg Rg.RINGSTATE_SQ_BASE_LO r) + 64 * (seq % 2 ^ sqOrder s r)
    let (res, s) := ringRead rr ⟨o, 0x48, 0, r, seq, 0, true⟩ accDesc va 64 s
    { s with adm := { s.adm with fetches := s.adm.fetches ++ [⟨r, seq, o, res, false⟩] } }

/-- A failed read of the host counted (R126). -/
def cplErr (s : State) : State := emit (.aer 1) (bump Rg.HOST_CPL_ERR (setEvt Pg.HOST 6 s))

/-- A record of an invocation that did not start (R157, R159). -/
def plainRec (s : State) (r owner epoch sub status defer detail flags kind : Nat) : Rec :=
  { ring := r, owner := owner, epoch := epoch, status := status, subSeq := sub, deferLines := defer, kind := kind,
    flags := flags, stime := stimeNow s, startLine := 0xFFFF, core := 0xFF, ncores := 0, detail := detail, job := none }

/-- The invocation that a descriptor asks for (R155). -/
def parseDesc (s : State) (r owner : Nat) (l : List Byte) : Invoc :=
  { ring := r, owner := owner, epoch := leAt l 4 2, subSeq := leAt l 0 4, opcode := leAt l 6 1, note := bit (leAt l 7 1) 0,
    maxWait := leAt l 8 2, failMode := leAt l 12 1 % 2, restartMax := leAt l 12 1 / 2 % 8, restarts := 0,
    fragVa := leAt l 16 8, argsVa := leAt l 24 8, args := (l.drop 32).take 32, f := fOf s r (leAt l 0 4),
    fetched := leAt l 6 1 != 1, frag := none, bad := 0, notBefore := 0, deferred := false, noted := false,
    noteSkipped := false, poolWait := false, guar := false, elastic := false, startLine := 0, startLin := 0, cores := [] }

/-- A descriptor read that brought a failure stops the ring (R154). -/
def descFault (r status : Nat) (s : State) : State :=
  let s := recMake (plainRec s r (ringOwner s r) (ringEpoch s r) (sqHead s r) status 0 0 0 0) (dropFetches r s)
  ringStop r 3 s

/-- A descriptor checked in slot order: accepted, or it stops the ring (R153). -/
def descCheck (r owner : Nat) (l : List Byte) (s : State) : State :=
  let sub := leAt l 0 4
  let ep := leAt l 4 2
  let head := sqHead s r
  if sub == head && ep == ringEpoch s r then
    let x := parseDesc s r owner l
    let s := putQueue r (queueOf s r ++ [x]) (wr (ringReg Rg.RINGSTATE_SQ_HEAD r) (w32 (head + 1)) s)
    dropMarks r s
  else
    let s := recMake (plainRec s r (ringOwner s r) (ringEpoch s r) sub 0x0201 0 head 0 0) (dropFetches r s)
    ringStop r (if ep == ringEpoch s r then 1 else 2) (wr (ringStopInfo r) (w32 sub) s)

/-- The first read of a ring arrives: its data, or its failure (R126, R153, R154). -/
def descArrive (r : Nat) (data : Option (List Byte)) (s : State) : State :=
  match s.adm.fetches.find? (·.ring == r) with
  | none => s
  | some f =>
    let s := { s with adm := { s.adm with fetches := s.adm.fetches.erase f } }
    let s := if f.res.waits then npSet (npNow s - 1) s else s
    match f.res, data with
    | .got l, _ => if f.dropped then s else descCheck r (ringOwner s r) l s
    | .bad st, _ => if f.dropped then s else descFault r st s
    | .waiting pa _, some l =>
      let s := hymnRec hyHostCpl f.owner pa l s
      if f.dropped then s else descCheck r (ringOwner s r) l s
    | .waiting pa _, none =>
      let s := hymnRec hyHostCpl f.owner pa (toLE 1 1) s
      if f.dropped then cplErr s else descFault r 0x0406 (cplErr s)

/-- A queued invocation replaced, by SUB_SEQ. -/
def putInvoc (x : Invoc) (s : State) : State :=
  putQueue x.ring ((queueOf s x.ring).map fun y => if y.subSeq == x.subSeq then x else y) s

/-- The fragment header and task list of an accepted descriptor arrive, or their failure (R153, R154, R271, R272). -/
def headerArrive (rr : RegRead) (r sub : Nat) (s : State) : State :=
  match (queueOf s r).find? fun x => x.subSeq == sub && !x.fetched with
  | none => s
  | some x =>
    let w : Who := ⟨ringOwner s r, 0x48, 0, r, sub, 0, true⟩
    let s0 := s
    match xRead rr w accHeader x.fragVa 64 s with
    | (.error e, s) => if e.held then s0 else putInvoc { x with fetched := true, bad := e.status } s
    | (.ok h, s) =>
      match xRead rr w accHeader (fragTaskVa h) (fragTaskLen h) s with
      | (.error e, s) => if e.held then s0 else putInvoc { x with fetched := true, bad := e.status } s
      | (.ok t, s) => putInvoc { x with fetched := true, frag := parseFrag h t, bad := if (parseFrag h t).isSome then 0 else 0x0202 } s

/-! ## Admission (R161 to R165) -/

/-- An offered head; a restarting invocation carries its job key (R283). -/
structure Cand where
  x : Invoc
  rst : Option Nat
  deriving DecidableEq, Repr

def candFrag (c : Cand) : Frag := c.x.frag.getD ⟨0, 0, 0, 0, 0, 0, []⟩
def candSpan (c : Cand) : Nat := ceilDiv (candFrag c).beats 64
def candCost (c : Cand) : Nat := (candFrag c).cores * 64 * candSpan c

/-- Free slots of a ring's completion queue beyond a count (R160, R162). -/
def cqRoom (s : State) (r n : Nat) : Bool := n + sub32 (cqTail s r) (cqHead s r) ≤ 2 ^ cqOrder s r

/-- A function takes part in admission (R137, R142, R162, R183). -/
def ownerOk (s : State) (n : Nat) : Bool := (n == 0 || (tenExists s n && tenEnabled s n)) && mayIssue s n

/-- A ring's head is offered (R162). -/
def headOffered (s : State) (r : Nat) (x : Invoc) : Bool :=
  ownerOk s x.owner && ringOpen s r && x.notBefore ≤ linLine s && x.f ≤ linLine s && cqRoom s r (inflight s r + 1)

/-- The heads offered at this boundary, in ascending ring order; a restart stands ahead of its ring's head (R162, R283). -/
def offeredHeads (s : State) : List Cand :=
  let rsts := s.adm.restart.map fun e => (e.2.2.ring, (⟨e.2.2, some e.1⟩ : Cand))
  let heads := s.adm.queued.filterMap fun q => match q.2 with
    | x :: _ => if headOffered s q.1 x && !rsts.any (·.1 == q.1) then some (q.1, (⟨x, none⟩ : Cand)) else none
    | [] => none
  let all := heads ++ rsts.filter fun e => e.2.x.notBefore ≤ linLine s
  ((List.range all.length).foldl (fun (acc : List (Nat × Cand) × List (Nat × Cand)) _ =>
    match acc.1 with
    | [] => acc
    | a :: r =>
      let m := r.foldl (fun m e => if e.1 < m.1 then e else m) a
      (acc.1.erase m, acc.2 ++ [m])) (all, [])).2.map (·.2)

/-- UNITS names an absent Chafer (R50). -/
def unitsAbsent (m : Member) (u : Nat) : Bool :=
  (bit u 0 && !present m Pg.CHAFER) || (bit u 1 && !present m (Pg.CHAFER + 1))

/-- Present cores of a half. -/
def halfCores (m : Member) (h : Nat) : List Nat := (coresOf m).filter (halfOf · == h)

/-- The status and DETAIL with which an offered head ends before the passes, if any (R156, R163, R164, R459). -/
def admCheck (s : State) (c : Cand) : Option (Nat × Nat) :=
  let x := c.x
  if gated s 2 x.ring then some (0x0403, 0)
  else if !x.fetched then none
  else if x.opcode == 0 then some (0, 0)
  else if x.opcode != 1 || x.bad == 0x0202 then some (0x0202, 0)
  else if x.bad != 0 then some (x.bad, 0)
  else if unitsAbsent s.member (candFrag c).units then some (0x0105, 0)
  else if (halves s.member).all (fun h => (halfCores s.member h).length < (candFrag c).cores) || 1250 < candSpan c then some (0x0102, 2)
  else if (tenUse s x.owner).ceil < candCost c then some (0x0102, 1)
  else if c.rst.isNone && fld (tenCfg s x.owner) 16 4 ≤ jobsHeld s x.owner then some (0x0102, 3)
  else if c.rst.isNone && x.maxWait != 0xFFFF && x.f + x.maxWait < linLine s then some (0x0103, 0)
  else none

/-- The flags of a record of an invocation that did not start (R157). -/
def waitFlags (s : State) (x : Invoc) : Nat :=
  b2n (x.f / 1250 < linLine s / 1250) * 4 + b2n x.noteSkipped * 8 + b2n x.poolWait * 16

/-- DEFER_LINES of an end without a start (R159). -/
def endDefer (s : State) (x : Invoc) (status : Nat) : Nat :=
  if 0x0102 ≤ status && status ≤ 0x0104 then min (linLine s - x.f) 0xFFFF else 0

/-- The counter of a refusal (ADMIT.N_LATE, N_QUOTA, N_POOL, N_ABSENT). -/
def countRefusal (status : Nat) (s : State) : State :=
  if status == 0x0103 then bump (Rg.ADMIT_COUNTS + 8) s
  else if status == 0x0102 then bump (Rg.ADMIT_COUNTS + 12) s
  else if status == 0x0104 then bump (Rg.ADMIT_COUNTS + 16) s
  else if status == 0x0105 then bump (Rg.ADMIT_COUNTS + 20) s
  else s

/-- An offered head ends with a status (R163). -/
def admFinish (c : Cand) (status detail : Nat) (s : State) : State :=
  let s := countRefusal status s
  let s := if status == 0x0403 then setEvt Pg.AGEWATCH 1 s else s
  match c.rst with
  | none =>
    let x := c.x
    let s := recMake (plainRec s x.ring x.owner x.epoch x.subSeq status (endDefer s x status) detail (waitFlags s x) 0) s
    putQueue x.ring ((queueOf s x.ring).drop 1) s
  | some k =>
    let s := { s with adm := { s.adm with restart := s.adm.restart.filter (·.1 != k) } }
    match jobAt s k with
    | none => s
    | some j =>
      let j := { j with done := true, status := status, state := 0 }
      recMake { finalRec k j c.x s with detail := detail } (putJob k j s)

/-- A head's own record of its wait, in its queue or in the restart list. -/
def putCand (c : Cand) (s : State) : State :=
  match c.rst with
  | none => putInvoc c.x s
  | some k =>
    let put := fun (e : Nat × Nat × Invoc) => if e.1 == k then (k, e.2.1, c.x) else e
    { s with adm := { s.adm with restart := s.adm.restart.map put } }

/-- A deferral to line 0 of the next stave, with its note (R160, R165). -/
def admDefer (c : Cand) (s : State) : State :=
  let nl := (linLine s / 1250 + 1) * 1250
  let x := { c.x with notBefore := nl, deferred := true }
  let s := setEvt Pg.ADMIT 1 (bump (Rg.ADMIT_COUNTS + 4) s)
  if !x.note || x.noted then putCand { c with x := x } s
  else if cqRoom s x.ring (inflight s x.ring + 2) then
    recMake (plainRec s x.ring x.owner x.epoch x.subSeq 0x0101 (min (nl - x.f) 0xFFFF) 0 (4 + b2n x.poolWait * 16) 1)
      (putCand { c with x := { x with noted := true } } s)
  else putCand { c with x := { x with noted := true, noteSkipped := true } } s

/-- Another invocation holds a core now (R161). -/
def coreHeld (s : State) (core : Nat) : Bool :=
  s.cantor.jobs.any fun e => e.2.kind == 2 && !e.2.done && e.2.cores.contains core && linLine s < e.2.startLin + e.2.span

/-- A core qualifies for n lines from this boundary (R161). -/
def coreFits (s : State) (n core : Nat) : Bool :=
  rdB s Rg.ADMIT_CORE_MASK core && !fenced s (Pg.CORE + core) && !coreHeld s core
    && (List.range n).all fun i => coreOpen s core (s.clk.line + i)

/-- Score jobs of a half in force, and its invocation range of operand slots; under the boot score every slot is in it
(log 31). -/
def nsjobOf (s : State) (h : Nat) : Nat := match s.cantor.score with | some c => c.nsjob.getD h 0 | none => 0
def oslotOf (s : State) (h : Nat) : Nat × Nat :=
  match s.cantor.score with
  | some c => (c.oslotBase.getD h 0, c.oslotCnt.getD h 0)
  | none => (0, 4096)

/-- The lowest free job entry of a half for an invocation (R257). -/
def freeJob (s : State) (h : Nat) : Option Nat :=
  ((List.range 4096).drop (nsjobOf s h)).find? fun j => (jobAt s (invKey h j)).isNone

/-- Slot blocks held by invocations of a half. -/
def slotBlocks (s : State) (h : Nat) : List (Nat × Nat) :=
  (s.cantor.jobs.filter fun e => keyHalf e.1 == h && e.2.kind == 2 && !e.2.done && e.2.nslot != 0).map fun e => (e.2.slotBase, e.2.nslot)

/-- The lowest base at which n contiguous slots of the range are free (R273). -/
def freeSlots (s : State) (h n : Nat) : Option Nat :=
  let (b, c) := oslotOf s h
  let held := slotBlocks s h
  if n == 0 then some b
  else if c < n then none
  else ((List.range (c - n + 1)).map (b + ·)).find? fun x => held.all fun k => x + n ≤ k.1 || k.1 + k.2 ≤ x

/-- A Chafer that a fragment names takes an open survey (R367). -/
def chaferTakes (s : State) (h : Nat) : Bool :=
  let p := Pg.CHAFER + h
  (chaferOpens s h).length < 16 && rdB s (Rg.CHAFER_OPEN_CFG + h * 0x1000) 0 && enabled s p && !fenced s p

/-- Where an invocation can be placed: half, cores, job key and slot base (R161, R164, R273, R277, R367). -/
def findPlace (s : State) (c : Cand) : Option (Nat × List Nat × Nat × Nat) :=
  let g := candFrag c
  let n := candSpan c
  if 1250 < s.clk.line + n || (bit g.units 0 && !chaferTakes s 0) || (bit g.units 1 && !chaferTakes s 1) then none
  else
    (halves s.member).findSome? fun h =>
      if (c.rst.any fun k => keyHalf k != h) then none
      else
        let cs := ((halfCores s.member h).filter (coreFits s n)).take g.cores
        let key := match c.rst with
          | some k => some k
          | none => (freeJob s h).map (invKey h)
        let base := match c.rst.bind (jobAt s) with
          | some j => some j.slotBase
          | none => freeSlots s h g.nslot
        let room := ((s.cantor.delay1.filter (·.half == h)).length + g.tasks.length) ≤ 1024
        match key, base with
        | some k, some b => if cs.length == g.cores && room then some (h, cs, k, b) else none
        | _, _ => none

/-- The written bits of a core's scratch cleared for an invocation (R291). -/
def clearWritten (core : Nat) (s : State) : State :=
  { s with ms := { s.ms with written := s.ms.written.filter fun e => e.1 / 65536 != core } }

/-- A task of an invocation placed at a line (R272). -/
def invocWait (h k lin : Nat) (cs : List Nat) (base tag : Nat) (t : TaskEnt) : Wait where
  half := h
  job := k
  inv := true
  core := cs.getD t.core 0
  task := t
  line := lin + t.line
  planned := (lin + t.line) * 64 + t.beat
  tag := tag
  slot := base + t.slot
  bufs := []
  taken := false
  cmds := []
  fetched := 0
  fetchErr := none

/-- An invocation starts at the line that begins (R157, R161, R272, R367, R517). -/
def startInvoc (c : Cand) (h : Nat) (cs : List Nat) (k base : Nat) (bufs : List Nat) (s : State) : State :=
  let g := candFrag c
  let lin := linLine s
  let x := { c.x with startLine := s.clk.line, startLin := lin, cores := cs }
  let old := jobAt s k
  let j : Job :=
    { kind := 2, state := 1, failMode := x.failMode, restartMax := x.restartMax, restarts := (old.map (·.restarts)).getD 0,
      status := 0, signal := false, ring := x.ring, subSeq := x.subSeq, start := s.clk.line, startLin := lin,
      span := candSpan c, tasksLeft := g.tasks.length, cores := cs, slotBase := base, nslot := g.nslot, pool := g.pool,
      bufs := bufs.map (· + g.pool * 0x10000), inv := some x, done := false, saved := 0 }
  let s := putJob k j s
  let s := match c.rst with
    | some _ => { s with adm := { s.adm with restart := s.adm.restart.filter (·.1 != k) } }
    | none =>
      let s := putQueue x.ring ((queueOf s x.ring).drop 1) s
      bump Rg.ADMIT_COUNTS (bumpWrap (ringAdmitted x.ring) (setInflight x.ring (inflight s x.ring + 1) s))
  let s := cs.foldl (fun s core => clearWritten core s) s
  let s := traceEvt 6 (cs.headD 0) x.ring s
  let waits := g.tasks.map (invocWait h k lin cs base (s.clk.snum % 16))
  let opens := [0, 1].filter fun u => bit g.units u
  let s := opens.foldl (fun s u =>
    let e : OpenEnt := ⟨k, x.owner, x.ring, x.subSeq, x.argsVa + 64 * u⟩
    putOpens u (chaferOpens s u ++ [e]) s) s
  let s := { s with cantor := { s.cantor with delay1 := s.cantor.delay1 ++ waits.filter (lin < ·.line) } }
  (waits.filter (·.line ≤ lin)).foldl (fun s w => enterReady w s) s

/-- place(): whether the head was placed, and whether POOL_EMPTY met it (R161, R163). -/
def admPlace (c : Cand) (s : State) : Bool × Bool × State :=
  match findPlace s c with
  | none => (false, false, s)
  | some (h, cs, k, b) =>
    let g := candFrag c
    if g.nbuf == 0 then (true, false, startInvoc c h cs k b [] s)
    else
      match allocMany 8 g.pool g.nbuf [] s with
      | (some l, s) => (true, false, startInvoc c h cs k b l s)
      | (none, s) => (false, true, putCand { c with x := { c.x with poolWait := true } } s)

/-- What the passes carry along: placements made, rings placed, rings that met POOL_EMPTY, the last tenant of pass 2. -/
structure AdmWork where
  placed : Nat
  done : List Nat
  poolFail : List Nat
  last : Option Nat
  any : Bool

def putUse (t n : Nat) (s : State) : State :=
  { s with adm := { s.adm with tens := kvPut TenUse.reset s.adm.tens t { tenUse s t with use := n } } }

/-- The present record of a candidate (its POOL_WAIT may have been set at this boundary). -/
def candNow (s : State) (c : Cand) : Cand :=
  match c.rst with
  | none => match (queueOf s c.x.ring).find? (·.subSeq == c.x.subSeq) with
    | some x => { c with x := x }
    | none => c
  | some k => match s.adm.restart.find? (·.1 == k) with
    | some e => { c with x := e.2.2 }
    | none => c

/-- One try of a candidate within a limit on its tenant's use (R163). -/
def admTry (guar : Bool) (lim : Nat) (c : Cand) (w : AdmWork) (s : State) : Bool × AdmWork × State :=
  let u := (tenUse s c.x.owner).use
  if rdF s Rg.ADMIT_LIMITS 6 0 ≤ w.placed || lim < u + candCost c || w.done.contains c.x.ring then (false, w, s)
  else
    let c := candNow s c
    let c := { c with x := { c.x with guar := guar, elastic := !guar } }
    let (ok, pf, s) := admPlace c s
    if ok then (true, { w with placed := w.placed + 1, done := c.x.ring :: w.done }, putUse c.x.owner (u + candCost c) s)
    else (false, if pf then { w with poolFail := c.x.ring :: w.poolFail } else w, s)

/-- Pass 1's order: priority descending, then ring ascending. -/
def prioSort (s : State) (l : List Cand) : List Cand :=
  (List.range 8).flatMap fun i => l.filter fun c => (tenUse s c.x.owner).prio == 7 - i

/-- Pass 1: guaranteed work (R163). -/
def admPass1 (l : List Cand) (w : AdmWork) (s : State) : AdmWork × State :=
  (prioSort s l).foldl (fun (x : AdmWork × State) c =>
    let (_, w, s) := admTry true (tenUse x.2 c.x.owner).guar c x.1 x.2
    (w, s)) (w, s)

/-- One tenant's turn in a round of pass 2: at most one placement. -/
def admTurn (l : List Cand) (t : Nat) (w : AdmWork) (s : State) : AdmWork × State :=
  ((l.filter (·.x.owner == t)).foldl (fun (x : Bool × AdmWork × State) c =>
    if x.1 then x
    else
      let (ok, w, s) := admTry false (tenUse x.2.2 t).ceil c x.2.1 x.2.2
      (ok, if ok then { w with any := true, last := some t } else w, s)) (false, w, s)).2

/-- Pass 2: elastic work, round-robin by tenant, at most as many rounds as heads (R163). -/
def admPass2 (l : List Cand) : Nat → AdmWork → State → AdmWork × State
  | 0, w, s => (w, s)
  | n + 1, w, s =>
    let rr := rdF s Rg.ADMIT_RR_NEXT 6 0
    let (w, s) := (List.range 65).foldl (fun (x : AdmWork × State) k => admTurn l ((rr + k) % 65) x.1 x.2)
      ({ w with any := false }, s)
    if w.any then admPass2 l n w s else (w, s)

/-- A head that neither pass placed (R163). -/
def admLoser (poolFail : List Nat) (c : Cand) (s : State) : State :=
  let c := candNow s c
  let x := c.x
  let u := tenUse s x.owner
  let limited := c.rst.isNone && x.maxWait != 0xFFFF
  if u.ceil < u.use + candCost c then
    if limited && x.f + x.maxWait < (linLine s / 1250 + 1) * 1250 then admFinish c 0x0103 0 s else admDefer c s
  else if limited && x.f + x.maxWait ≤ linLine s then
    admFinish c (if poolFail.contains x.ring then 0x0104 else 0x0103) 0 s
  else s

/-- Admission at a line boundary (R163); none under a hold (R520). -/
def admission (s : State) : State :=
  if held s then s
  else
    let heads := offeredHeads s
    let s := heads.foldl (fun s c => match admCheck s c with
      | some (st, d) => admFinish c st d s
      | none => s) s
    let live := heads.filter fun c => c.x.fetched && (match c.rst with
      | none => (queueOf s c.x.ring).any (·.subSeq == c.x.subSeq)
      | some k => s.adm.restart.any (·.1 == k))
    let (w, s) := admPass1 live ⟨0, [], [], none, false⟩ s
    let (w, s) := admPass2 live (live.length + 1) w s
    let s := match w.last with
      | some t => wrF Rg.ADMIT_RR_NEXT 6 0 ((t + 1) % 65) s
      | none => s
    (live.filter fun c => !w.done.contains c.x.ring).foldl (fun s c => admLoser w.poolFail c s) s

/-- Restarting invocations release their buffers at the line boundary (R283). -/
def restartRelease (s : State) : State :=
  s.adm.restart.foldl (fun s e => match jobAt s e.1 with
    | some j => putJob e.1 { j with bufs := [] } (j.bufs.foldl (fun s h => freeBuf (h / 0x10000) (h % 0x10000) s) s)
    | none => s) s

/-- Rings told to become DISABLED do so (R150). -/
def applyDisabling (s : State) : State :=
  let l := s.adm.disabling
  l.foldl (fun s r => if ringOpen s r then setRingState r ringDisabled s else s) { s with adm := { s.adm with disabling := [] } }

end Sys2Proof.Machine
end

