-- ==== Sys2Proof/Machine/LinkOps.lean ====
section
/-! DEFINITION. Stave Link (R471 to R491): flits, launching, credits, training and peers, remote writes as they are
sent, faults of remote writes, calibration and lock. What a received flit does is in Link.lean. -/
namespace Sys2Proof.Machine

def slPg (p : Nat) : Nat := Pg.SLINK + p
def slReg (a p : Nat) : Nat := a + p * 0x1000
def linkPort (s : State) (p : Nat) : LinkPort := kvGet LinkPort.reset s.link.ports p
def putLink (p : Nat) (x : LinkPort) (s : State) : State :=
  { s with link := { s.link with ports := kvPut LinkPort.reset s.link.ports p x } }

def slUp (s : State) (p : Nat) : Bool := present s.member (slPg p) && rdB s (slReg Rg.SLINK_PORT_STAT p) 0
def devNum (s : State) : Nat := rdF s Rg.SLINK_DEV_NUM 2 0
/-- ROUTE[d] (R478). -/
def routeOf (s : State) (d : Nat) : Nat := b2n (rdB s Rg.SLINK_ROUTE d)
/-- The upstream port (R486). -/
def upstream (s : State) : Nat := routeOf s 0

/-! ## Flits (R473) -/

/-- One step of CRC-16, polynomial 0x1021, not reflected. -/
def crc16Step (c : Nat) : Nat → Nat
  | 0 => c
  | n + 1 => crc16Step (if bit c 15 then Nat.xor (c * 2 % 0x10000) 0x1021 else c * 2 % 0x10000) n

/-- CRC-16 of R473. -/
def crc16 (l : List Byte) : Nat := l.foldl (fun c b => crc16Step (Nat.xor c (b.toNat * 256)) 8) 0xFFFF

/-- Bytes 0 to 29 of a flit with CREDITS, ACK and ACK_VALID 0; the payload starts at byte 6. -/
def flitBody (type dst src fseq hops : Nat) (payload : List Byte) : List Byte :=
  toLE 1 (type % 16) ++ toLE 1 (dst % 8 + src % 8 * 8) ++ toLE 2 (fseq % 4096 + hops % 8 * 4096) ++ [0, 0]
    ++ (payload ++ List.replicate 24 0).take 24

def flitType (l : List Byte) : Nat := leAt l 0 1 % 16
def flitCredits (l : List Byte) : Nat := leAt l 0 1 / 16
def flitDst (l : List Byte) : Nat := leAt l 1 1 % 8
def flitSrc (l : List Byte) : Nat := leAt l 1 1 / 8 % 8
def flitSeq (l : List Byte) : Nat := leAt l 2 2 % 4096
def flitHops (l : List Byte) : Nat := leAt l 2 2 / 4096 % 8
def flitAck (l : List Byte) : Nat := leAt l 4 2 % 4096
def flitAckValid (l : List Byte) : Bool := bit (leAt l 4 2) 12
/-- A flit keeps its CRC. -/
def flitGood (l : List Byte) : Bool := l.length == 32 && crc16 (l.take 30) == leAt l 30 2
/-- Sequenced types (R474). -/
def flitSequenced (t : Nat) : Bool := 2 ≤ t && t ≤ 4

/-- A flit launched on a port: credits and acknowledgement filled in, the CRC formed, SLINK_TX passed (R473, R501). -/
def launch (p : Nat) (body : List Byte) (s : State) : State :=
  let x := linkPort s p
  let cr := min x.toReturn 15
  let s := putLink p { x with toReturn := x.toReturn - cr } s
  let ack := (x.rxSeq + 4095) % 4096 + b2n x.rxAny * 4096
  let l := toLE 1 (flitType body + cr * 16) ++ (body.drop 1).take 3 ++ toLE 2 ack ++ (body.drop 6).take 24
  let l := l ++ toLE 2 (crc16 l)
  match wvPass (0x38 + p) 0 l (fun l => some (.slinkTx p l)) s with
  | (.pass l _, s) => emit (.flit p l) s
  | (_, s) => s

/-- A flit of a type that belongs to the link itself (DST and SRC: log 35). -/
def linkFlit (s : State) (p type : Nat) (payload : List Byte) : List Byte :=
  flitBody type (rdF s (slReg Rg.SLINK_PEER p) 2 0) (devNum s) 0 0 payload

/-- UNACKED shows the sequenced flits not yet acknowledged. -/
def unackedSync (p : Nat) (s : State) : State :=
  wr (slReg Rg.SLINK_COUNTS p + 24) (w32 (linkPort s p).unacked.length) s

/-- Sequenced flits that wait are launched while credits and the bound of 512 allow (R475). -/
def pump (p : Nat) : Nat → State → State
  | 0, s => s
  | n + 1, s =>
    let x := linkPort s p
    match x.stalled with
    | [] => s
    | f :: r =>
      if x.credits == 0 || 512 ≤ x.unacked.length || !slUp s p then s
      else
        let b := toLE 1 (leAt f.body 0 1) ++ (f.body.drop 1).take 1
          ++ toLE 2 (x.txSeq + leAt f.body 2 2 / 4096 * 4096) ++ f.body.drop 4
        let g : SentFlit := ⟨x.txSeq, b, f.job⟩
        let s := putLink p { x with stalled := r, credits := x.credits - 1, txSeq := (x.txSeq + 1) % 4096,
                                    unacked := x.unacked ++ [g] } s
        pump p n (launch p b (unackedSync p s))

/-- A sequenced flit handed to a port (R475). -/
def sendSeq (p : Nat) (body : List Byte) (job : Option (Nat × Nat)) (s : State) : State :=
  let x := linkPort s p
  let s := putLink p { x with stalled := x.stalled ++ [⟨0, body, job⟩] } s
  pump p (linkPort s p).stalled.length s

def slCount (k p : Nat) (s : State) : State := bump (slReg Rg.SLINK_COUNTS p + 4 * k) s
/-- CRC_ERR, BAD_FLIT or RW_LOST incremented: EVT_STAT.ERR. -/
def slErr (k p : Nat) (s : State) : State := setEvt (slPg p) 3 (slCount k p s)

/-! ## Faults of remote writes (R483 to R485) -/

/-- A WRITE that failed is logged, and its job ends if it still runs (R483, R485). -/
def farFail (p lseq reason orig target addr tstime : Nat) (s : State) : State :=
  let x := linkPort s p
  let job := (x.recent.find? (·.1 == lseq)).map (·.2)
  let runs := match job with
    | some (k, inst) => (match jobAt s k with | some j => j.startLin == inst && !j.done | none => false)
    | none => false
  let e := toLE 8 (stimeNow s) ++ toLE 4 lseq ++ toLE 1 reason ++ toLE 1 orig ++ toLE 1 target ++ toLE 1 (b2n runs)
    ++ toLE 8 addr ++ toLE 8 tstime
  let h := rdN s (slReg Rg.SLINK_FLOG_HEAD p)
  let s := if sub32 h (rdN s (slReg Rg.SLINK_FLOG_TAIL p)) == 16 then bump (slReg Rg.SLINK_COUNTS p + 28) s
    else bumpWrap (slReg Rg.SLINK_FLOG_HEAD p) (wrWords (slReg Rg.SLINK_FLOG p + 32 * (h % 16)) (wordsOf e 8) s)
  match job, runs with
  | some (k, _), true =>
    let core := ((jobAt s k).map fun j => j.cores.headD 0xFF).getD 0xFF
    jobEnd k 0x0501 0 core 0 s
  | _, _ => s

/-! ## Training and peers (R471, R472, R477, R484) -/

/-- Cause LINK with an event code (R463). What INFO2 holds beside the codes 1 and 2 is left open. -/
def linkCause (p code : Nat) (info2 : Option Nat) (s : State) : State :=
  match info2 with
  | some v => raiseFault 15 (slPg p) code v s
  | none =>
    let (v, s) := freeVal s
    raiseFault 15 (slPg p) code (v % 0x100000000) s

/-- The port becomes UP or leaves UP (R477). -/
def peerChange (p : Nat) (up : Bool) (s : State) : State :=
  let a := slReg Rg.SLINK_PORT_STAT p
  let s := hwSet 5 a (setFld (rd s a) 0 0 (b2n up)) s
  linkCause p 3 none (setEvt (slPg p) 0 s)

/-- Lock is lost for a reason (R491). -/
def lockLoss (reason : Nat) (s : State) : State :=
  if !rdB s Rg.SLINK_LOCK_STAT 1 then s
  else
    let s := wrB Rg.STAVE_STAT 1 false s
    let s := hwSet 4 Rg.SLINK_LOCK_STAT (setFld (setFld (rd s Rg.SLINK_LOCK_STAT) 1 1 0) 10 8 reason) s
    let s := linkCause 0 1 (some reason) (setEvt Pg.SLINK 1 s)
    hymnRec hySlink 0 (upstream s) []
      { s with link := { s.link with adopt := none, missed := 0, barSeen := false } }

/-- Flits in the replay buffer are lost (R472, R484). -/
def loseUnacked (p : Nat) (s : State) : State :=
  let x := linkPort s p
  let ws := x.unacked.filter fun f => flitType f.body == 2
  let s := unackedSync p (putLink p { x with unacked := [] } s)
  ws.foldl (fun s f =>
    let s := slErr 5 p s
    farFail p (leAt f.body 16 4) 0xF (leAt f.body 20 1) (flitDst f.body) (leAt f.body 6 6) 0 s) s

/-- A port leaves UP: the lock on it goes with it (R477, R491). -/
def linkDown (p : Nat) (s : State) : State :=
  let s := if slUp s p then peerChange p false s else s
  let s := if upstream s == p then lockLoss 1 s else s
  let s := loseUnacked p s
  let x := linkPort s p
  putLink p { x with trained := false, idSent := false, idGot := false, rxAny := false } s

/-- Training begins (R471). -/
def linkTrain (p : Nat) (s : State) : State :=
  let s := wrB (slReg Rg.SLINK_PORT_STAT p) 1 true s
  putLink p { linkPort s p with trainLine := linLine s, trained := false } s

/-- ENABLE of a port's page written (R471). -/
def linkEnable (p : Nat) (old new : Bool) (s : State) : State :=
  if new && !old then linkTrain p s
  else if !new && old then wr (slReg Rg.SLINK_PORT_STAT p) 0 (linkDown p s)
  else s

/-- Training completes with the port's receive latency (R471). -/
def linkTrained (p lat : Nat) (s : State) : State :=
  let s := wr (slReg Rg.SLINK_RX_LAT p) (w32 (lat % 0x10000)) (wrB (slReg Rg.SLINK_PORT_STAT p) 1 false s)
  let x := linkPort s p
  putLink p { x with trained := true, idSent := false, idGot := false, idLine := linLine s, txSeq := 0, rxSeq := 0,
                     rxAny := false, credits := 64, toReturn := 0, replayN := 0 } s

/-- Loss of lane lock, or 32 replays in a line: the port retrains (R472). -/
def linkRetrain (p : Nat) (s : State) : State := linkTrain p (linkDown p s)

/-- The payload of an ID flit (R477); the serial is that of the tuning record (R116). -/
def idPayload (s : State) : List Byte :=
  toLE 1 (devNum s) ++ toLE 2 (match s.member with | .zs832f => 0x0832 | .zs816h => 0x0816 | .zs804q => 0x0804)
    ++ toLE 8 (leAt s.boot.tune 8 8)

/-- The port comes UP when ID flits have crossed in both directions (R477). -/
def linkUp (p : Nat) (s : State) : State :=
  let x := linkPort s p
  if x.idSent && x.idGot && !slUp s p && !rdB s (slReg Rg.SLINK_PORT_STAT p) 2 then
    pump p x.stalled.length (peerChange p true s)
  else s

/-- An ID flit sent (R477). -/
def idSend (p : Nat) (s : State) : State :=
  let s := launch p (linkFlit s p 1 (idPayload s)) s
  linkUp p (putLink p { linkPort s p with idSent := true, idLine := linLine s + 1 } s)

/-- An ID flit received (R477). -/
def idRecv (p : Nat) (l : List Byte) (s : State) : State :=
  let x := linkPort s p
  let num := leAt l 6 1 % 8
  let ser := leAt l 9 8
  if num == devNum s then
    let s := wrB (slReg Rg.SLINK_PORT_STAT p) 2 true s
    putLink p { x with idSent := false, idGot := false, idLine := linLine s + 75 } s
  else
    let changed := slUp s p && ser != rd64 s (slReg Rg.SLINK_PEER_SERIAL_LO p)
    let s := wr (slReg Rg.SLINK_PEER p) (w32 (num + leAt l 7 2 * 0x10000)) (wrB (slReg Rg.SLINK_PORT_STAT p) 2 false s)
    let s := wr64 (slReg Rg.SLINK_PEER_SERIAL_LO p) ser s
    let s := if changed && upstream s == p then lockLoss 5 s else s
    linkUp p (putLink p { x with idGot := true } s)

/-! ## Remote writes and events (R479, R481) -/

/-- RW_DEST and RW_ADDR of an origin (R479). -/
def rwOf (s : State) (o : Nat) : Nat × Nat := kvGet (0, 0) s.link.rw o
def putRw (o : Nat) (x : Nat × Nat) (s : State) : State :=
  { s with link := { s.link with rw := kvPut (0, 0) s.link.rw o x } }

/-- A device may be sent to: another one, whose route's port is UP (R479). -/
def destOk (s : State) (d : Nat) : Bool := d != devNum s && slUp s (routeOf s d)

/-- An accepted write of RW_DATA: one WRITE flit (R479, R480). -/
def rwSend (o : Nat) (v : W32) (s : State) : State :=
  let (d, addr) := rwOf s o
  let p := routeOf s d
  let lseq := rdN s (slReg Rg.SLINK_LSEQ p)
  let s := bumpWrap (slReg Rg.SLINK_LSEQ p) s
  let job := s.link.curJob
  let x := linkPort s p
  let s := match job with
    | some j => putLink p { x with recent := x.recent ++ [(lseq, j)] } s
    | none => s
  sendSeq p (flitBody 2 d (devNum s) 0 0 (toLE 6 addr ++ toLE 4 v.toNat ++ toLE 4 lseq ++ toLE 1 o ++ toLE 1 0xF)) job s

/-- An accepted write of EV_SEND: one EVENT flit (R481). -/
def evSend (k : Nat) (s : State) : State :=
  let d := rdF s Rg.SLINK_EV_DEST 2 0
  sendSeq (routeOf s d) (flitBody 3 d (devNum s) 0 0 (toLE 1 (k % 128))) none s

/-- AFTER_FAULT sent for a WRITE flit that this device refuses or discards (R478, R482, R483). -/
def afterFault (l : List Byte) (reason : Nat) (s : State) : State :=
  let src := flitSrc l
  sendSeq (routeOf s src) (flitBody 4 src (devNum s) 0 0
    (toLE 4 (leAt l 16 4) ++ toLE 1 reason ++ toLE 1 (leAt l 20 1) ++ toLE 6 (leAt l 6 6) ++ toLE 8 (stimeNow s))) none s

/-- A WRITE refused by this device, its target: counted in AF_SENT and answered (R482). -/
def refuseWrite (p : Nat) (l : List Byte) (reason : Nat) (s : State) : State := afterFault l reason (slCount 4 p s)

/-! ## Calibration and lock (R487 to R491) -/

/-- A write of CAL: 16 CAL flits upstream (R487). -/
def lockCal (s : State) : State :=
  let p := upstream s
  let s := wrB Rg.SLINK_LOCK_STAT 0 false { s with link := { s.link with calOn := true, rtts := [], calPeer := 0 } }
  (List.range 16).foldl (fun s _ => launch p (linkFlit s p 6 []) s) s

/-- The one-way latency (R487): sum of the 16 round trips over 16, floored once at the end. -/
def linkLat (rtts : List Nat) (peer own : Nat) : Int :=
  ((rtts.sum : Int) + 16 * ((own : Int) - (peer : Int) - 512)) / 32

/-- Calibration ends (R487). -/
def calDone (s : State) : State :=
  if !s.link.calOn then s
  else
    let r := s.link.rtts
    let ok := r.length == 16 && r.foldl max 0 ≤ r.foldl min (r.headD 0) + 4
    let p := upstream s
    let d := linkLat r s.link.calPeer (rdN s (slReg Rg.SLINK_RX_LAT p))
    let s := { s with link := { s.link with calOn := false } }
    if ok then wrB Rg.SLINK_LOCK_STAT 0 true (wr (slReg Rg.SLINK_LINK_LAT p) (w32 (unsigned 16 d)) s)
    else wrB Rg.SLINK_LOCK_STAT 0 false s

/-- TAKE is not refused (R489). -/
def takeOk (s : State) : Bool :=
  rdB s Rg.SLINK_LOCK_STAT 0 && slUp s (upstream s) && devNum s != 0 && !rdB s Rg.CANTOR_SCORE_STAT 0

/-- n / 2^k with ties to even. -/
def roundHalf (n : Int) (k : Nat) : Int :=
  let d : Int := ((2 ^ k : Nat) : Int)
  let q := n / d
  let r := n % d
  if 2 * r < d then q else if d < 2 * r then q + 1 else if q % 2 == 0 then q else q + 1

/-- C of R488 in ROOTCLK. -/
def conductorRoot (s : State) (p : Nat) (l : List Byte) : Nat :=
  leAt l 14 4 + leAt l 18 4 + rdN s (slReg Rg.SLINK_LINK_LAT p)

/-- e of R488 in CORECLK: own time since the nearest of its own boundaries, less C. -/
def barrierErr (s : State) (root c : Nat) : Int :=
  let own : Int := ((s.clk.line * 2048 + s.clk.beat * 32 + s.clk.sub) * 16 + root : Nat)
  let own := if own * 2 < 40960000 then own else own - 40960000
  roundHalf (own - (c : Int)) 1

/-- A barrier from upstream at a follower (R488 to R491). -/
def barrierRecv (p : Nat) (l : List Byte) (root : Nat) (s : State) : State :=
  let snum := leAt l 6 8 % 2 ^ 42
  let c := conductorRoot s p l
  let s := { s with link := { s.link with barSeen := true } }
  let s := match s.link.take with
    | .armed => { s with link := { s.link with take := .boundary snum } }
    | _ => s
  if !rdB s Rg.SLINK_LOCK_STAT 1 then s
  else
    let e := barrierErr s root c
    let s := wr Rg.SLINK_BAR_ERR (w32 (unsigned 16 e)) s
    let s := if snum != s.clk.snum then { s with link := { s.link with adopt := some ((snum + 1) % 2 ^ 42) } } else s
    if 8 < e || e < -8 then lockLoss 3 s else s

/-- A barrier forwarded through the other port (R488). -/
def barrierForward (p : Nat) (l : List Byte) (s : State) : State :=
  let acc := leAt l 18 4 + 256 + rdN s (slReg Rg.SLINK_LINK_LAT p)
  let q := 1 - p
  launch q (linkFlit s q 5 (toLE 8 (leAt l 6 8) ++ toLE 4 (leAt l 14 4) ++ toLE 4 acc)) s

/-- The conductor's barriers at its stave boundary (R488); how long after the boundary they leave is left open. -/
def barrierSend (s : State) : State :=
  if devNum s != 0 then s
  else [0, 1].foldl (fun s p =>
    if slUp s p then
      let (f, s) := freeVal s
      launch p (linkFlit s p 5 (toLE 8 s.clk.snum ++ toLE 4 f ++ toLE 4 0)) s
    else s) s

/-- A stave has passed at a locked follower: two without a valid barrier lose lock (R491). -/
def barrierTick (s : State) : State :=
  let n := if s.link.barSeen then 0 else s.link.missed + 1
  let s := { s with link := { s.link with barSeen := false, missed := n } }
  if rdB s Rg.SLINK_LOCK_STAT 1 && 2 ≤ n then lockLoss 2 s else s

/-- The clocks stop at the follower's boundary for a TAKE (R489). -/
def lockRealign (s : State) : State :=
  match s.link.take with
  | .boundary snum =>
    let s := (channels s.member).foldl (fun s c => wrB (Rg.DRAMC_STAT + c * 0x1000) 2 true s) s
    { s with clk := { s.clk with running := false, hartFab := false }, link := { s.link with take := .stopped snum } }
  | _ => s

/-- The dividers are released with the conductor's SNUM (R489). -/
def lockTaken (snum : Nat) (s : State) : State :=
  let s := { s with clk := { s.clk with running := true, hartFab := true, snum := snum, line := 0, beat := 0, sub := 0 },
                    link := { s.link with take := .none, barSeen := false, missed := 0 } }
  let s := (channels s.member).foldl (fun s c =>
    wrB (Rg.DRAMC_STAT + c * 0x1000) 2 (!enabled s (Pg.DRAMC + c)) s) s
  let s := wrB Rg.STAVE_STAT 1 true s
  let s := hwSet 4 Rg.SLINK_LOCK_STAT (setFld (rd s Rg.SLINK_LOCK_STAT) 1 1 1) s
  hymnRec hySlink 0 (upstream s) [] (setEvt Pg.SLINK 1 s)

end Sys2Proof.Machine
end

