-- ==== Sys2Proof/Machine/Camera.lean ====
section
/-! DEFINITION. Camera intake (15_camera_intake.md): packets, frames, line entries, groups, attach and detach. -/
namespace Sys2Proof.Machine

/-- Cache class of camera intake (R221). -/
abbrev clsCamera : Nat := 4

def camPg (st : Nat) : Nat := Pg.CAM + st / 4
/-- A register of a device stream; step is the distance between the streams of a port. -/
def camReg (a step st : Nat) : Nat := a + st / 4 * 0x1000 + st % 4 * step
def camCfg (s : State) (st w : Nat) : W32 := rd s (camReg (Rg.CAM_SCFG0 + 4 * w) 16 st)
def camStat (st : Nat) : Nat := camReg Rg.CAM_STREAM_STAT 4 st
def camCount (st k : Nat) : Nat := camReg Rg.CAM_STREAM_COUNTS 16 st + 4 * k

def camStream (s : State) (st : Nat) : CamStream := kvGet CamStream.reset s.cam.streams st
def putStream (st : Nat) (x : CamStream) (s : State) : State :=
  { s with cam := { s.cam with streams := kvPut CamStream.reset s.cam.streams st x } }
def camGroup (s : State) (g : Nat) : CamGroup := kvGet CamGroup.reset s.cam.groups g
def putGroup (g : Nat) (x : CamGroup) (s : State) : State :=
  { s with cam := { s.cam with groups := kvPut CamGroup.reset s.cam.groups g x } }

def camNframe (s : State) (st : Nat) : Nat := fld (camCfg s st 0) 20 16
def camLineBytes (s : State) (st : Nat) : Nat := fld (camCfg s st 1) 15 0
def camMaxLines (s : State) (st : Nat) : Nat := fld (camCfg s st 1) 28 16
def camPool (s : State) (st : Nat) : Nat := fld (camCfg s st 3) 30 24
def camRing (s : State) (st : Nat) : Nat := fld (camCfg s st 2) 31 6 * 64 + fld (camCfg s st 3) 15 0 * 0x100000000
/-- Bytes of a frame slot (R335). -/
def camSlotSize (s : State) (st : Nat) : Nat := 64 * (1 + ceilDiv (camMaxLines s st) 8)
def camSlotAddr (s : State) (st j : Nat) : Nat := camRing s st + j * camSlotSize s st

def camAttached (s : State) (st : Nat) : Bool := rdB s (camStat st) 0
def camInFrame (s : State) (st : Nat) : Bool := rdB s (camStat st) 1
/-- The stream receives: EN without CFG_BAD, on an enabled page (R334). -/
def camEnabled (s : State) (st : Nat) : Bool :=
  present s.member (camPg st) && enabled s (camPg st) && fbit (camCfg s st 0) 0 && !rdB s (camStat st) 2

/-! ## Slots, entries and records (R335 to R338) -/

def slotBufs (x : CamStream) (j : Nat) : List (Nat × Nat) := kvGet [] x.bufs j

/-- The buffers of a slot freed (R335, R339). -/
def freeSlot (st j : Nat) (s : State) : State :=
  let x := camStream s st
  let s := (slotBufs x j).foldl (fun s b => freeBuf b.1 b.2 s) s
  putStream st { x with bufs := kvErase x.bufs j } s

/-- A buffer held by a slot. -/
def holdBuf (st j pool h : Nat) (s : State) : State :=
  let x := camStream s st
  putStream st { x with bufs := kvInsert x.bufs j (slotBufs x j ++ [(pool, h)]) } s

/-- A line entry written (R337). -/
def putEntry (st slot n handle bytes wc flags cause : Nat) (s : State) : State :=
  devWrite clsCamera (camSlotAddr s st slot + 64 + 8 * n)
    (toLE 8 (handle + bytes % 0x10000 * 2 ^ 16 + wc % 0x10000 * 2 ^ 32 + flags * 2 ^ 48 + cause * 2 ^ 52
      + (camStream s st).seq % 16 * 2 ^ 60)) s

/-- The group fields of a record: ALIGN_STATUS and GFRAME. -/
def groupBytes (g : Option (Nat × Nat)) : List Byte :=
  match g with
  | none => toLE 8 0
  | some (a, n) => toLE 4 a ++ toLE 4 n

/-- The whole record of the stream's frame, complete (R336). -/
def recordClose (st : Nat) (feMissing : Bool) (s : State) : State :=
  let x := camStream s st
  if x.closed then s
  else
    let fl := 1 + b2n feMissing * 2 + b2n (x.lost != 0) * 4 + b2n x.crcBad * 8 + b2n x.tooMany * 16 + b2n x.grouped.isSome * 128
    let s := devWrite clsCamera (camSlotAddr s st x.slot)
      (toLE 8 x.fsTime ++ toLE 8 (if feMissing then 0 else stimeNow s) ++ toLE 4 x.seq ++ toLE 2 x.frameNum ++ toLE 2 x.lines
        ++ toLE 2 fl ++ toLE 2 x.lost ++ groupBytes x.grouped ++ toLE 28 0) s
    setEvt (camPg st) (st % 4)
      (putStream st { x with closed := true, flags := fl, done := some (camSlotAddr s st x.slot) } s)

/-- The frames that PROCEED fills after a reference stream are complete (R347). -/
def fillClose (ref : Nat) (s : State) : State :=
  (s.cam.streams.filter fun e => (e.2.fill.map (·.ref)) == some ref).foldl (fun s e =>
    let st := e.1
    let x := camStream s st
    match x.fill with
    | none => s
    | some f =>
      let a := camSlotAddr s st f.slot
      let fl := 1 + b2n (f.lost != 0) * 4 + 64 + 128
      let s := devWrite clsCamera (a + 22) (toLE 2 f.lines ++ toLE 2 fl ++ toLE 2 f.lost) s
      setEvt (camPg st) (st % 4) (putStream st { x with fill := none, done := some a } s)) s

/-- The stream's frame ends (R336, R347). -/
def frameEnd (st : Nat) (feMissing : Bool) (s : State) : State :=
  if !camInFrame s st then s
  else
    let s := wrB (camStat st) 1 false s
    let s := if (camStream s st).late then s else recordClose st feMissing s
    fillClose st s

/-- The next slot in ring order taken (R335): it is free of old buffers. -/
def takeSlot (st : Nat) (s : State) : Nat × State :=
  let j := (camStream s st).next
  let s := freeSlot st j s
  let x := camStream s st
  (j, putStream st { x with next := if j + 1 < camNframe s st then j + 1 else 0 } s)

/-! ## Groups (R343 to R347) -/

def grpMask (s : State) (g : Nat) : Nat := rdN s (Rg.STREAMGRP_GRP_MASK + 8 * g)
def grpCfg (s : State) (g : Nat) : W32 := rd s (Rg.STREAMGRP_GRP_CFG + 8 * g)
def grpEn (s : State) (g : Nat) : Bool := enabled s Pg.STREAMGRP && fbit (grpCfg s g) 0
def grpProceed (s : State) (g : Nat) : Bool := fbit (grpCfg s g) 1
def grpHold (s : State) (g : Nat) : Nat := fld (grpCfg s g) 6 2
def grpMembers (s : State) (g : Nat) : List Nat := (List.range 32).filter fun st => bit (grpMask s g) st
/-- The member index of a stream. -/
def memberIdx (s : State) (g st : Nat) : Nat := popcount st (grpMask s g)
/-- The group of a stream, if one that aligns holds it. -/
def groupOf (s : State) (st : Nat) : Option Nat := (List.range 4).find? fun g => grpEn s g && bit (grpMask s g) st

def idxBits (s : State) (g : Nat) (l : List Nat) : Nat :=
  (grpMembers s g).foldl (fun m st => if l.contains st then m + 2 ^ memberIdx s g st else m) 0

/-- The group fields reach the record of a member that contributed (R346): at once, and again with the whole record. -/
def groupRecord (st align gframe : Nat) (s : State) : State :=
  let x := camStream s st
  if x.late then s
  else
    let fl := if bit x.flags 7 then x.flags else x.flags + 128
    let a := camSlotAddr s st x.slot
    let s := devWrite clsCamera (a + 28) (toLE 4 align ++ toLE 4 gframe) (devWrite clsCamera (a + 24) (toLE 2 fl) s)
    putStream st { x with grouped := some (align, gframe), flags := fl } s

/-- A slipped member's record (R347): MISSING, or FILLED with filling begun. What no FS has given is left open. -/
def slipRecord (g st align gframe : Nat) (ref : Option Nat) (s : State) : State :=
  let (j, s) := takeSlot st s
  let (t, s) := freeVal s
  let (n, s) := freeVal s
  let fill := grpProceed s g
  let fl := (if fill then 64 else 32) + 128
  let s := devWrite clsCamera (camSlotAddr s st j)
    (toLE 8 t ++ toLE 8 0 ++ toLE 4 (camStream s st).seq ++ toLE 2 n ++ toLE 2 0 ++ toLE 2 fl ++ toLE 2 0 ++ toLE 4 align
      ++ toLE 4 gframe ++ toLE 28 0) s
  match fill, ref with
  | true, some r => putStream st { camStream s st with fill := some ⟨j, r, 0, 0⟩ } s
  | _, _ => s

/-- The open group frame is released (R345, R346). -/
def groupRelease (g : Nat) (s : State) : State :=
  let x := camGroup s g
  if !x.open_ then s
  else
    let slipped := (grpMembers s g).filter fun st => camAttached s st && !x.joined.contains st
    let align := idxBits s g x.onTime % 256 + idxBits s g slipped % 256 * 2 ^ 8 + idxBits s g x.detached % 256 * 2 ^ 16
      + min (x.last - x.lg) 31 * 2 ^ 24 + memberIdx s g x.lead % 8 * 2 ^ 29
    let a := Rg.STREAMGRP_GFRAME + 8 * g
    let s := wr (Rg.STREAMGRP_ALIGN_STATUS + 8 * g) (w32 align) (bumpWrap a s)
    let gf := rdN s a
    let s := setEvt Pg.STREAMGRP g (putGroup g { x with open_ := false } s)
    let s := x.joined.foldl (fun s st => groupRecord st align gf s) s
    let s := if slipped.isEmpty then s
      else setEvt Pg.STREAMGRP (4 + g) (bump (Rg.STREAMGRP_SLIPS + 4 * g) s)
    let ref := (grpMembers s g).find? fun st => x.onTime.contains st
    slipped.foldl (fun s st => slipRecord g st align gf ref s) s

/-- The HOLD deadline of an open group frame has come (R345). -/
def holdDue (s : State) (g : Nat) : Bool :=
  (camGroup s g).open_ && !grpProceed s g && (camGroup s g).lg + grpHold s g + 1 ≤ linLine s

/-- Every attached member of the open group frame is on time. -/
def groupFull (s : State) (g : Nat) : Bool :=
  (grpMembers s g).all fun st => !camAttached s st || (camGroup s g).joined.contains st

/-- What an FS of a member means for its group (R344, R345): whether the frame is late; a frame that releases the group
frame does so once it is stored. -/
def groupJoin (g st : Nat) (s : State) : Bool × State :=
  let s := if holdDue s g then groupRelease g s else s
  let s := if (camGroup s g).open_ && (camGroup s g).joined.contains st then groupRelease g s else s
  let x := camGroup s g
  if !x.open_ && (x.joined.contains st || !x.ever) then
    let det := (grpMembers s g).filter fun m => m != st && !camAttached s m
    (false, putGroup g ⟨true, true, st, linLine s, linLine s, [st], [st], det⟩ s)
  else if x.open_ then (false, putGroup g { x with joined := x.joined ++ [st], onTime := x.onTime ++ [st], last := linLine s } s)
  else (true, putGroup g { x with joined := x.joined ++ [st] } s)

/-- The release that an FS brings about (R345). -/
def groupAfter (g : Nat) (s : State) : State :=
  if (camGroup s g).open_ && (grpProceed s g || groupFull s g) then groupRelease g s else s

/-! ## Packets (R330 to R333, R336 to R341) -/

/-- Attach or detach of a stream (R341). -/
def attachSet (st : Nat) (on : Bool) (s : State) : State :=
  setEvt (camPg st) (if on then 6 else 7) (hwSet 5 (camStat st) (setFld (rd s (camStat st)) 0 0 (b2n on)) s)

/-- A frame start of a stream (R336, R341, R344). -/
def frameStart (num st : Nat) (s : State) : State :=
  let s := frameEnd st true s
  let s := wrF (camStat st) 15 8 0 s
  let s := if camAttached s st then s else attachSet st true s
  let (late, s) := match groupOf s st with
    | some g => groupJoin g st s
    | none => (false, s)
  let s := bump (camCount st 0) s
  let x := camStream s st
  let x := { x with seq := (x.seq + 1) % 2 ^ 32, fsTime := stimeNow s, frameNum := num, n := 0, lines := 0, lost := 0,
                    crcBad := false, tooMany := false, late := late, closed := false, grouped := none, flags := 0 }
  let s := wrB (camStat st) 1 true (putStream st x s)
  let s := if late then s
    else
      let (j, s) := takeSlot st s
      let s := wrF (camStat st) 7 4 j (putStream st { camStream s st with slot := j } s)
      devWrite clsCamera (camSlotAddr s st j)
        (toLE 8 x.fsTime ++ toLE 8 0 ++ toLE 4 x.seq ++ toLE 2 num ++ toLE 10 0) s
  match groupOf s st with
  | some g => groupAfter g s
  | none => s

/-- Bits of one sample as received and bytes as stored with UNPACK (R330). -/
def dtSample (dt : Nat) : Option (Nat × Nat) :=
  if dt == 0x2B then some (10, 2) else if dt == 0x2C then some (12, 2) else if dt == 0x2D then some (14, 2)
  else if dt == 0x2E then some (16, 2) else if dt == 0x2F then some (20, 4) else none

/-- Data types that are accepted (R330). -/
def dtOk (dt : Nat) : Bool := dt == 0x12 || dt == 0x1E || dt == 0x24 || dt == 0x2A || (0x2B ≤ dt && dt ≤ 0x2F)

/-- The payload as it is stored (R338); how samples are packed is CSI-2's. -/
def camStored (unpack : Bool) (dt : Nat) (l : List Byte) : List Byte :=
  match dtSample dt, unpack with
  | some (b, n), true => (List.range (l.length * 8 / b)).flatMap fun i => toLE n (Config.csiSample dt l i % 2 ^ b)
  | _, _ => l

/-- A filled entry for each stream that PROCEED fills after this one (R347). -/
def fillLine (ref n : Nat) (s : State) : State :=
  (s.cam.streams.filter fun e => (e.2.fill.map (·.ref)) == some ref).foldl (fun s e =>
    let st := e.1
    let x := camStream s st
    match x.fill, groupOf s st with
    | some f, some g =>
      if camMaxLines s st ≤ n then s
      else
        let p := camPool s st
        match allocBuf (st / 4) p s with
        | (none, s) =>
          let short := b2n (0 < camLineBytes s st)
          let s := setEvt (camPg st) 4 (bump (camCount st 1) (putEntry st f.slot n 0xFFFF 0 0 (short * 2 + 8 + 128) 1 s))
          putStream st { camStream s st with fill := some { f with lines := f.lines + 1, lost := f.lost + 1 } } s
        | (some h, s) =>
          let len := min (camLineBytes s st) (poolBufSize s p)
          let v := fld (grpCfg s g) 31 16
          let data := (List.range len).map fun i => BitVec.ofNat 8 (if i % 2 == 0 then v else v / 256)
          let s := holdBuf st f.slot p h (devWrite clsCamera (bufAddr s p (h % 0x1000)) data s)
          let fl := b2n (len < camLineBytes s st) * 6 + 128
          let s := putEntry st f.slot n h len 0 fl 0 s
          putStream st { camStream s st with fill := some { f with lines := f.lines + 1 } } s
    | _, _ => s) s

/-- A camera line of a stream's frame (R332, R337, R338, R340). -/
def camLine (st : Nat) (k : CamPkt) (s : State) : State :=
  let x := camStream s st
  let n := x.n
  let s := putStream st { x with n := n + 1 } s
  let bad := !k.crcOk
  let s := if bad then setEvt (camPg st) 5 (bump (camCount st 2) s) else s
  if x.late then bump (camCount st 3) s
  else if camMaxLines s st ≤ n then putStream st { camStream s st with tooMany := true } (bump (camCount st 3) s)
  else
    let drop := bad && fbit (camCfg s st 0) 15
    let want := camLineBytes s st
    let lostEntry := fun (cause : Nat) (mark : Bool) (s : State) =>
      let s := putEntry st x.slot n 0xFFFF 0 k.data (b2n mark + b2n (0 < want) * 2 + 8) cause s
      putStream st { camStream s st with lines := x.lines + 1, lost := x.lost + 1, crcBad := x.crcBad || bad } s
    let p := camPool s st
    let s := match allocBuf (st / 4) p s with
      | (none, s) => lostEntry 1 (bad && !drop) (setEvt (camPg st) 4 (bump (camCount st 1) s))
      | (some h, s) =>
        if drop then lostEntry 2 false (freeBuf p h s)
        else
          let d := camStored (fbit (camCfg s st 0) 14) k.dt k.payload
          let len := min d.length (poolBufSize s p)
          let s := holdBuf st x.slot p h (devWrite clsCamera (bufAddr s p (h % 0x1000)) (d.take len) s)
          let fl := b2n bad + b2n (len < want) * 2 + b2n (len < d.length) * 4
          let s := putEntry st x.slot n h len k.data fl 0 s
          putStream st { camStream s st with lines := x.lines + 1, crcBad := x.crcBad || bad } s
    fillLine st n s

def camPort (p : Nat) : Nat := Pg.CAM + p
def portReg (a p : Nat) : Nat := a + p * 0x1000
/-- Streams of a port that receive on a virtual channel. -/
def camMatch (s : State) (p vc : Nat) (dt : Option Nat) : List Nat :=
  ((List.range 4).map (4 * p + ·)).filter fun st =>
    camEnabled s st && fld (camCfg s st 0) 4 1 == vc && (dt.isNone || dt == some (fld (camCfg s st 0) 13 8))

/-- A packet whose header has passed R331 (R330, R333). -/
def camAccept (p : Nat) (k : CamPkt) (s : State) : State :=
  if k.dt == 0 then
    (camMatch s p k.vc none).foldl (fun s st => frameStart (k.data % 0x10000) st s) s
  else if k.dt == 1 then (camMatch s p k.vc none).foldl (fun s st => frameEnd st false s) s
  else if k.dt < 0x10 then s
  else if !dtOk k.dt then bump (portReg Rg.CAM_COUNTS p + 8) s
  else
    match camMatch s p k.vc (some k.dt) with
    | [] => bump (portReg Rg.CAM_COUNTS p + 12) s
    | st :: _ => if camInFrame s st then camLine st k s else bump (portReg Rg.CAM_COUNTS p + 16) s

/-- A packet leaves a port's FIFO and meets the header check (R331); FS, FE and long packets are recorded (R492). -/
def camHeader (p : Nat) (k : CamPkt) (s : State) : State :=
  if 2 ≤ k.ecc then setEvt (camPort p) 5 (bump (portReg Rg.CAM_COUNTS p + 4) s)
  else
    let s := if k.ecc == 1 then setEvt (camPort p) 5 (bump (portReg Rg.CAM_COUNTS p) s) else s
    let s := if k.dt ≤ 1 || 0x10 ≤ k.dt then
        hymnRec hyCamera p (hymnKind hyCamera (k.vc * 64 + k.dt) + b2n (!k.crcOk) * 256)
          (if k.dt ≤ 1 then toLE 2 k.data else k.payload) s
      else s
    camAccept p k s

/-- A packet of a port that receives (R329, R496). -/
def camTake (p : Nat) (k : CamPkt) (s : State) : State := liveInput hyCamera (camHeader p k) s

/-- A packet after Weevil has changed it: changed payload bytes keep their CRC only if the CRC misses the change; a
changed header is corrected, found broken, or taken for another one. -/
def camChanged (k : CamPkt) (l : List Byte) (broken : Bool) (s : State) : CamPkt × State :=
  let (seen, s) := if l == k.payload then (true, s) else freeBit s
  let k := { k with payload := l.take k.payload.length, crcOk := k.crcOk && (l == k.payload || !seen) }
  if !broken then (k, s)
  else
    let (a, s) := freeVal s
    let (b, s) := freeVal s
    let c := a / 4
    let k2 : CamPkt := match a % 4 with
      | 0 => k
      | 1 => { k with ecc := max k.ecc 1 }
      | 2 => { k with ecc := 2 }
      | _ => { k with ecc := 1, vc := c % 16, dt := c / 16 % 64, data := b % 0x10000 }
    (k2, s)

/-- A packet of a camera port comes to CAM_RX (R501). -/
def camRx (p : Nat) (k : CamPkt) (s : State) : State :=
  match wvPass (0x10 + p) 4 k.payload (fun l => some (.cam p { k with payload := l })) s with
  | (.pass l broken, s) =>
    let (k, s) := camChanged k l broken s
    camTake p k s
  | (_, s) => s

/-- The port receives: present, enabled, its receiver locked (R329). -/
def camReceives (s : State) (p : Nat) : Bool :=
  p < 8 && present s.member (camPort p) && enabled s (camPort p) && rdB s (portReg Rg.CAM_PORT_STAT p) 0

/-! ## Detach, release, configuration (R334, R339, R341, R343) -/

/-- DETACH_STAVES boundaries have passed since the last FS (R341). -/
def detachDue (s : State) (st : Nat) : Bool :=
  let n := fld (camCfg s st 3) 23 16
  camAttached s st && n != 0 && n ≤ rdF s (camStat st) 15 8

/-- A stave boundary counted since the last FS (STREAM_STAT.SILENT). -/
def silentTick (s : State) : State :=
  ((List.range 32).filter fun st => present s.member (camPg st)).foldl (fun s st =>
    wrF (camStat st) 15 8 (min (rdF s (camStat st) 15 8 + 1) 255) s) s

/-- RELEASE is not refused (R339). -/
def releaseOk (s : State) (p v : Nat) : Bool :=
  let st := 4 * p + v % 4
  let x := camStream s st
  let j := bits v 7 4
  camEnabled s st && !(camInFrame s st && !x.late && x.slot == j) && (x.fill.map (·.slot)) != some j

/-- A stream configuration applied that differs from the one before (R334): a stream that was not enabled attaches anew at
its first FS (R341). -/
def streamApply (st : Nat) (s : State) : State :=
  let s := if camEnabled s st then s else wrB (camStat st) 0 false s
  let s := frameEnd st true s
  let s := (List.range 16).foldl (fun s j => freeSlot st j s) s
  let x := camStream s st
  putStream st { x with next := 0, fill := none, done := none } s

/-- CFG_BAD of a stream whose configuration has been applied (R334): streams of the port that are already enabled
count. -/
def streamCheck (st : Nat) (s : State) : State :=
  let c := camCfg s st 0
  if !fbit c 0 then wrB (camStat st) 2 false s
  else
    let top := camRing s st + camNframe s st * camSlotSize s st
    let clash := ((List.range 4).map (st / 4 * 4 + ·)).any fun o =>
      o != st && fbit (camCfg s o 0) 0 && !rdB s (camStat o) 2
        && fld (camCfg s o 0) 4 1 == fld c 4 1 && fld (camCfg s o 0) 13 8 == fld c 13 8
    wrB (camStat st) 2 (dramTop s.member < top || clash || 127 < camPool s st) s

/-- GRP_MASK is not refused (R343): cur and shadow masks of the other groups are given. -/
def grpMaskOk (s : State) (g v : Nat) (staged : Nat → Nat) : Bool :=
  popcount 32 v ≤ 8 && (List.range 32).all (fun st => !bit v st || present s.member (camPg st))
    && (List.range 4).all fun o => o == g || (Nat.land v (grpMask s o) == 0 && Nat.land v (staged o) == 0)

/-- PHY_CFG is not refused (R329). -/
def phyCfgOk (v : W32) : Bool :=
  let m := fld v 1 0
  let r := fld v 15 4
  80 ≤ r && fld v 3 2 ≤ 2 && ((m == 0 && r ≤ 2500) || (m == 1 && r ≤ 4500) || (m == 2 && r ≤ 3500))

end Sys2Proof.Machine
end

