-- ==== Sys2Proof/Machine/Wingcase.lean ====
section
/-! DEFINITION. Wingcase and its outputs (17_wingcase.md): line sets, tile and video planes, sprites, composition, the
line table, collision latches, tell-tale regions, DSI and LVDS. -/
namespace Sys2Proof.Machine

/-- Cache class of Wingcase's reads (log 33). -/
abbrev clsWing : Nat := 3

def wcPg (h : Nat) : Nat := Pg.WINGCASE + h
/-- A register of a head. -/
def wcReg (a h : Nat) : Nat := a + h * 0x1000
def wHead (s : State) (h : Nat) : WHead := kvGet WHead.reset s.wing.heads h
def putHead (h : Nat) (x : WHead) (s : State) : State :=
  { s with wing := { s.wing with heads := kvPut WHead.reset s.wing.heads h x } }
/-- A count of a head: 0 UNDERRUN, 1 LT_SKIP, 2 LT_LATE, 3 LT_BAD, 4 SPR_LATE, 5 POISON, 6 WARP_CLIP, 7 CAM_LOST. -/
def wcCount (h k : Nat) (s : State) : State := bump (wcReg Rg.WINGCASE_COUNTS h + 4 * k) s

/-! ## Timing (R372 to R376) -/

def wHact (s : State) (h : Nat) : Nat := rdF s (wcReg Rg.WINGCASE_TIMING0 h) 11 0
def wVact (s : State) (h : Nat) : Nat := rdF s (wcReg Rg.WINGCASE_TIMING0 h) 26 16
def wVstart (s : State) (h : Nat) : Nat := rdF s (wcReg Rg.WINGCASE_TIMING1 h) 26 16
def wVtotal (s : State) (h : Nat) : Nat := rdF s (wcReg Rg.WINGCASE_TIMING3 h) 26 16
/-- The display line being scanned. -/
def wDline (s : State) (h : Nat) : Nat := rdF s (wcReg Rg.WINGCASE_HEAD_STAT h) 10 0
/-- The display line after a display line. -/
def wAfter (s : State) (h n : Nat) : Nat := if n + 1 < wVtotal s h then n + 1 else 0

/-- The limits of R373 and R374, for the four timing words of a head. -/
def timingOk (h : Nat) (t0 t1 t2 t3 : W32) : Bool :=
  let hact := fld t0 11 0
  let vact := fld t0 26 16
  let hst := fld t1 11 0
  let vst := fld t1 26 16
  let hsw := fld t2 7 0
  let vsw := fld t2 11 8
  let htot := fld t3 12 0
  let vtot := fld t3 26 16
  1 ≤ hact && hact ≤ 1920 && 1 ≤ vact && vact ≤ 1200 && 1 ≤ hsw && 1 ≤ vsw
    && hsw ≤ hst && hst + hact ≤ htot && vsw ≤ vst && vst + vact ≤ vtot
    && (h == 0 || (256 ≤ htot && htot ≤ 4096 && 64 ≤ vtot && vtot ≤ 2047))

/-- Head 1 restarts its frame from display line 0 (R38, R374). -/
def headRestart (h : Nat) (s : State) : State :=
  let x := wHead s h
  putHead h { x with next := 0, set := none, ovf := none, ovfLines := 0, hits := [], crcs := [], evald := [] } s

/-- The count of lines against which a load is late: stave lines for head 0, its own display lines for head 1. -/
def headLine (s : State) (h : Nat) : Nat := if h == 0 then linLine s else (wHead s h).lines

/-! ## Reads: 64-byte blocks of memory, bytes of the guard overlay RAM (R387, R395, R396) -/

/-- A number put into a rising list without repeats. -/
def insertSorted (n : Nat) : List Nat → List Nat
  | [] => [n]
  | a :: r => if n < a then n :: a :: r else if n == a then a :: r else a :: insertSorted n r

/-- The reads of one display line: blocks held (none: delivered as poisoned), overlay words with an uncorrectable
error, and what is to be counted for the line. -/
structure WFet where
  bufs : List (Nat × Option (List Byte))
  bad : List Nat
  met : List Nat
  poison : Bool
  clip : Bool
  lost : Bool
  s : State

/-- A byte of device memory. -/
def memByte (a : Nat) (x : WFet) : Option Nat × WFet :=
  let k := a / 64
  match kvFind x.bufs k with
  | some (some l) => (some ((l.drop (a % 64)).headD 0).toNat, x)
  | some none => (none, { x with poison := true })
  | none =>
    let (l, p, s) := devRead clsWing (k * 64) 64 x.s
    let x := { x with s := s, bufs := kvInsert x.bufs k (if p then none else some l), poison := x.poison || p }
    (if p then none else some ((l.drop (a % 64)).headD 0).toNat, x)

/-- A byte of the guard overlay RAM; what lies beyond its end is left open. -/
def ovlByte (o : Nat) (x : WFet) : Option Nat × WFet :=
  if x.bad.contains (o / 4 * 4) then
    (none, { x with poison := true, met := insertSorted (o / 4 * 4) x.met })
  else if o < 0x40000 then (some (kvGet 0 x.s.gmem (0x50000000 + o)).toNat, x)
  else
    let (v, s) := freeVal x.s
    (some (v % 256), { x with s := s })

/-- n bytes as a little-endian number, from memory or the overlay. -/
def wcBytes (guard : Bool) : Nat → Nat → WFet → Option Nat × WFet
  | 0, _, x => (some 0, x)
  | n + 1, a, x =>
    match if guard then ovlByte a x else memByte a x with
    | (none, x) => (none, x)
    | (some b, x) =>
      match wcBytes guard n (a + 1) x with
      | (none, x) => (none, x)
      | (some r, x) => (some (b + 256 * r), x)

/-! ## Tile planes and palettes (R377, R378, R396) -/

/-- A palette entry of a head. -/
def palEntry (s : State) (h i : Nat) : W32 := kvGet 0 s.wing.pals (h * 1024 + i)

/-- The colour of an index. -/
def wcColour (guard : Bool) (gpal h pal idx : Nat) (x : WFet) : Option Nat × WFet :=
  if guard then wcBytes true 4 (gpal + 4 * idx) x else (some (palEntry x.s h (256 * pal + idx)).toNat, x)

/-- The index of a pixel value (R377). -/
def wcIndex (bpp bank p : Nat) : Nat := if bpp == 8 then p else if bpp == 4 then bank * 16 + p else bank * 4 + p

/-- A pixel value at a column of a row packed at an address. -/
def wcPacked (guard : Bool) (bpp a i : Nat) (x : WFet) : Option Nat × WFet :=
  match wcBytes guard 1 (a + bpp * i / 8) x with
  | (none, x) => (none, x)
  | (some b, x) => (some (b / 2 ^ (bpp * i % 8) % 2 ^ bpp), x)

/-- The pixel of tile plane p at an active position. -/
def tilePix (h p ax ay : Nat) (x : WFet) : Option Nat × WFet :=
  let b := wcReg 0 h + 64 * p
  let s := x.s
  let c := rd s (Rg.WINGCASE_TP_CTRL + b)
  let w0 := rd s (Rg.WINGCASE_P_WIN0 + b)
  let w1 := rd s (Rg.WINGCASE_P_WIN1 + b)
  let sc := rd s (Rg.WINGCASE_TP_SCROLL + b)
  if !(fld w0 11 0 ≤ ax && ax ≤ fld w1 11 0 && fld w0 27 16 ≤ ay && ay ≤ fld w1 27 16) then (none, x)
  else
    let guard := fbit c 4
    let bpp := 2 * 2 ^ fld c 17 16
    let t := if fbit c 18 then 16 else 8
    let mw := 32 * 2 ^ fld c 22 21
    let mh := 32 * 2 ^ fld c 25 24
    let base := fun lo => if guard then rdF s (lo + b) 17 0 else rd64 s (lo + b) / 64 * 64
    let px := (ax - fld w0 11 0 + fld sc 11 0) % (mw * t)
    let py := (ay - fld w0 27 16 + fld sc 27 16) % (mh * t)
    match wcBytes guard 2 (base Rg.WINGCASE_TP_MAP_LO + 2 * (py / t * mw + px / t)) x with
    | (none, x) => (none, x)
    | (some e, x) =>
      let i := if bit e 10 then t - 1 - px % t else px % t
      let j := if bit e 11 then t - 1 - py % t else py % t
      match wcPacked guard bpp (base Rg.WINGCASE_TP_PAT_LO + e % 1024 * (t * t * bpp / 8) + j * (t * bpp / 8)) i x with
      | (none, x) => (none, x)
      | (some 0, x) => (none, x)
      | (some v, x) =>
        wcColour guard (fld (rd s (Rg.WINGCASE_TP_GPAL + b)) 17 2 * 4) h (fld c 20 19) (wcIndex bpp (bits e 15 12) v) x

/-! ## Video planes (R379 to R382) -/

def clamp8 (v : Int) : Nat := (max 0 (min v 255)).toNat

/-- YUV to RGBA, BT.601 limited range (R379). -/
def yuvRgba (y u v : Nat) : Nat :=
  let d : Int := (y : Int) - 16
  let u : Int := (u : Int) - 128
  let v : Int := (v : Int) - 128
  clamp8 ((298 * d + 409 * v + 128) / 256) + clamp8 ((298 * d - 100 * u - 208 * v + 128) / 256) * 0x100
    + clamp8 ((298 * d + 516 * u + 128) / 256) * 0x10000 + 0xFF000000

/-- The source pixel in column c of a row at an address, as RGBA. -/
def srcPix (fmt row c : Nat) (x : WFet) : Option Nat × WFet :=
  match fmt with
  | 0 => wcBytes false 4 (row + 4 * c) x
  | 1 =>
    match wcBytes false 3 (row + 3 * c) x with
    | (some v, x) => (some (v + 0xFF000000), x)
    | (none, x) => (none, x)
  | 2 =>
    match wcBytes false 4 (row + c / 2 * 4) x with
    | (some v, x) => (some (yuvRgba (if c % 2 == 0 then bits v 15 8 else bits v 31 24) (bits v 7 0) (bits v 23 16)), x)
    | (none, x) => (none, x)
  | _ =>
    match wcBytes false 1 (row + c) x with
    | (some v, x) => (some (v * 0x10101 + 0xFF000000), x)
    | (none, x) => (none, x)

/-- A video plane's registers on a line. -/
structure VPlane where
  fmt : Nat
  camera : Bool
  bilinear : Bool
  clamp : Bool
  x0 : Nat
  x1 : Nat
  y0 : Nat
  y1 : Nat
  src : Nat
  w : Nat
  h : Nat
  stride : Nat
  m : List Int
  /-- The camera frame it shows: slot, LINES, FRAME_SEQ, pool. -/
  frame : Option (Nat × Nat × Nat × Nat)

def vPlane (s : State) (h p : Nat) : VPlane :=
  let b := wcReg 0 h + 64 * (p - 4)
  let c := rd s (Rg.WINGCASE_VP_CTRL + b)
  let w0 := rd s (Rg.WINGCASE_P_WIN0 + wcReg 0 h + 64 * p)
  let w1 := rd s (Rg.WINGCASE_P_WIN1 + wcReg 0 h + 64 * p)
  let sz := rd s (Rg.WINGCASE_VP_SIZE + b)
  let q := fun a => signed 32 (rdN s (a + b))
  { fmt := fld c 17 16, camera := fbit c 18, bilinear := fbit c 19, clamp := fbit c 20,
    x0 := fld w0 11 0, x1 := fld w1 11 0, y0 := fld w0 27 16, y1 := fld w1 27 16,
    src := rd64 s (Rg.WINGCASE_VP_SRC_LO + b), w := fld sz 12 0, h := fld sz 28 16,
    stride := rdN s (Rg.WINGCASE_VP_STRIDE + b),
    m := [q Rg.WINGCASE_VP_WA, q Rg.WINGCASE_VP_WB, q Rg.WINGCASE_VP_WC, q Rg.WINGCASE_VP_WD, q Rg.WINGCASE_VP_TX,
          q Rg.WINGCASE_VP_TY],
    frame := kvFind (wHead s h).cams p }

/-- The exact source position of an active pixel of the window (R381). -/
def vPos (v : VPlane) (ax ay : Nat) : Int × Int :=
  let x : Int := ((ax - v.x0 : Nat) : Int)
  let y : Int := ((ay - v.y0 : Nat) : Int)
  match v.m with
  | [wa, wb, wc, wd, tx, ty] => (wa * x + wb * y + tx, wc * x + wd * y + ty)
  | _ => (0, 0)

/-- A source position brought inside the source, or none where it is transparent (R381). -/
def vInside (v : VPlane) (c r : Int) : Option (Nat × Nat) :=
  if 0 ≤ c && c < (v.w : Int) && 0 ≤ r && r < (v.h : Int) then some (c.toNat, r.toNat)
  else if v.clamp && v.w != 0 && v.h != 0 then
    some ((max 0 (min c ((v.w : Int) - 1))).toNat, (max 0 (min r ((v.h : Int) - 1))).toNat)
  else none

/-- The source pixels that an active pixel samples: one, or four in the order of R381. -/
def vSamples (v : VPlane) (ax ay : Nat) : List (Option (Nat × Nat)) :=
  let (sx, sy) := vPos v ax ay
  if v.bilinear then
    let c := sx / 65536
    let r := sy / 65536
    [vInside v c r, vInside v (c + 1) r, vInside v c (r + 1), vInside v (c + 1) (r + 1)]
  else [vInside v ((sx + 0x8000) / 65536) ((sy + 0x8000) / 65536)]

/-- The active columns of a window on a line. -/
def vCols (v : VPlane) (hact ay : Nat) : List Nat :=
  if v.y0 ≤ ay && ay ≤ v.y1 then (List.range hact).filter fun ax => v.x0 ≤ ax && ax ≤ v.x1 else []

/-- The source rows that a line reads: the lowest 64 that it samples (R382). -/
def vRows (v : VPlane) (hact ay : Nat) : List Nat :=
  (((vCols v hact ay).flatMap (vSamples v · ay)).foldl (fun l p =>
    match p with
    | some (_, r) => insertSorted r l
    | none => l) []).take 64

/-- The address of a source row: of the plane's rows, or of the buffer of a camera line (R379, R380). -/
def vRowAddr (v : VPlane) (r : Nat) (x : WFet) : Option Nat × WFet :=
  if !v.camera then (some (v.src + r * v.stride), x)
  else
    match v.frame with
    | none => (none, { x with lost := true })
    | some (slot, lines, seq, pool) =>
      if lines ≤ r then (none, { x with lost := true })
      else
        match wcBytes false 8 (slot + 64 + 8 * r) x with
        | (none, x) => (none, x)
        | (some e, x) =>
          if bit e 51 || e % 0x10000 == 0xFFFF || bits e 63 60 != seq % 16 then (none, { x with lost := true })
          else (some (bufAddr x.s pool (e % 0x1000)), x)

/-- One sample: transparent black outside the source, none where a row or its data fails. -/
def vSample (v : VPlane) (rows : List Nat) (p : Option (Nat × Nat)) (x : WFet) : Option Nat × WFet :=
  match p with
  | none => (some 0, x)
  | some (c, r) =>
    if !rows.contains r then (none, { x with clip := true })
    else
      match vRowAddr v r x with
      | (none, x) => (none, x)
      | (some a, x) => srcPix v.fmt a c x

/-- All samples of a pixel; one that fails makes the pixel transparent. -/
def vAll (v : VPlane) (rows : List Nat) : List (Option (Nat × Nat)) → WFet → Option (List Nat) × WFet
  | [], x => (some [], x)
  | p :: l, x =>
    match vSample v rows p x with
    | (none, x) => (none, x)
    | (some a, x) =>
      match vAll v rows l x with
      | (none, x) => (none, x)
      | (some r, x) => (some (a :: r), x)

/-- The bilinear sum of a channel (R381). -/
def bilin (fx fy : Nat) (k : Nat) (l : List Nat) : Nat :=
  let c := fun i => bits ((l.drop i).headD 0) (8 * k + 7) (8 * k)
  ((16 - fx) * (16 - fy) * c 0 + fx * (16 - fy) * c 1 + (16 - fx) * fy * c 2 + fx * fy * c 3 + 128) / 256

/-- The pixel of a video plane at an active position of its window. -/
def videoPix (v : VPlane) (rows : List Nat) (ax ay : Nat) (x : WFet) : Option Nat × WFet :=
  match vAll v rows (vSamples v ax ay) x with
  | (none, x) => (none, x)
  | (some l, x) =>
    if !v.bilinear then (some (l.headD 0), x)
    else
      let (sx, sy) := vPos v ax ay
      let fx := (sx / 4096 % 16).toNat
      let fy := (sy / 4096 % 16).toNat
      (some (bilin fx fy 0 l + bilin fx fy 1 l * 0x100 + bilin fx fy 2 l * 0x10000 + bilin fx fy 3 l * 0x1000000), x)

/-- The frame of its stream that a camera-sourced plane takes for a display frame (R380). -/
def vTakeFrame (h p : Nat) (s : State) : State :=
  let c := rd s (Rg.WINGCASE_VP_CTRL + wcReg 0 h + 64 * (p - 4))
  let st := fld c 28 24
  let x := wHead s h
  let s := putHead h { x with cams := kvErase x.cams p } s
  if !fbit c 0 || !fbit c 18 then s
  else
    match (camStream s st).done with
    | none => s
    | some a =>
      let (l, bad, s) := devRead clsWing a 64 s
      let x := wHead s h
      if bad then s
      else putHead h { x with cams := kvInsert x.cams p (a, leAt l 22 2, leAt l 16 4, camPool s st) } s

/-! ## Sprites (R383, R384) -/

/-- One entry of the sprite table, if the sprite is enabled (R383). -/
def parseSprite (s : State) (n : Nat) (l : List Byte) : Option WSprite :=
  let b6 := leAt l 6 1
  let b7 := leAt l 7 1
  let bpp := 2 * 2 ^ bits b6 7 6
  let w := 8 * (leAt l 4 1 % 16 + 1)
  let h := 8 * (leAt l 5 1 % 16 + 1)
  let pix := leAt l 8 6
  if bit b6 3 && bits b6 7 6 != 3 && pix % 64 == 0 && pix + h * (w * bpp / 8) ≤ dramTop s.member then
    some { num := n, x := signed 13 (leAt l 0 2), y := signed 13 (leAt l 2 2), w := w, h := h, prio := b6 % 8,
           hflip := bit b6 4, vflip := bit b6 5, bpp := bpp, pal := b7 % 4, bank := bits b7 7 4, pix := pix }
  else none

/-- The head reads its sprite table, at the start of display line VTOTAL − 2 (R383). -/
def spriteFetch (h : Nat) (late : Bool) (s : State) : State :=
  let x := wHead s h
  if !(wDline s h + 2 == wVtotal s h && x.sprAt != x.lines && x.lines != 0) then s
  else
    let s := putHead h { x with sprAt := x.lines } s
    if !enabled s (wcPg h) || rdB s (wcReg Rg.WINGCASE_HEAD_STAT h) 17 then s
    else if late then setEvt (wcPg h) 6 (wcCount h 4 s)
    else
      let a := rd64 s (wcReg Rg.WINGCASE_SPR_BASE_LO h)
      let (l, s) := (List.range 64).foldl (fun (y : List WSprite × State) i =>
        let (d, bad, s) := devRead clsWing (a + 64 * i) 64 y.2
        let new := if bad then [] else
          (List.range 4).filterMap fun j => parseSprite s (4 * i + j) ((d.drop (16 * j)).take 16)
        (y.1 ++ new, s)) ([], s)
      putHead h { wHead s h with nextSprites := some l } s

/-- The sprites that cover a display line: shown ones and dropped ones (R384). -/
def spriteSelect (s : State) (h n : Nat) : List WSprite × List WSprite :=
  let ay : Int := (n : Int) - (wVstart s h : Int)
  let l := (wHead s h).sprites.filter fun p => p.y ≤ ay && ay < p.y + p.h
  (l.take 32, l.drop 32)

/-- Dropped sprites recorded for the frame (R384). -/
def spriteDrops (h n : Nat) (l : List WSprite) (s : State) : State :=
  match l with
  | [] => s
  | p :: _ =>
    let x := wHead s h
    let first := x.ovf.isNone
    let s := putHead h { x with ovf := some (x.ovf.getD (n, p.num)), ovfLines := x.ovfLines + 1 } s
    if first then setEvt (wcPg h) 1 s else s

/-- The pixel of a sprite at an active column of row ay. -/
def spritePix (h : Nat) (p : WSprite) (ax ay : Nat) (x : WFet) : Option Nat × WFet :=
  let c : Int := (ax : Int) - p.x
  let r : Int := (ay : Int) - p.y
  if c < 0 || (p.w : Int) ≤ c || r < 0 || (p.h : Int) ≤ r then (none, x)
  else
    let i := if p.hflip then p.w - 1 - c.toNat else c.toNat
    let j := if p.vflip then p.h - 1 - r.toNat else r.toNat
    match wcPacked false p.bpp (p.pix + j * (p.w * p.bpp / 8)) i x with
    | (none, x) => (none, x)
    | (some 0, x) => (none, x)
    | (some v, x) => wcColour false 0 h p.pal (wcIndex p.bpp p.bank v) x

/-! ## A line's data (R375, R387) -/

/-- A candidate's pixels over the active columns. -/
def layerPix (hact : Nat) (f : Nat → WFet → Option Nat × WFet) (x : WFet) : List (Option Nat) × WFet :=
  (List.range hact).foldl (fun (y : List (Option Nat) × WFet) ax =>
    let (v, x) := f ax y.2
    (y.1 ++ [v], x)) ([], x)

/-- The planes of a line: guard-owned ones only under SAFE_ONLY (R397). -/
def planeLayers (h ay : Nat) (safe : Bool) (x : WFet) : List WLayer × WFet :=
  (List.range 6).foldl (fun (y : List WLayer × WFet) p =>
    let s := y.2.s
    let c := rd s (if p < 4 then Rg.WINGCASE_TP_CTRL + wcReg 0 h + 64 * p else Rg.WINGCASE_VP_CTRL + wcReg 0 h + 64 * (p - 4))
    if !fbit c 0 || (safe && !(p < 4 && fbit c 4)) then y
    else
      let hact := wHact s h
      let (l, x) :=
        if p < 4 then layerPix hact (fun ax => tilePix h p ax ay) y.2
        else
          let v := vPlane s h p
          let rows := vRows v hact ay
          let cols := vCols v hact ay
          layerPix hact (fun ax x => if cols.contains ax then videoPix v rows ax ay x else (none, x)) y.2
      (y.1 ++ [⟨p, fld c 3 1, fld c 15 8, l⟩], x)) ([], x)

/-- The shown sprites of a line. -/
def spriteLayers (h ay : Nat) (l : List WSprite) (x : WFet) : List WLayer × WFet :=
  l.foldl (fun (y : List WLayer × WFet) p =>
    let (v, x) := layerPix (wHact y.2.s h) (fun ax => spritePix h p ax ay) y.2
    (y.1 ++ [⟨16 + p.num, p.prio, 255, v⟩], x)) ([], x)

/-- The set boundary of a display line after its line-table entries: latch, sprites, fetch (R375). -/
def setLatch (h n : Nat) (bad : List Nat) (s : State) : State :=
  let p := wcPg h
  let safe := rdB s (wcReg Rg.WINGCASE_HEAD_CTRL h) 0
  let on := enabled s p
  let s := wrB (wcReg Rg.WINGCASE_HEAD_STAT h) 17 safe s
  let x := wHead s h
  let s := match n, x.nextSprites with
    | 0, some l => putHead h { x with sprites := l, nextSprites := none } s
    | _, _ => s
  let w : WSet := ⟨n, s.regs.filter (fun r => r.1 / 0x1000 == p), on, safe, [], false, false, false⟩
  if !on then putHead h { wHead s h with set := some w } s
  else
    let (shown, dropped) := if safe then ([], []) else spriteSelect s h n
    let s := spriteDrops h n dropped s
    let s := if n == wVstart s h && !safe then vTakeFrame h 5 (vTakeFrame h 4 s) else s
    if !(wVstart s h ≤ n && n < wVstart s h + wVact s h) then putHead h { wHead s h with set := some w } s
    else
      let ay := n - wVstart s h
      let (pl, f) := planeLayers h ay safe ⟨[], bad, [], false, false, false, s⟩
      let (sl, f) := spriteLayers h ay shown f
      let w := { w with layers := pl ++ sl, poison := f.poison, clip := f.clip, lost := f.lost }
      let s := f.met.foldl (fun s o => raiseFault 12 1 (0x50000000 + o) 0 s) f.s
      putHead h { wHead s h with set := some w } s

/-! ## Composition (R385, R386), collisions (R392), tell-tales (R393, R394) -/

/-- A candidate stands in front of another (R385). -/
def inFront (a b : WLayer) : Bool :=
  b.prio < a.prio || (a.prio == b.prio && ((16 ≤ a.id && b.id < 16) || ((16 ≤ a.id) == (16 ≤ b.id) && a.id < b.id)))

/-- A candidate put into a list ranked back to front. -/
def insertLayer (a : WLayer) : List WLayer → List WLayer
  | [] => [a]
  | b :: r => if inFront b a then a :: b :: r else b :: insertLayer a r

def blend (s a d : Nat) : Nat := (s * a + d * (255 - a) + 127) / 255

/-- A candidate's pixel over the value beneath it (R386). -/
def blendPix (ga : Nat) (v : Option Nat) (d : Nat) : Nat :=
  match v with
  | none => d
  | some c =>
    let a := (bits c 31 24 * ga + 127) / 255
    blend (bits c 7 0) a (bits d 7 0) + blend (bits c 15 8) a (bits d 15 8) * 0x100
      + blend (bits c 23 16) a (bits d 23 16) * 0x10000

def layerAt (l : WLayer) (ax : Nat) : Option Nat := (l.pix.drop ax).headD none

/-- The pixels of a line over its background. -/
def composeLine (hact bg : Nat) (l : List WLayer) : List Nat :=
  let back := l.foldl (fun r a => insertLayer a r) []
  (List.range hact).map fun ax => back.foldl (fun d a => blendPix a.ga (layerAt a ax) d) bg

/-- A candidate is non-transparent at a column, its alpha unscaled (R392). -/
def layerHits (l : List WLayer) (id ax : Nat) : Bool :=
  l.any fun a => a.id == id && (match layerAt a ax with
    | some c => bits c 31 24 != 0
    | none => false)

/-- A candidate's pixel at a column is named as late. -/
def isLate (late : List (Nat × Nat × Nat)) (id ax : Nat) : Bool :=
  late.any fun t => t.1 == id && decide (t.2.1 ≤ ax) && decide (ax ≤ t.2.2)

/-- Pixels not in the line buffers when their line begins: transparent (R387). -/
def dropLate (late : List (Nat × Nat × Nat)) (l : List WLayer) : List WLayer :=
  l.map fun a =>
    let pix := (List.range a.pix.length).map fun ax => bif isLate late a.id ax then none else layerAt a ax
    { a with pix := pix }

/-- A register of a line's set. -/
def setReg (w : WSet) (a : Nat) : W32 := (kvFind w.regs a).getD (resetOf a)

/-- The collisions of a line (R392). -/
def lineHits (h n hact : Nat) (w : WSet) (l : List WLayer) (s : State) : State :=
  let x := wHead s h
  let hits := (List.range 64).foldl (fun (t : List (Nat × (Nat × Nat))) k =>
    let c := setReg w (wcReg Rg.WINGCASE_COLL_CFG h + 4 * k)
    if !fbit c 17 || (kvFind t k).isSome then t
    else
      let b := if fbit c 16 then fld c 15 8 else 16 + fld c 15 8
      if fbit c 16 && 5 < fld c 15 8 then t
      else
        match (List.range hact).find? fun ax => layerHits l (16 + fld c 7 0) ax && layerHits l b ax with
        | some ax => kvInsert t k (n, ax)
        | none => t) x.hits
  putHead h { x with hits := hits } s

/-- A pixel's bytes R, G, B. -/
def rgbBytes (v : Nat) : List Byte := toLE 3 v

/-- The tell-tale CRCs over a line's output pixels (R393). -/
def lineTells (h ay : Nat) (w : WSet) (out : List Nat) (s : State) : State :=
  let x := wHead s h
  let upd := fun (t : List (Nat × Nat) × List Nat) (r : Nat) =>
    let b := wcReg 0 h + 16 * r
    let tl := setReg w (Rg.WINGCASE_TT_TL + b)
    let br := setReg w (Rg.WINGCASE_TT_BR + b)
    if !fbit (setReg w (Rg.WINGCASE_TT_EN + b)) 0 then t
    else
      let ev := if t.2.contains r then t.2 else t.2 ++ [r]
      if !(fld tl 27 16 ≤ ay && ay ≤ fld br 27 16) then (t.1, ev)
      else
        let px := (out.take (fld br 11 0 + 1)).drop (fld tl 11 0)
        if px.isEmpty then (t.1, ev)
        else (kvInsert t.1 r (crcMore 0xEDB88320 (kvGet 0xFFFFFFFF t.1 r) (px.flatMap rgbBytes)), ev)
  let t := (List.range 16).foldl upd (x.crcs, x.evald)
  putHead h { x with crcs := t.1, evald := t.2 } s

/-- One region at the frame end (R394). -/
def tellEnd (h r : Nat) (x : WHead) (m : Nat × Nat × State) : Nat × Nat × State :=
  let (mis, ev, s) := m
  let b := wcReg 0 h + 16 * r
  let en := rd s (Rg.WINGCASE_TT_EN + b)
  if !fbit en 0 || !x.evald.contains r then m
  else
    let crc := match kvFind x.crcs r with
      | some c => Nat.xor c 0xFFFFFFFF
      | none => 0
    let s := wr (wcReg Rg.WINGCASE_TT_CRC h + 4 * r) (w32 crc) s
    if crc == rdN s (Rg.WINGCASE_TT_EXPECT + b) then (mis, ev + 2 ^ r, s)
    else
      let s := if fbit en 1 then raiseFault 7 (wcPg h) r crc s else s
      (mis + 2 ^ r, ev + 2 ^ r, setEvt (wcPg h) 4 s)

/-- The frame end of a head (R376, R384, R392, R394). -/
def frameFinish (h : Nat) (s : State) : State :=
  let x := wHead s h
  let (mis, ev, s) := (List.range 16).foldl (fun m r => tellEnd h r x m) (0, 0, s)
  let s := wr (wcReg Rg.WINGCASE_TT_STAT h) (w32 (mis + ev * 0x10000)) s
  let ovf := match x.ovf with
    | some (n, k) => n + k * 0x10000 + 0x80000000
    | none => 0
  let s := wr (wcReg Rg.WINGCASE_OVF_LINES h) (w32 x.ovfLines) (wr (wcReg Rg.WINGCASE_OVF_STAT h) (w32 ovf) s)
  let mask := fun lo => (List.range 32).foldl (fun m i => if (kvFind x.hits (lo + i)).isSome then m + 2 ^ i else m) 0
  let s := wr (wcReg Rg.WINGCASE_COLL h + 4) (w32 (mask 32)) (wr (wcReg Rg.WINGCASE_COLL h) (w32 (mask 0)) s)
  let s := (List.range 64).foldl (fun s k =>
    wr (wcReg Rg.WINGCASE_COLL_HIT h + 4 * k) (match kvFind x.hits k with
      | some (n, c) => w32 (n + c * 0x10000 + 0x80000000)
      | none => 0) s) s
  let s := if x.hits.isEmpty then s else setEvt (wcPg h) 3 s
  let x := wHead s h
  setEvt (wcPg h) 0 (putHead h { x with ovf := none, ovfLines := 0, hits := [], crcs := [], evald := [] } s)

/-- The DSI link can carry the pixels (R400): LANES × RATE × 40 / 3 against 24 × HACT + 512. -/
def dsiRateOk (s : State) : Bool :=
  let c := rd s Rg.DSI_CFG
  let lanes := 2 ^ fld c 3 2
  (24 * wHact s 0 + 512) * 3 ≤ lanes * fld c 15 4 * 40

/-- The link clock of LVDS lies in 20 to 85 MHz (R402): HEAD1CLK is 2,457.6 MHz / N. -/
def lvdsRange (s : State) : Bool :=
  let n := s.clk.head1Div * (if rdB s Rg.LVDS_CFG 0 then 2 else 1)
  200 * n ≤ 24576 && 24576 ≤ 850 * n

/-- The pixels of a line leave for the head's link: none over a link that cannot carry them (R400, R402). -/
def pixelsOut (h n : Nat) (out : List Nat) (s : State) : State :=
  if h == 0 then
    if enabled s Pg.DSI && !rdB s Rg.DSI_STAT 1 then emit (.pixels 0 n out) s else s
  else if enabled s Pg.LVDS && rdB s Rg.LVDS_STAT 0 then emit (.pixels 1 n out) s
  else s

/-- An active display line is composed from its set and scanned (R385 to R387, R398). -/
def scanLine (h n : Nat) (late : List (Nat × Nat × Nat)) (s : State) : State :=
  let hact := wHact s h
  let x := wHead s h
  let black := pixelsOut h n (List.replicate hact 0) s
  match x.set with
  | none => black
  | some w =>
    if (w.line != n || !w.on || !enabled s (wcPg h)) = true then black
    else
      let ay := n - wVstart s h
      let l := dropLate late w.layers
      let s := if l != w.layers then setEvt (wcPg h) 2 (wcCount h 0 s) else s
      let s := if w.poison then setEvt (wcPg h) 7 (wcCount h 5 s) else s
      let s := if w.clip then wcCount h 6 s else s
      let s := if w.lost then wcCount h 7 s else s
      let out := composeLine hact (fld (setReg w (wcReg Rg.WINGCASE_BG_COLOR h)) 23 0) l
      lineTells h ay w out (lineHits h n hact w l (pixelsOut h n out s))

/-- A display line may start: head 0 with each stave line, head 1 by its own clock. -/
def lineDue (s : State) (h : Nat) : Bool :=
  s.clk.running && (h == 1 || (h == 0 && s.clk.beat == 0 && s.clk.sub == 0 && (wHead s 0).lines ≤ linLine s))

/-- A display line starts (R376, R387); late data is named by candidate and first and last column. -/
def lineStart (h : Nat) (late : List (Nat × Nat × Nat)) (s : State) : State :=
  let x := wHead s h
  let n := if h == 0 then s.clk.line else x.next
  let s := wrB (wcReg Rg.WINGCASE_HEAD_STAT h) 16 true (wrF (wcReg Rg.WINGCASE_HEAD_STAT h) 10 0 n s)
  let s := putHead h { x with lines := if h == 0 then linLine s + 1 else x.lines + 1, next := wAfter s h n } s
  let s := if n == 0 then bumpWrap (wcReg Rg.WINGCASE_FRAME h) s else s
  let s := if wVstart s h ≤ n && n < wVstart s h + wVact s h then scanLine h n late s else s
  if n == (wVstart s h + wVact s h) % wVtotal s h then frameFinish h s else s

/-! ## The line table (R388 to R391) -/

/-- A segment header keeps its ranges (R388). -/
def segHdrOk (l : List Byte) : Bool := 1 ≤ leAt l 2 1 && leAt l 2 1 ≤ 32 && leAt l 4 2 ≤ 256

/-- A segment's bytes: its header, and the entries of a good one. -/
def readSeg (a : Nat) (s : State) : List Byte × State :=
  let (hd, _, s) := devRead clsWing a 32 s
  if !segHdrOk hd || leAt hd 4 2 == 0 then (hd, s)
  else
    let (d, _, s) := devRead clsWing (a + 32) (8 * leAt hd 4 2) s
    (hd ++ d, s)

/-- A head starts to load a segment. -/
def segFetch (h a : Nat) (first : Option Nat) (s : State) : State :=
  if !enabled s (wcPg h) || rdB s (wcReg Rg.WINGCASE_HEAD_STAT h) 17 then s
  else
    let (d, s) := readSeg a s
    let x := wHead s h
    putHead h { x with loads := x.loads ++ [⟨headLine s h, wDline s h, d, first⟩] } s

/-- The segment that head 1 fetches at the start of its present display line (R391). -/
def lt1Due (s : State) : Option Nat :=
  let n := wDline s 1 + 2
  if !rdB s (Rg.WINGCASE_LT1_CTRL + 0x1000) 0 || (wHead s 1).lines == 0 then none
  else if n == wVtotal s 1 then some 0
  else if n % 32 == 0 && n < wVtotal s 1 then some (n / 32)
  else none

/-- Entries of a segment, with those that leave its range or order, and those whose set boundary is over before display
line t (R390). -/
def segEnts (first nl t : Nat) : Nat → Nat → List Byte → List WEntry
  | 0, _, _ => []
  | n + 1, hi, l =>
    let d := leAt l 0 2 % 0x800
    let bad := decide (d < first) || decide (first + nl ≤ d) || decide (d < hi)
    ⟨d, leAt l 2 2 % 0x1000, leAt l 4 4, bad, bad || decide (d < t)⟩ :: segEnts first nl t n (max hi d) (l.drop 8)

def wcSkip (h n : Nat) (s : State) : State :=
  let a := wcReg Rg.WINGCASE_COUNTS h + 4
  wr a (satAdd (rd s a) n) s

/-- A segment's load completes, or is discarded as late (R389, R391). -/
def segLoaded (h : Nat) (s : State) : State :=
  let x := wHead s h
  match x.loads with
  | [] => s
  | ld :: rest =>
    let s := putHead h { x with loads := rest } s
    if headLine s h != ld.at_ then setEvt (wcPg h) 5 (wcCount h 2 s)
    else if !segHdrOk ld.data || (ld.first.isSome && ld.first != some (leAt ld.data 0 2)) then
      setEvt (wcPg h) 5 (wcCount h 3 s)
    else
      let first := leAt ld.data 0 2
      let nl := leAt ld.data 2 1
      let ents := segEnts first nl ((ld.dline + 2) % wVtotal s h) (leAt ld.data 4 2) 0 (ld.data.drop 32)
      let gone := if x.segs.length < 2 then [] else (x.segs.take 1).flatMap (·.ents.filter (!·.past))
      let segs := (if x.segs.length < 2 then x.segs else x.segs.drop 1) ++ [⟨first, nl, ld.at_ + 1, ents⟩]
      putHead h { wHead s h with segs := segs } (wcSkip h (gone.length + (ents.filter (·.past)).length) s)

/-- An offset of the line-table set of R390. -/
def inTableSet (s : State) (h off : Nat) : Bool :=
  off % 4 == 0 && (off == 0x04C || off == 0x088 || off == 0x08C
    || (0x100 ≤ off && off < 0x280
        && !((off - 0x100) / 64 < 4 && rdB s (Rg.WINGCASE_TP_CTRL + wcReg 0 h + 64 * ((off - 0x100) / 64)) 4)))

/-- Entries of the loaded segments for a display line, in order. -/
def tableFor (s : State) (h n : Nat) : List WEntry :=
  ((wHead s h).segs.filter (·.part ≤ headLine s h)).flatMap fun g => g.ents.filter fun e => e.dline == n && !e.bad

/-- The entries of a display line marked as come. -/
def tableMark (h n : Nat) (s : State) : State :=
  let x := wHead s h
  let mark := fun (e : WEntry) => if e.dline == n then { e with past := true } else e
  let segs := x.segs.map fun g => if g.part ≤ headLine s h then { g with ents := g.ents.map mark } else g
  putHead h { x with segs := segs } s

/-- One entry: a write, or skipped where its OFFSET is not in the set (R390). -/
def tableEntry (wt : Nat → Nat → W32 → State → State) (h : Nat) (s : State) (e : WEntry) : State :=
  if inTableSet s h e.off then wt (wcPg h) e.off (w32 e.val) s else wcSkip h 1 s

/-- The line-table entries of display line n applied by a head with the write given (R390). -/
def tableApply (wt : Nat → Nat → W32 → State → State) (h n : Nat) (s : State) : State :=
  if !enabled s (wcPg h) then s
  else
    let es := tableFor s h n
    let s := tableMark h n s
    let s := (es.take 8).foldl (tableEntry wt h) s
    wcSkip h (es.length - 8) s

/-! ## Palettes (R378) -/

/-- An entry written through a pair of index and data ports. -/
def palWrite (h idxReg : Nat) (v : W32) (s : State) : State :=
  let i := rdN s (wcReg idxReg h) % 1024
  let s := { s with wing := { s.wing with pals := kvPut 0 s.wing.pals (h * 1024 + i) v } }
  wr (wcReg idxReg h) (w32 ((i + 1) % 1024)) s

/-- An entry read through PAL_DATA. -/
def palRead (h idxReg : Nat) (s : State) : W32 × State :=
  let i := rdN s (wcReg idxReg h) % 1024
  (palEntry s h i, wr (wcReg idxReg h) (w32 ((i + 1) % 1024)) s)

/-! ## DSI and LVDS (R400 to R402) -/

/-- Data types of a generic write that the transmitter sends. -/
def dsiShort (dt : Nat) : Bool := dt == 0x03 || dt == 0x13 || dt == 0x23 || dt == 0x05 || dt == 0x15
def dsiGenOk (s : State) : Bool :=
  let g := rd s Rg.DSI_GEN_HDR
  let dt := fld g 5 0
  !rdB s Rg.DSI_GEN_STAT 0 && (dsiShort dt || ((dt == 0x29 || dt == 0x39) && fld g 23 8 ≤ 16))

/-- A generic write queued (R401). -/
def dsiGenGo (s : State) : State :=
  let g := rd s Rg.DSI_GEN_HDR
  let n := if dsiShort (fld g 5 0) then 0 else fld g 23 8
  let d := ((List.range 4).flatMap fun i => toLE 4 (rdN s (Rg.DSI_GEN_DATA + 4 * i))).take n
  wrB Rg.DSI_GEN_STAT 0 true { s with wing := { s.wing with gen := some (linLine s, g.toNat, d) } }

/-- The present display line of head 0 is vertical blanking outside VSYNC. -/
def dsiBlank (s : State) : Bool :=
  let n := wDline s 0
  rdF s Rg.WINGCASE_TIMING2 11 8 ≤ n && !(wVstart s 0 ≤ n && n < wVstart s 0 + wVact s 0)

/-- The waiting generic write is sent on the head's virtual channel (R401). -/
def dsiGenSend (s : State) : State :=
  match s.wing.gen with
  | none => s
  | some (lin, g, d) =>
    if !(lin < linLine s && dsiBlank s && enabled s Pg.DSI) then s
    else
      let hd := setBits g 7 6 (rdF s Rg.DSI_CFG 20 19)
      let s := emit (.dsi hd d) { s with wing := { s.wing with gen := none } }
      setEvt Pg.DSI 0 (wrB Rg.DSI_GEN_STAT 0 false s)

/-- DSI.CFG is one of the PHY's rates (R399). -/
def dsiCfgOk (v : W32) : Bool :=
  fld v 1 0 ≤ 1 && fld v 3 2 ≤ 2 && 80 ≤ fld v 15 4 && (fld v 15 4 ≤ (if fld v 1 0 == 0 then 2500 else 4500))

/-- RATE_LOW after a staged application of head 0 (R400). -/
def dsiRateCheck (s : State) : State :=
  let low := enabled s Pg.DSI && !dsiRateOk s
  let s := if low && !rdB s Rg.DSI_STAT 1 then setEvt Pg.DSI 1 s else s
  wrB Rg.DSI_STAT 1 low s

/-- LINK_UP follows ENABLE. -/
def dsiEnable (on : Bool) (s : State) : State := wrB Rg.DSI_STAT 1 false (wrB Rg.DSI_STAT 0 on s)

/-- RANGE_OK of the LVDS transmitter after a change of its clock or its enable (R402). -/
def lvdsCheck (s : State) : State :=
  let on := enabled s Pg.LVDS
  let ok := on && lvdsRange s
  let s := if on && !ok then setEvt Pg.LVDS 0 s else s
  wrB Rg.LVDS_STAT 0 ok s

/-- What a block reset does to a head (R398): palettes, sets, segments and frame results go; the timing runs on. -/
def headReset (h : Nat) (s : State) : State :=
  let x := wHead s h
  let pals := s.wing.pals.filter fun e => e.1 / 1024 != h
  putHead h { WHead.reset with lines := x.lines, next := x.next } { s with wing := { s.wing with pals := pals } }

end Sys2Proof.Machine
end

