-- ==== Sys2Proof/Machine/Boot.lean ====
section
/-! DEFINITION. Power, resets, boot stages, images, OTP, the tuning record and adaptive voltage (R96 to R121, R538, R542),
and the root clock (R25 to R29). -/
namespace Sys2Proof.Machine

def setStage (n : Nat) (s : State) : State := wrF Rg.BOOT_STAT 2 0 n s
def bootFailed (s : State) : Bool := rdB s Rg.BOOT_STAT 3
def straps (s : State) : Nat := rdF s Rg.BOOT_STRAP 2 0

/-- A boot stage runs: power is on, PORST_N is high and no stage has failed (R108). -/
def inStage (s : State) (n : Nat) : Bool := s.boot.powered && s.boot.porstN && stage s == n && !bootFailed s

/-- Entry to stage n of S2 to S6 (R106). -/
def enterStage (n : Nat) (s : State) : State :=
  wr (Rg.BOOT_S_ENTRY + 4 * (n - 2)) (w32 (stimeNow s)) (setStage n s)

/-- A boot stage fails (R108). -/
def bootFail (code info : Nat) (s : State) : State :=
  emit (.faultN false) (wr Rg.BOOT_FAIL_INFO (w32 info) (wrF Rg.BOOT_STAT 15 8 code (wrB Rg.BOOT_STAT 3 true s)))

/-! ## S1: straps, root PLL (R26, R101) -/

/-- The straps select xSPI slots, at first or only (R101). -/
def strapXspi (s : State) : Bool := straps s ≤ 3 || straps s == 5

/-- S1 begins with the straps sampled (R26, R101, R538). -/
def beginS1 (b : Nat) (s : State) : State :=
  let s := { s with boot := { s.boot with porstN := true, xspiResetN := true } }
  let s := setHartReset 0 false (setStage 1 (wr Rg.BOOT_STRAP (w32 (b % 8)) s))
  if b % 8 ≤ 5 then s else bootFail 0x12 (b % 8) s

/-- The dividers are released and the counter starts at zero (R25, R26). -/
def dividerRelease (s : State) : State :=
  { s with clk := { s.clk with running := true, released := true, snum := 0, line := 0, beat := 0, sub := 0, staves := 0 } }

/-- Root lock is lost (R28). -/
def lockLost (s : State) : State :=
  let s := { s with clk := { s.clk with hartFab := false } }
  let s := hwSet 6 Rg.CLOCK_STAT (setFld (rd s Rg.CLOCK_STAT) 0 0 0) s
  let s := setEvt Pg.CLOCK 0 s
  let s := { s with clk := { s.clk with running := false } }
  raiseFault 8 Pg.CLOCK 0 0 s

/-- A PLL outside the root loses lock after having locked (R85). -/
def xpllLost (pll : Nat) (s : State) : State :=
  setEvt Pg.CLOCK 2 (hwSet 6 Rg.CLOCK_STAT (setFld (rd s Rg.CLOCK_STAT) pll pll 0) s)

/-- One comparison of REFCLK (R29). -/
def refCheck (ppm : Int) (s : State) : State :=
  let s := wr Rg.CLOCK_REF_PPM (w32 (unsigned 16 (max (-32767) (min ppm 32767)))) s
  if 2000 < ppm || ppm < -2000 then
    let n := min 2 (s.clk.refBad + 1)
    let s := { s with clk := { s.clk with refBad := n } }
    if n == 2 && rdB s Rg.CLOCK_STAT 1 then setEvt Pg.CLOCK 1 (wrB Rg.CLOCK_STAT 1 false s) else s
  else wrB Rg.CLOCK_STAT 1 true { s with clk := { s.clk with refBad := 0 } }

/-! ## Images (R111 to R115) -/

def otpWord (s : State) (w : Nat) : W32 := kvGet 0 s.boot.otp w
def sbEn (s : State) : Bool := fbit (otpWord s 48) 0
def otpSvn (s : State) : Nat := popcount 32 (otpWord s 50).toNat
/-- The 48 bytes of KEY_HASH[k]: 12 OTP words, least significant byte first (log 8). -/
def otpKeyHash (s : State) (k : Nat) : List Byte := (List.range 12).flatMap fun i => toLE 4 (otpWord s (12 * k + i)).toNat

/-- Offset and length of segment u (R113). -/
def imgSeg (img : List Byte) (u : Nat) : Nat × Nat := (leAt img (16 + 8 * u) 4, leAt img (20 + 8 * u) 4)

/-- Every segment lies in the signed bytes and is at most 256 KiB (R113, R115). -/
def segsInside (img : List Byte) : Bool :=
  (List.range 4).all fun u =>
    let (o, n) := imgSeg img u
    decide (n ≤ 0x40000) && decide (o + n ≤ leAt img 12 4)

/-- The checks of R115: a failure code, or 0 when the image is accepted. -/
def checkImage (s : State) (img : List Byte) : Nat :=
  let total := leAt img 12 4
  let key := leAt img 6 1
  let pub := (img.drop 128).take 96
  if !(img.take 4 == [0x5A#8, 0x53#8, 0x42#8, 0x49#8]) || leAt img 4 2 != 1 || total < 256 || 1048832 < total
      || img.length < total + 96 || !segsInside img then 0x15
  else if !sbEn s then 0
  else if 3 < key || fbit (otpWord s 49) key || !(Config.sha384 pub == otpKeyHash s key) then 0x16
  else if leAt img 8 4 < otpSvn s then 0x17
  else if !Config.ecdsaP384Verify pub (Config.sha384 (img.take total)) ((img.drop total).take 96) then 0x18
  else 0

/-- An image is accepted from a source: 0 slot A, 1 slot B, 2 host download (R111, R115). -/
def imageAccept (slot : Nat) (img : List Byte) (s : State) : State :=
  let seg := fun u => let (o, n) := imgSeg img u; (img.drop o).take n
  let es := (List.range 4).map fun u => leAt img (48 + 4 * u) 4
  let s := { s with boot := { s.boot with imageOk := true, entries := es, tcm := (List.range 4).map fun u => (u, seg u) } }
  wrB Rg.BOOT_STAT 18 (!sbEn s) (wrF Rg.BOOT_STAT 17 16 slot s)

/-- S1 fetches or checks an image slot (R106). -/
def slotReads (s : State) : Bool :=
  inStage s 1 && s.clk.running && strapXspi s && s.boot.xspiRead && !s.boot.imageOk && s.boot.slot ≤ 1

/-- A slot fails with a code: slot B or host download comes next, or boot stops (R108, R111). -/
def slotFail (code : Nat) (s : State) : State :=
  let k := s.boot.slot
  let s := wrF Rg.BOOT_FAIL_INFO (8 * k + 7) (8 * k) code s
  let s := { s with boot := { s.boot with slot := k + 1 } }
  if k == 0 then s
  else if straps s == 5 then enterStage 2 (wrF Rg.BOOT_STAT 17 16 2 s)
  else bootFail code (rdN s Rg.BOOT_FAIL_INFO) s

/-- An image slot has been read (R115). -/
def slotCheck (img : List Byte) (s : State) : State :=
  let code := checkImage s img
  if code == 0 then enterStage 2 (imageAccept s.boot.slot img s) else slotFail code s

/-- Stages and codes with which a stage can fail beside R26 and the image checks (R106, R108). -/
def failCodeOk (s : State) (code : Nat) : Bool :=
  (inStage s 1 && code == 0x13) || (inStage s 3 && (code == 0x31 || code == 0x32)) || (inStage s 4 && code == 0x41)
    || (inStage s 5 && !s.boot.s5done && (code == 0x51 || (code == 0x52 && !s.boot.imageOk)
      || (code == s.boot.dl.fail && s.boot.dl.state == 4)))

/-- The detail of a failure code: fixed by the table of R108, or what the stage found. -/
def failInfo (s : State) (code info : Nat) : Nat :=
  if code == 0x13 then info % 16 else if code == 0x32 then info % 256 else if code == 0x41 then info % 16
  else if code == 0x52 then s.boot.dl.bytes.length else 0

/-! ## S2: the tuning record (R116 to R118) and adaptive voltage (R542) -/

def mtpBytes (s : State) : List Byte := (List.range 256).flatMap fun i => toLE 4 (kvGet 0 s.boot.mtp i).toNat
def bufBytes (s : State) : List Byte := (List.range 256).flatMap fun i => toLE 4 (kvGet 0 s.boot.buf i).toNat

/-- MAGIC, VERSION and CRC of R116 and R117. -/
def recordOk (l : List Byte) : Bool :=
  l.take 4 == [0x5A#8, 0x54#8, 0x52#8, 0x31#8] && leAt l 4 2 == 1 && crc32 (l.take 0x3FC) == leAt l 0x3FC 4

def avsHalf (s : State) (h : Nat) : AvsHalf := kvGet AvsHalf.reset s.boot.avs h
def putAvs (h : Nat) (x : AvsHalf) (s : State) : State := { s with boot := { s.boot with avs := kvPut AvsHalf.reset s.boot.avs h x } }

/-- The reading of a sensor in units of 1/16 °C (R551). -/
def sensor (s : State) (k : Nat) : Int := signed 16 (leAt (gmemRead s (0x50060000 + 4 * k) 2) 0 2)

/-- Readings taken at a line: a sensor in an absent unit reads 0x8000 (R551); one without a new value keeps its own. -/
def sensorUpdate (temps : List Nat) (s : State) : State :=
  (List.range 8).foldl (fun s k =>
    let v := if s.member == .zs804q && 2 ≤ k && k ≤ 4 then some 0x8000 else (temps.drop k).head?
    match v with
    | some v => gmemWrite (0x50060000 + 4 * k) (toLE 2 v ++ [0, 0]) s
    | none => s) s

/-- T of a half: the highest reading of its sensors (R542). -/
def halfTemp (s : State) (h : Nat) : Int := max (sensor s (2 * h)) (sensor s (2 * h + 1))

/-- Temperature in 1/16 °C of AVS entry i of the record in force. -/
def avsTemp (s : State) (i : Nat) : Int := 16 * signed 8 (leAt s.boot.tune (16 + 4 * i) 1)

/-- Target in mV of AVS entry i for a half (R542). -/
def avsMv (s : State) (h i : Nat) : Nat := max 650 (min 850 (600 + leAt s.boot.tune (17 + 4 * i + h) 1))

/-- The candidate entry of a half (R542). -/
def avsCandidate (s : State) (h : Nat) : Nat := ((List.range 16).find? fun i => decide (halfTemp s h ≤ avsTemp s i)).getD 15

/-- The entry and target of a half chosen anew, from S2 (R118, R542). -/
def avsChoose (h : Nat) (s : State) : State :=
  let x := avsHalf s h
  if s.boot.tune.isEmpty then putAvs h { x with target := some 850 } s
  else
    let c := avsCandidate s h
    let e := if x.target.isNone || x.entry < c then c
      else if c < x.entry && decide (halfTemp s h ≤ avsTemp s c - 80) then c
      else x.entry
    putAvs h { x with entry := e, target := some (avsMv s h e) } s

def avsLine (s : State) : State :=
  (halves s.member).foldl (fun s h => if (avsHalf s h).target.isNone then s else avsChoose h s) s

/-- A request is due: a target away from the rail, none outstanding, one per 75 lines (R542). -/
def avsDue (s : State) (h : Nat) : Bool :=
  (halves s.member).contains h && (avsHalf s h).req.isNone && (avsHalf s h).next ≤ linLine s
    && match (avsHalf s h).target with | some t => t != (avsHalf s h).mv | none => false

/-- A step of at most 25 mV towards the target requested (R542). -/
def avsRequest (h : Nat) (s : State) : State :=
  let x := avsHalf s h
  let t := x.target.getD x.mv
  let v := if x.mv ≤ t then min t (x.mv + 25) else max t (x.mv - 25)
  emit (.avs h v) (putAvs h { x with req := some v, next := linLine s + 75 } s)

/-- The regulator acknowledges the step. -/
def avsAck (h : Nat) (s : State) : State :=
  let x := avsHalf s h
  putAvs h { x with mv := x.req.getD x.mv, req := none } s

/-- An unacknowledged request is repeated every 75 lines. -/
def avsRetry (h : Nat) (s : State) : State :=
  let x := avsHalf s h
  emit (.avs h (x.req.getD x.mv)) (putAvs h { x with next := linLine s + 75 } s)

def avsRetryDue (s : State) (h : Nat) : Bool := (avsHalf s h).req.isSome && (avsHalf s h).next ≤ linLine s

/-- The record is read and checked at S2, and its values or the safe defaults are loaded; S3 begins (R106, R110, R117,
R118). -/
def tuneLoad (readError : Bool) (s : State) : State :=
  let l := mtpBytes s
  let ok := !readError && !s.boot.mtpError && recordOk l
  let s := { s with boot := { s.boot with tune := if ok then l else [] } }
  let st := rdN s Rg.TUNE_STAT / 8 * 8 + b2n ok + b2n (!ok) * 2 + b2n (ok && bit (leAt l 6 2) 0) * 4
  let s := wrB Rg.BOOT_STAT 19 (!ok) (wr Rg.TUNE_STAT (w32 st) s)
  let s := if ok then s else setEvt Pg.TUNE 0 s
  let s := hwChange 3 Pg.TUNE 0x040 0 (rd s Rg.TUNE_STAT) s
  enterStage 3 ((halves s.member).foldl (fun s h => avsChoose h s) s)

/-! ## S3 to S6 -/

/-- The boot ROM writes a register (R109): the write goes through the page like any other. -/
def bootWrite (off : Nat) (v : W32) (s : State) : State := { s with regq := s.regq ++ [⟨0x42, 0, off, v, none, 15⟩] }

/-- S3 ends: DRAM is trained at the rate of R235, MR4 is read, and ENABLE is set on each channel (R106, R240). -/
def ddrTrained (mr4 : List Nat) (s : State) : State :=
  let s := wrB Rg.CLOCK_STAT 5 true s
  let s := (channels s.member).foldl (fun s c =>
    let s := wrB (drReg Rg.DRAMC_STAT c) 1 true (wrB (drReg Rg.DRAMC_STAT c) 0 (!s.boot.tune.isEmpty) s)
    bootWrite (hdr (Pg.DRAMC + c) Hdr.BLK_CTRL) 1 (mr4Read c (min 5 ((mr4.drop c).headD 2)) s)) s
  enterStage 4 s

/-- The pages whose ENABLE the boot ROM sets at S4 (R559). -/
def r559Kind (k : Kind) : Bool :=
  match k with
  | .pool => true
  | .admission => true
  | .mmu => true
  | .core => true
  | .cantor => true
  | _ => false

def r559Page (p : Nat) : Bool := match pageDesc p with | some d => r559Kind d.kind | none => false

/-- Host download is expected in S5 (R101, R111). -/
def downloadMode (s : State) : Bool := (straps s == 4 || straps s == 5) && !s.boot.imageOk

/-- S4 ends: SRAMs and scratch hold zeros, the LLC is empty, the Bridge is up (R106, R289, R557, R559). -/
def fabricInit (s : State) : State :=
  let s := { s with
    mem := s.mem.filter (fun c => c.1 < dramTop s.member)
    ms := { s.ms with touched := [], far := [], dirty := [], nrc := [], written := []
                      marks := s.ms.marks.filter (fun m => m.1 * 8 < dramTop s.member) } }
  let s := if present s.member Pg.BRIDGE then wrB Rg.BRIDGE_STAT 0 true s else s
  let s := (allPages s.member).foldl (fun s p => if r559Page p then bootWrite (hdr p Hdr.BLK_CTRL) 1 s else s) s
  let dl := if downloadMode s then { Download.reset with state := 0 } else { s.boot.dl with state := 5 }
  enterStage 5 { s with boot := { s.boot with dl := dl } }

/-- HOST.LINK_STAT for a link that is up in L0 (R122). -/
def linkUpStat (s : State) (speed width : Nat) : W32 :=
  setFld (w32 (speed % 16 + width % 64 * 16 + 0x400)) 15 14 (rdF s Rg.HOST_LINK_STAT 15 14)

/-- The data link comes up (R140). -/
def pcieUp (speed width : Nat) (s : State) : State :=
  if dlUp s then s
  else
    let s := wrB Rg.CLOCK_STAT 2 true s
    hwSet 5 Rg.HOST_LINK_STAT (linkUpStat s speed width) (setEvt Pg.HOST 0 s)

/-- S5 completes (R106): the SerDes PLLs of REFCLK_SD are locked (log 9), and the next stave boundary enters S6. -/
def s5Complete (speed width : Nat) (s : State) : State :=
  let s := pcieUp speed width s
  let s := wrB Rg.CLOCK_STAT 3 true s
  let s := if present s.member Pg.SLINK then wrB Rg.CLOCK_STAT 4 true s else s
  { s with boot := { s.boot with s5done := true, dl := { s.boot.dl with state := 5 } } }

/-- Entry to S6 in step 3 of a stave boundary: the boot score, the harts, FAULT_N (R106, R107, R108). -/
def enterS6 (s : State) : State :=
  let first := !s.boot.everS6
  let s := densitySync (bootScore s)
  let s := { s with boot := { s.boot with everS6 := true, rerun := false, s5done := false } }
  let s := wrB Rg.STAVE_STAT 4 true (enterStage 6 s)
  if !first then s
  else
    let s := (List.range 4).foldl (fun s h =>
      let s := wr (Rg.HART_STAT + h * 0x1000) 1 (setHartReset h false s)
      putHart h { HartSt.reset with pc := s.boot.entries.getD h 0 } s) s
    emit (.faultN true) s

/-! ## Host download (R112) -/

/-- The download registers accept writes. -/
def dlOpen (s : State) : Bool :=
  inStage s 5 && dlUp s && downloadMode s && (s.boot.dl.state == 0 || s.boot.dl.state == 1 || s.boot.dl.state == 4)

def putDl (d : Download) (s : State) : State := { s with boot := { s.boot with dl := d } }
def dlLen (v : W32) (s : State) : State := putDl { s.boot.dl with len := v.toNat } s
/-- DL_DATA: 4 bytes appended; those beyond DL_LEN are ignored. -/
def dlData (w : W32) (s : State) : State :=
  let d := s.boot.dl
  putDl { d with bytes := (d.bytes ++ toLE 4 w.toNat).take d.len, state := if d.state == 0 then 1 else d.state } s
def dlGo (s : State) : State := putDl { s.boot.dl with state := 2 } s
def dlRestart (s : State) : State := putDl { s.boot.dl with bytes := [], state := 0 } s
/-- Verification ends (R115). -/
def dlVerified (s : State) : State :=
  let code := checkImage s s.boot.dl.bytes
  if code == 0 then imageAccept 2 s.boot.dl.bytes (putDl { s.boot.dl with state := 3 } s)
  else putDl { s.boot.dl with state := 4, fail := code } s

/-! ## OTP (R114) and the tuning overwrite (R119, R120) -/

/-- The OTP word as programming leaves it. -/
def otpOred (s : State) (v : W32) : W32 := otpWord s (rdF s Rg.GUARD_OTP_ADDR 7 0) ||| v

/-- OTP_PROG is not refused (R114). -/
def otpProgOk (s : State) (v : W32) : Bool :=
  !(sbEn s && rdF s Rg.GUARD_OTP_ADDR 7 0 ≤ 48 && otpOred s v != otpWord s (rdF s Rg.GUARD_OTP_ADDR 7 0))

/-- Programming under way completes. -/
def otpDone (s : State) : State :=
  match s.boot.otpProg with
  | none => s
  | some (w, v) => { s with boot := { s.boot with otp := kvPut 0 s.boot.otp w (otpWord s w ||| v), otpProg := none } }

/-- An accepted OTP_PROG: programming starts; one still under way completes first. -/
def otpStart (v : W32) (s : State) : State :=
  let s := otpDone s
  { s with boot := { s.boot with otpProg := some (rdF s Rg.GUARD_OTP_ADDR 7 0, v) } }

/-- Sub-beats in 75 lines. -/
def lines75 : Nat := 75 * 2048

def tuneUnlocked (s : State) : Bool :=
  rdB s Rg.TUNE_STAT 7 && match s.boot.unlockEnd with | some t => linSub s < t | none => false

/-- The unlock sequence cleared (R120). -/
def tuneLock (s : State) : State :=
  wrB Rg.TUNE_STAT 7 false { s with boot := { s.boot with keyA := none, unlockEnd := none } }

/-- An accepted write of UNLOCK (R120). -/
def tuneKey (v : Nat) (s : State) : State :=
  let k := v % 0x10000
  let keyed := match s.boot.keyA with | some t => decide (linSub s < t) | none => false
  if k == 0x7A31 then { tuneLock s with boot := { (tuneLock s).boot with keyA := some (linSub s + lines75) } }
  else if k == 0xC0DE && keyed then
    wrB Rg.TUNE_STAT 7 true { s with boot := { s.boot with keyA := none, unlockEnd := some (linSub s + lines75) } }
  else tuneLock s

/-- The 75 lines are over, after KEY_A or after the unlock (R120). -/
def tuneExpired (s : State) : Bool :=
  (match s.boot.keyA with | some t => decide (t ≤ linSub s) | none => false)
    || (match s.boot.unlockEnd with | some t => decide (t ≤ linSub s) | none => false)

/-- COMMIT.GO is accepted (R120). -/
def commitOk (s : State) : Bool :=
  tuneUnlocked s && !rdB s Rg.TUNE_STAT 3 && s.boot.wcount < 1000 && recordOk (bufBytes s)

/-- Programming starts: BUSY sets, UNLOCKED clears, WCOUNT counts the commit (R120). -/
def commitGo (s : State) : State :=
  let n := s.boot.wcount + 1
  let s := wr Rg.TUNE_WCOUNT (w32 n) (wrB Rg.TUNE_STAT 3 true (tuneLock s))
  wrB Rg.TUNE_STAT 6 (1000 ≤ n) { s with boot := { s.boot with wcount := n } }

/-- A raw word of the record (R119); a failed or interrupted overwrite leaves it unknown (R121). -/
def mtpWord (s : State) (i : Nat) : W32 :=
  if s.boot.mtpError then Config.mtpLeft s.boot.wcount i else kvGet 0 s.boot.mtp i

/-- Programming and read-back are complete (R120); a failed read-back leaves the record in error. -/
def commitDone (ok : Bool) (s : State) : State :=
  let s := { s with boot := { s.boot with mtp := s.boot.buf, mtpError := !ok } }
  let s := wrF Rg.TUNE_STAT 5 3 (if ok then 2 else 4) s
  setEvt Pg.TUNE (if ok then 1 else 2) s

def bufIdx (s : State) : Nat := rdF s Rg.TUNE_BUF_IDX 7 0
def recIdx (s : State) : Nat := rdF s Rg.TUNE_REC_IDX 7 0

/-- A write of BUF_DATA (R120). -/
def bufWrite (v : W32) (s : State) : State :=
  let i := bufIdx s
  wr Rg.TUNE_BUF_IDX (w32 ((i + 1) % 256)) { s with boot := { s.boot with buf := kvPut 0 s.boot.buf i v } }

/-- A read of REC_DATA (R119). -/
def recRead (s : State) : W32 × State :=
  let i := recIdx s
  (mtpWord s i, wr Rg.TUNE_REC_IDX (w32 ((i + 1) % 256)) s)

/-! ## Resets (R102 to R105, R121) -/

/-- A cold reset of a cause: bit 0 power, 1 PORST_N, 2 GUARD.RESET.COLD. What is kept is OTP, the MTP and WCOUNT; the
commands that wait and the model's own records stay. DRAM that nothing has written since reads as unlisted bytes do
(log 5). -/
def coldReset (cause : Nat) (s : State) : State :=
  let busy := rdB s Rg.TUNE_STAT 3
  let b := { BootSt.reset with otp := s.boot.otp, mtp := s.boot.mtp, mtpError := s.boot.mtpError || busy
                               wcount := s.boot.wcount, warmN := s.boot.warmN, perstN := s.boot.perstN }
  let t := { State.reset with member := s.member, boot := b, free := s.free, out := s.out, pending := s.pending, regs := [] }
  let t := wr Rg.GUARD_RESET_CAUSE (w32 (2 ^ cause)) t
  let t := wrB Rg.TUNE_STAT 6 (1000 ≤ s.boot.wcount) (wr Rg.TUNE_WCOUNT (w32 s.boot.wcount) t)
  let t := wrB Rg.DEBUG_CTRL 0 (!sbEn t && !debugOff t) t
  let t := wrB Rg.DEBUG_STAT 1 (debugAllow t) t
  if s.boot.everS6 && !bootFailed s && !rdB s Rg.FAULT_PIN 0 then emit (.faultN false) t else t

/-- Register words that a warm reset keeps (R102): the Guard die's, the DRAMC pages', FENCED, the write counters, and of
the stave and clock pages what shows the counter and the PLLs that run on. -/
def warmKeeps (a : Nat) (v : W32) : Option W32 :=
  let (p, off, isHdr) := locate a
  match pageDesc p with
  | none => none
  | some d =>
    if d.guardDie || d.kind == .dramc then some v
    else if isHdr && (off == Hdr.PAGE_WSEQ || off == Hdr.PAGE_WDROP) then some v
    else if isHdr && off == Hdr.BLK_STAT then (if fbit v 3 then some 8 else none)
    else if a == Rg.CLOCK_STAT then some (w32 (v.toNat % 4 + fld v 5 5 * 32))
    else if a == Rg.CLOCK_REF_PPM then some v
    else if a == Rg.STAVE_STAT then some (w32 (v.toNat % 2))
    else none

/-- STATE of every ring after a warm reset: DISABLED, EPOCH one higher (R102, R189). -/
def warmEpochs (s : State) : List (Nat × W32) :=
  (List.range (nRings s.member)).filterMap fun r =>
    let e := (ringEpoch s r + 1) % 0x10000
    if e == 0 then none else some (ringReg Rg.RINGSTATE_STATE r, w32 e)

/-- DRAM after a warm reset: of a line written since S4, what had reached DRAM is left open (R103). -/
def warmDram (l : List (Nat × Bool)) (s : State) : State :=
  l.foldl (fun s x =>
    let (kept, s) := freeBit s
    if kept then s else
      let (v, s) := freeVal s
      memWrite (64 * x.1) (toLE 64 v) s) s

/-- The registers after a warm reset, in ascending order. -/
def warmRegs (s : State) : List (Nat × W32) :=
  let kept := s.regs.filterMap fun x => (warmKeeps x.1 x.2).map fun v => (x.1, v)
  kept.filter (·.1 < 0x100000) ++ warmEpochs s ++ kept.filter (0x200000 ≤ ·.1)

/-- A warm reset by a source, 3 WARM_N or 4 GUARD.RESET.WARM (R102, R103): Compute and Port state is cleared, and S4 and
S5 are run again. -/
def warmReset (cause : Nat) (s : State) : State :=
  if !s.boot.everS6 then wrB Rg.GUARD_RESET_CAUSE 5 true s
  else if bootFailed s then s
  else
    let up := dlUp s
    let old := rd s Rg.HOST_LINK_STAT
    let s := wrB Rg.GUARD_RESET 2 false (wrB Rg.GUARD_RESET_CAUSE cause true s)
    let s := { s with mem := s.mem.filter (fun c => c.1 < dramTop s.member) }
    let s := warmDram s.ms.dirty s
    let z := State.reset
    let s := { s with
      regs := warmRegs s
      clk := { s.clk with nowHi := [], head1Div := 0x20, head1Due := false }
      resetting := s.resetting.filter (fun x => match pageDesc x.1 with | some d => d.guardDie | none => false)
      host := z.host, adm := z.adm, pool := z.pool, mmu := z.mmu, regq := []
      ms := { z.ms with marks := s.ms.marks.filter (fun m => m.1 * 8 < dramTop s.member), poison := s.ms.poison, needed := s.ms.needed
                        nextNeeded := s.ms.nextNeeded, scrubStart := s.ms.scrubStart }
      cantor := { z.cantor with imageWritten := s.cantor.imageWritten }, chafer := { z.chafer with lattice := s.chafer.lattice }
      cam := { z.cam with streams := s.cam.streams.map fun x => (x.1, { CamStream.reset with seq := x.2.seq }) }
      wing := z.wing, choir := z.choir, timer := z.timer, port := z.port, link := z.link, hymn := z.hymn
      weevil := { s.weevil with held := [], stop := [] }
      boot := { s.boot with rerun := true, s5done := false } }
    let s := [0, 1].foldl (fun s h =>
      let f := (List.range 16).foldl (fun m i => if fenced s (Pg.CORE + 16 * h + i) then m + 2 ^ (16 * h + i) else m) 0
      wr (Rg.CANTOR_FENCED + h * 0x1000) (w32 f) s) s
    let s := enterStage 4 (densitySync s)
    if up then hwChange 5 Pg.HOST 0x040 old (rd s Rg.HOST_LINK_STAT) s else s

/-- A stave reset is asked for: it reads 1 until applied (R105). -/
def staveResetRequest (s : State) : State :=
  wrB Rg.GUARD_RESET 2 true { s with cantor := { s.cantor with resetDue := true } }

/-- An accepted write of GUARD.RESET; COLD starts S1 again, since PORST_N is high (log 10). -/
def guardReset (v : W32) (s : State) : State :=
  if fbit v 0 then beginS1 (straps s) (coldReset 2 s)
  else
    let s := if fbit v 1 then warmReset 4 s else s
    if fbit v 2 then staveResetRequest s else s

/-- A low pulse on PORST_N in REFCLK cycles (R97). -/
def porstPulse (n b : Nat) (s : State) : State :=
  if n < 32 then s
  else
    let (r, s) := if n < 192 then freeBit s else (true, s)
    if r then beginS1 b (coldReset 1 s) else s

/-- A low pulse on WARM_N in REFCLK cycles (R102). -/
def warmPulse (n : Nat) (s : State) : State :=
  if n < 4 then s
  else
    let (r, s) := if n < 20 then freeBit s else (true, s)
    if r then warmReset 3 s else s

end Sys2Proof.Machine
end

