-- ==== Sys2Proof/Machine/HostLink.lean ====
section
/-! DEFINITION. The host's side of PCIe: function resets, SR-IOV, power states, configuration writes, MSI-X masks, link
states and the DRAM window (R127, R131, R133 to R140, R180 to R184). -/
namespace Sys2Proof.Machine

/-! ## PCIE_RX (R501) -/

/-- Weevil acts on no unit: no rule is armed and no point holds one or has stopped. -/
def wvIdle (s : State) : Bool := !rdB s Rg.WEEVIL_STAT 0 && s.weevil.held.isEmpty && s.weevil.stop.isEmpty

/-- The link is back in L0 (R135, R182): held records are written, and the messages behind them sent. -/
def linkToL0 (s : State) : State :=
  if !dlUp s || linkState s == 0 then s
  else
    let s := releaseHeld (wrF Rg.HOST_LINK_STAT 13 11 0 s)
    let w := s.host.waitL0
    w.foldl (fun s m => (emitTlp m s).2) { s with host := { s.host with waitL0 := [] } }

/-- A TLP of the host with the data bytes l meets PCIE_RX; one whose header was changed is malformed and discarded. -/
def pcieRx (l : List Byte) (u : List Byte → Option WvUnit) (k : List Byte → State → State) (s : State) : State :=
  let s := linkToL0 s
  if wvIdle s then k l s
  else
    let (b, s) := freeBit s
    match wvPass 1 (if b then 16 else 12) l u s with
    | (.pass l false, s) => k l s
    | (_, s) => s

/-! ## Function resets (R83, R137 to R140) -/

/-- One page reclaimed from tenant n (R83). -/
def reclaimPage (n p : Nat) (s : State) : State :=
  let o := rd s (hdr p Hdr.PAGE_OWNER)
  if o.toNat != n then s
  else
    let m := rdN s (hdr p Hdr.PAGE_WMASK)
    let s := wr (hdr p Hdr.PAGE_WMASK) (w32 (setBits m 6 6 0)) (wr (hdr p Hdr.PAGE_OWNER) 0x41 s)
    hwChange 7 p 0x020 (w32 (n + m * 0x100)) (w32 (0x41 + setBits m 6 6 0 * 0x100)) s

/-- Every page that tenant n owns passes to PF0 (R83). -/
def reclaim (n : Nat) (s : State) : State := (allPages s.member).foldl (fun s p => reclaimPage n p s) s

/-- Running invocations of a function are abandoned, and its held records and waiting messages discarded (R137). -/
def abandonOf (n : Nat) (s : State) : State :=
  let ks := (s.cantor.jobs.filter fun j => match j.2.inv with | some v => v.owner == n | none => false).map (·.1)
  let s := ks.foldl (fun s k => abandon k s) s
  let wait := s.host.waitL0.filter fun m => match m with
    | .msix f _ => f != n
    | _ => true
  { s with adm := { s.adm with held := s.adm.held.filter (·.owner != n) }
           host := { s.host with waitL0 := wait } }

/-- The device rings that a function owns. -/
def ringsOf (s : State) (n : Nat) : List Nat :=
  if n == 0 then (List.range (nRings s.member)).filter fun r => ringOwner s r == 0
  else (List.range (tenHeld s n)).map (tenBase s n + ·)

/-- Steps 2 to 4 of R137 for rings of a function. -/
def ringsFlr (n : Nat) (rs : List Nat) (s : State) : State := rs.foldl (fun s r => ringFlr r s) (abandonOf n s)

/-- Configuration space of a function returns to reset; from D3hot the function is in D0 again. -/
def fnReset (n : Nat) (s : State) : State :=
  let d3 := (fnCfg s n).d3
  let s := putFn n FnCfg.reset s
  if d3 then showD3 n false s else s

/-- Steps 2 to 7 of R137. -/
def vfFlrWork (n : Nat) (s : State) : State :=
  reclaim n (fnReset n (dropEntries (some n) (ringsFlr n (ringsOf s n) s)))

/-- An FLR of VF n ends: step 8 of R137. -/
def vfFlrEnd (n : Nat) (s : State) : State :=
  let a := Rg.SRIOV_TEN_STAT + 4 * n
  let old := readback s a
  let s := { s with host := { s.host with flr := s.host.flr.filter (·.1 != n) } }
  let s := setEvt Pg.SRIOV 2 (wrB a 4 true (wrB a 3 false s))
  hwChange 5 Pg.SRIOV (0x200 + 4 * n) old (readback s a) s

/-- An FLR of VF n begins; it completes at a line boundary within 75 lines that the manual leaves open (R137). -/
def vfFlr (n : Nat) (s : State) : State :=
  let s := vfFlrWork n (wrB (Rg.SRIOV_TEN_STAT + 4 * n) 3 true s)
  let (v, s) := freeVal s
  { s with host := { s.host with flr := s.host.flr.filter (·.1 != n) ++ [(n, linLine s + 1 + v % 75)] } }

/-- FLRs that complete in this line. -/
def flrLine (s : State) : State :=
  (s.host.flr.filter fun x => decide (x.2 ≤ linLine s)).foldl (fun s x => vfFlrEnd x.1 s) s

/-- Tenants that exist now. -/
def tenants (s : State) : List Nat := ((List.range 64).map (· + 1)).filter (tenExists s)

/-- VF Enable goes to 0: every tenant undergoes an FLR and ceases to exist (R138). -/
def vfDisable (s : State) : State :=
  if !vfEn s then s
  else
    let ts := tenants s
    let s := ts.foldl (fun s n => vfFlrEnd n (vfFlrWork n s)) s
    let s := wrB Rg.SRIOV_VF_STAT 7 false s
    setEvt Pg.SRIOV 1 (ts.foldl (fun s n => wrB (Rg.SRIOV_TEN_STAT + 4 * n) 0 false s) s)

/-- VF Enable goes to 1 (R131). -/
def vfEnable (s : State) : State :=
  if vfEn s then s
  else
    let s := wrB Rg.SRIOV_VF_STAT 7 true s
    setEvt Pg.SRIOV 0 ((tenants s).foldl (fun s n => wrB (Rg.SRIOV_TEN_STAT + 4 * n) 0 true s) s)

/-- NumVFs written (R131). -/
def setNumVfs (v : Nat) (s : State) : State := if vfEn s || 64 < v then s else wrF Rg.SRIOV_VF_STAT 6 0 v s

/-- What an FLR of PF0, a hot reset and a link down have in common (R139). -/
def pf0Reset (s : State) : State :=
  let rs := ringsOf s 0
  let s := setNumVfs 0 (vfDisable s)
  fnReset 0 (ringsFlr 0 rs s)

def pf0Flr (s : State) : State := setEvt Pg.HOST 4 (pf0Reset s)

/-- The link is lost (R140): event 1 for a link down, 2 for a hot reset. -/
def linkLost (evt : Nat) (s : State) : State :=
  if !dlUp s then s
  else
    let old := rd s Rg.HOST_LINK_STAT
    let s := setEvt Pg.HOST evt (wr Rg.HOST_LINK_STAT 0x3800 (pf0Reset s))
    hwChange 5 Pg.HOST 0x040 old (rd s Rg.HOST_LINK_STAT) { s with host := { s.host with waitL0 := [] } }

/-- The link can train: PCIE_PERST_N is high and S5 has begun (R140, R538). -/
def linkMay (s : State) : Bool :=
  !dlUp s && s.boot.perstN && s.boot.powered && s.boot.porstN && (s.boot.everS6 || stage s == 5) && !bootFailed s

/-- PCIE_PERST_N moves (R538): low from S5 onward, the link goes down. -/
def perst (level : Bool) (s : State) : State :=
  if level then { s with boot := { s.boot with perstN := true } }
  else
    let s := { s with boot := { s.boot with perstN := false } }
    if 5 ≤ stage s then linkLost 1 s else s

/-! ## Power states and configuration space (R136, R180 to R184) -/

/-- The function may issue requests again: held records are written, then pending vectors sent (R184). -/
def fnAwake (f : Nat) (s : State) : State := if mayIssue s f then sendPending f (releaseHeld s) else s

/-- Rings of a function whose window is open fire early (R180). -/
def fireOpen (ok : Nat → Bool) (s : State) : State :=
  (s.adm.mods.filter fun m => m.2.p != 0 && ok m.1).foldl (fun s m => fire m.1 s) s

def toD3hot (f : Nat) (s : State) : State :=
  if (fnCfg s f).d3 then s
  else
    let s := fireOpen (fun r => ringOwner s r == f) s
    showD3 f true (putFn f { fnCfg s f with d3 := true, pmeSent := false } s)

def toD0 (f : Nat) (s : State) : State :=
  if !(fnCfg s f).d3 then s else fnAwake f (showD3 f false (putFn f { fnCfg s f with d3 := false } s))

def setBme (f : Nat) (on : Bool) (s : State) : State :=
  if (fnCfg s f).bme == on then s else fnAwake f (putFn f { fnCfg s f with bme := on } s)

/-- PME_Turn_Off (R180). -/
def pmeTurnOff (s : State) : State := (emitTlp .pmeToAck (fireOpen (fun _ => true) s)).2

/-- A vector unmasked: its pending message is sent (R134, R181). -/
def unmaskVec (f vec : Nat) (s : State) : State :=
  let c := fnCfg s f
  if c.unmasked.contains vec || msixSize f ≤ vec then s
  else fnAwake f (putFn f { c with unmasked := vec :: c.unmasked } s)

def maskVec (f vec : Nat) (s : State) : State :=
  putFn f { fnCfg s f with unmasked := (fnCfg s f).unmasked.filter (· != vec) } s

/-- A word of the MSI-X table written (R132, R134): the standard's entry of address, data and vector control. -/
def msixWrite (f off : Nat) (v : W32) (s : State) : State :=
  let vec := off / 16
  let c := fnCfg s f
  if (msixSize f ≤ vec) || c.d3 then s
  else
    let (a, d) := kvGet (0, 0) c.table vec
    if off % 16 == 12 then (if fbit v 0 then maskVec f vec s else unmaskVec f vec s)
    else
      let e := if off % 16 == 0 then (setBits a 31 0 v.toNat, d)
        else if off % 16 == 4 then (setBits a 63 32 v.toNat, d)
        else (a, v.toNat)
      putFn f { c with table := kvPut (0, 0) c.table vec e } s

/-- A configuration-space register written: the fields of the standard's layout that this device acts on, and the
download registers (R112, R129, R130). -/
def cfgWrite (f off : Nat) (v : W32) (s : State) : State :=
  let c := fnCfg s f
  if off == 4 then setBme f (fbit v 2) s
  else if off == 0x44 then
    let s := putFn f { c with pmeEn := fbit v 8, pmeStatus := c.pmeStatus && !fbit v 15 } s
    if fld v 1 0 == 3 then toD3hot f s else if fld v 1 0 == 0 then toD0 f s else s
  else if off == 0x50 then fnAwake f (putFn f { c with msixEn := fbit v 31, funcMask := fbit v 30 } s)
  else if off == 0x70 then putFn f { c with aspm := setBits c.aspm 1 0 (fld v 1 0) } s
  else if f == 0 && off == 0x250 then putFn f { c with aspm := setBits c.aspm 3 2 (b2n (fbit v 3) + b2n (fbit v 2) * 2) } s
  else if f == 0 && dlOpen s then
    if off == 0x274 then dlLen v s
    else if off == 0x278 then dlData v s
    else if off == 0x270 then
      let s := if fbit v 1 then dlRestart s else s
      if fbit v 0 then dlGo s else s
    else s
  else s

/-- A change of configuration space takes effect. -/
def cfgDo (op : CfgOp) (s : State) : State :=
  match op with
  | .vfFlr n => if n != 0 && tenExists s n then vfFlr n s else s
  | .pf0Flr => pf0Flr s
  | .vfEnable true => vfEnable s
  | .vfEnable false => vfDisable s
  | .numVfs v => setNumVfs v s
  | .d3hot f => toD3hot f s
  | .d0 f => toD0 f s
  | .bme f on => setBme f on s
  | .unmask f vec => if (fnCfg s f).d3 then s else unmaskVec f vec s
  | .write f off v => cfgWrite f off v s
  | .msix f off v => msixWrite f off v s

/-- The same operation with other data. -/
def CfgOp.withData (op : CfgOp) (l : List Byte) : CfgOp :=
  match op with
  | .write f off _ => .write f off (w32 (leAt l 0 4))
  | .msix f off _ => .msix f off (w32 (leAt l 0 4))
  | x => x

def CfgOp.data : CfgOp → List Byte
  | .write _ _ v => toLE 4 v.toNat
  | .msix _ _ v => toLE 4 v.toNat
  | _ => []

/-- The host event that a configuration write is, where R494 counts it as an input, and its function. -/
def cfgEvent : CfgOp → Option (Nat × Nat)
  | .vfFlr n => some (0, n)
  | .pf0Flr => some (0, 0)
  | .d3hot f => some (4, f)
  | .d0 f => some (5, f)
  | .unmask f _ => some (6, f)
  | .write f off v => if off == 0x44 && fld v 1 0 == 3 then some (4, f) else if off == 0x44 && fld v 1 0 == 0 then some (5, f) else none
  | .msix f off _ => if off % 16 == 12 then some (6, f) else none
  | .vfEnable _ => none
  | .numVfs _ => none
  | .bme _ _ => none

/-- A host event (R494): recorded, or discarded while its class is replayed. -/
def hostEvent (k f : Nat) (g : State → State) (s : State) : State := inputOf hyHostEvent f (hymnKind hyHostEvent k) [] g s

/-- A configuration write reaches the device: point 2 of Weevil (R509), then its effect. -/
def cfgArrive (op : CfgOp) (s : State) : State :=
  let g := fun (s : State) => pcieRx op.data (fun l => some (.cfg (op.withData l))) (fun l s => cfgDo (op.withData l) s) s
  if !dlUp s then s
  else match cfgEvent op with
    | some (k, f) => hostEvent k f g s
    | none => g s

/-! ## Link states (R135) -/

def aspmL0s (s : State) : State :=
  if dlUp s && linkState s == 0 && bit (fnCfg s 0).aspm 0 && rdF s Rg.HOST_ASPM_IDLE 7 0 != 0 then
    emit (.aspm 1) (wrF Rg.HOST_LINK_STAT 13 11 1 s)
  else s

/-- L1, or a substate that the host has enabled: which of them the link takes is left open. -/
def aspmL1 (s : State) : State :=
  let a := (fnCfg s 0).aspm
  if dlUp s && linkState s ≤ 1 && bit a 1 && rdF s Rg.HOST_ASPM_IDLE 15 8 != 0 then
    let (b1, s) := freeBit s
    let (b2, s) := freeBit s
    let st := if bit a 3 && b1 then 4 else if bit a 2 && b2 then 3 else 2
    emit (.aspm st) (wrF Rg.HOST_LINK_STAT 13 11 st s)
  else s

/-- A poisoned write is discarded (R127). -/
def poisonDrop (s : State) : State := emit (.aer 2) (bump Rg.HOST_POISON_DROPS (setEvt Pg.HOST 7 s))

/-! ## The DRAM window (R133) -/

/-- Every channel that an access of DRAM needs serves accesses (R240). -/
def paServes (s : State) (pa len : Nat) : Bool :=
  (linePieces pa len).all fun p => targetOf s.member p.1 != .dram || drServes s (chanOf s.member p.1)

/-- A window access performed: kind 0 a read of len bytes, 1 a write of data. -/
def winDo (a : Access) (s : State) : State :=
  if a.kind == 1 then devWrite 5 a.pa a.data s
  else
    let (d, bad, s) := devRead 5 a.pa a.len s
    emit (.memData d bad) s

/-- A window access: dropped beyond installed DRAM, stalled by self-refresh (R133, R240). -/
def winAccess (off len : Nat) (data : Option (List Byte)) (s : State) : State :=
  let pa := rdF s Rg.HOST_WIN_BASE 6 0 * 0x10000000 + off
  let n := match data with
    | some l => l.length
    | none => len
  if (fnCfg s 0).d3 || n == 0 then (if data.isNone then emit (.memData (List.replicate n 0) false) s else s)
  else if dramTop s.member < pa + n then
    let s := bump Rg.HOST_WIN_DROPS s
    if data.isNone then emit (.memData (List.replicate n 0) false) s else s
  else
    let a : Access := ⟨none, if data.isNone then 0 else 1, off, pa, false, n, 5, data.getD [], 0, false⟩
    if paServes s pa n then winDo a s else { s with ms := { s.ms with stalled := s.ms.stalled ++ [a] } }

/-- A read of the host under way fails (R126): the n-th that the ring engine waits for. -/
def hostReadFail (n : Nat) (s : State) : State :=
  let ws := s.adm.fetches.filter fun f => f.res.waits
  match ws[n]? with
  | none => s
  | some f =>
    let fs := s.adm.fetches.map fun g => if g == f then { g with res := .bad 0x0406 } else g
    let pa := match f.res with
      | .waiting pa _ => pa
      | _ => 0
    let s := hymnRec hyHostCpl f.owner pa (toLE 1 1) s
    cplErr (npSet (npNow s - 1) { s with adm := { s.adm with fetches := fs } })

end Sys2Proof.Machine
end

