-- ==== Sys2Proof/Machine/Access.lean ====
section
/-! DEFINITION. Accesses of requesters as steps of their own (R219, R240, R242 to R244, R252 to R254): ordered at the
home slice, stalled by self-refresh, completed; and what becomes of them when the Bridge goes down (R250). -/
namespace Sys2Proof.Machine

/-- Access code of an access's kind for rights and the fault log (R223, R232). -/
def accOf (kind : Nat) : Nat := if kind == 0 then accRead else if kind == 1 then accWrite else if kind == 3 then accNear else accAtomic

def putAccess (a : Access) (s : State) : State := { s with ms := { s.ms with accesses := s.ms.accesses ++ [a] } }

/-- An access to device memory ordered at its home (R242): its data, and how it will end. -/
def memOrder (w : Who) (a : Access) (s : State) : State :=
  if a.kind == 1 then
    let (bad, s) := homeWrite w.half a.cls a.pa a.data s
    putAccess { a with bad := bad } s
  else if a.kind == 3 then
    let (d, bad, s) := nearRead w.req a.cls a.pa a.len s
    putAccess { a with data := d, bad := bad } s
  else
    let (d, bad, s) := homeRead w.half a.cls a.pa a.len s
    if a.kind == 0 || bad != 0 then putAccess { a with data := d, bad := bad } s
    else
      let old := leAt d 0 4
      let v := leAt a.data 0 4
      let new := if a.kind == 2 then (old + v) % 0x100000000 else if signed 32 old < signed 32 v then v else old
      let (r, s) := homeWrite w.half a.cls a.pa (toLE 4 new) s
      putAccess { a with data := d, bad := r } s

/-- Who makes an access for a job: an invocation's job has its ring and submission (R214, R232). -/
def jobWho (s : State) (ctx req half job : Nat) : Who :=
  match (jobAt s job).bind (·.inv) with
  | some x => ⟨ctx, req, half, x.ring, x.subSeq, job, true⟩
  | none => ⟨ctx, req, half, 0x3FFF, 0, job, false⟩

/-- A near read of a page with NR = 0, or by a requester without a near cache, is a plain read (R223, R247). -/
def memKind (w : Who) (kind : Nat) (o : XOut) : Nat := if kind == 3 && !(o.nr && decide (w.req < 32)) then 0 else kind

/-- A translated access leaves its requester: a fault, a host transfer, register accesses, a stall, or its place in the
order of its line (R216 to R223, R230, R240, R242). -/
def accessIssue (rr : RegRead) (w : Who) (kind va len : Nat) (data : List Byte) (s0 : State) : State :=
  match translate w.ctx w.half (accOf kind) va s0 with
  | (.flt f, s) => accessFail w.job ⟨xStatus f.kind, f.kind == 10, f.kind⟩ w.req w.req 0 (xLog w (accOf kind) va f s)
  | (.ok o, s) =>
    let n := if kind == 1 then data.length else len
    let a : Access := ⟨some w, memKind w kind o, va, o.pa, o.host, n, o.cls, data, 0, o.dying⟩
    if o.host && hostHeld s w then s0
    else if o.host then
      let m := if kind == 1 then Msg.hostWrite w.ctx o.pa data else Msg.hostRead w.ctx o.pa n
      putAccess a (emitTlp m s).2
    else if targetOf s.member o.pa == .regs then
      if kind == 1 then putAccess a (regSend w o.pa data s)
      else
        let (d, s) := regBytes rr (ctxOrigin w.ctx) o.pa n s
        putAccess { a with data := d } s
    else if paServes s o.pa n then memOrder w a s
    else { s with ms := { s.ms with stalled := s.ms.stalled ++ [a] } }

/-- The memory's own error on an access that completes: a syndrome class, at 0 the DRAM or scratch, or an LLC place plus
1 (R252 to R254). -/
def accessErr (a : Access) (err place : Nat) (s : State) : Access × State :=
  if err == 0 || 4 < err || a.host || a.kind == 1 || targetOf s.member a.pa == .regs then (a, s)
  else
    let s := if place == 0 || targetOf s.member a.pa != .dram then reportErr a.pa err false s
      else reportLlcErr (targetHalf s.member a.pa) a.pa err (place - 1) s
    (if 3 ≤ err then { a with bad := 1 } else a, s)

/-- An access in flight completes (R244, R253, R254); a read of the host takes its answer (R126). -/
def accessDone (k err place : Nat) (ans : Option (List Byte)) (s : State) : State :=
  match s.ms.accesses[k]? with
  | none => s
  | some a =>
    let s := { s with ms := { s.ms with accesses := dropAt s.ms.accesses k } }
    let (a, s) := accessErr a err place s
    let (a, s) :=
      if a.host && a.kind != 1 then
        let fn := match a.who with
          | some w => w.ctx
          | none => 0
        match ans with
        | some l => ({ a with data := l.take a.len }, hymnRec hyHostCpl fn a.pa (l.take a.len) s)
        | none => ({ a with bad := 3 }, cplErr (hymnRec hyHostCpl fn a.pa (toLE 1 1) s))
      else (a, s)
    match a.who with
    | none => s
    | some w =>
      if a.bad != 0 then accessFail w.job ⟨0x0406, true, 0⟩ w.req w.req 0 s
      else if a.kind == 1 then s
      else emit (.memData a.data false) s

/-- Requests that a channel has stalled and now serves go on, in order (R240). -/
def stalledRun (s : State) : State :=
  let go := s.ms.stalled.filter fun a => paServes s a.pa a.len
  let s := { s with ms := { s.ms with stalled := s.ms.stalled.filter fun a => !paServes s a.pa a.len } }
  go.foldl (fun s a => match a.who with
    | none => winDo a s
    | some w => memOrder w a s) s

/-- The Bridge loses training (R250): accesses in flight across it end uncorrectable, and every far copy is invalid. -/
def bridgeLost (s : State) : State :=
  let cross : Access → Bool := fun a =>
    match a.who with
    | some w => !a.host && targetOf s.member a.pa != .regs && targetHalf s.member a.pa != w.half
    | none => false
  let accs := s.ms.accesses.map fun (a : Access) => if cross a = true then { a with bad := 2 } else a
  wrB Rg.BRIDGE_STAT 0 false { s with ms := { s.ms with accesses := accs, far := [] } }

end Sys2Proof.Machine
end

