-- ==== Sys2Proof/Machine/Chafer.lean ====
section
/-! DEFINITION. Chafer (16_chafer.md): window descriptors, maps, sprites, lattices, surveys, stamping, budgets, results and
open surveys. -/
namespace Sys2Proof.Machine

def chReg (a h : Nat) : Nat := a + h * 0x1000
def chWin (s : State) (h : Nat) : Option ChWin := kvFind s.chafer.wins h
def putWin (h : Nat) (w : ChWin) (s : State) : State := { s with chafer := { s.chafer with wins := kvInsert s.chafer.wins h w } }
def chLattice (s : State) (h : Nat) : Lattice := kvGet ⟨[], []⟩ s.chafer.lattice h

/-- The score's accesses by a Chafer (R214, R232, R350). -/
def chWho (h : Nat) : Who := ⟨0, 0x40 + h, h, 0x3FFF, 0, 0, false⟩
/-- A survey's accesses: context 0, or its owner's (R350). -/
def surveyWho (h : Nat) (v : Survey) : Who :=
  match v.opn with
  | none => chWho h
  | some e => ⟨e.owner, 0x40 + h, h, e.ring, e.subSeq, e.job, true⟩

/-- The invocation of an open survey still runs (R367); a planned survey has none to lose. -/
def surveyAlive (s : State) (v : Survey) : Bool :=
  match v.opn with
  | none => true
  | some e => match jobAt s e.job with
    | some j => !j.done && (match j.inv with | some x => x.ring == e.ring && x.subSeq == e.subSeq | none => false)
    | none => false

/-! ## Descriptors (R352, R355, R356) -/

/-- The window descriptor keeps to R352. -/
def winDescOk (d : List Byte) : Bool :=
  let mw := leAt d 8 2
  let mh := leAt d 10 2
  let st := leAt d 12 4
  let rw := leAt d 20 2
  let rh := leAt d 22 2
  1 ≤ mw && mw ≤ 2048 && 1 ≤ mh && mh ≤ 2048 && st % 64 == 0 && 4 * mw ≤ st && 1 ≤ rw && rw ≤ 1024 && 1 ≤ rh && rh ≤ 1024
    && leAt d 16 2 + rw ≤ mw && leAt d 18 2 + rh ≤ mh && 20 ≤ leAt d 24 1 && leAt d 24 1 ≤ 200 && 1 ≤ leAt d 25 1
    && leAt d 25 1 ≤ 4 && leAt d 26 2 ≤ 256 && leAt d 28 4 ≤ 1048576

/-- A survey from its descriptor (R356). -/
def parseSurvey (opn : Option OpenEnt) (nset : Nat) (d : List Byte) : Survey :=
  let kind := leAt d 0 1
  let k := leAt d 2 1 % 128
  let n := leAt d 8 4
  let ok := (kind == 1 || kind == 2) && leAt d 1 1 % 4 < nset && k ≤ 64 && 1 ≤ n && n ≤ (if kind == 2 then 32768 else 256)
    && leAt d 24 8 % 32 == 0
  { opn := opn, kind := kind, set := leAt d 1 1 % 4, k := k, all := bit (leAt d 2 1) 7, tokenEn := bit (leAt d 3 1) 0,
    rel := bit (leAt d 3 1) 1, outPool := bit (leAt d 3 1) 2, classMask := leAt d 4 2, clearMin := leAt d 6 1,
    pool := leAt d 7 1 % 128, ncand := n, ou := leAt d 12 2, ov := leAt d 14 2, srcVa := leAt d 16 8, outVa := leAt d 24 8,
    token := leAt d 32 4, starts := [], status := if ok then 0 else 4, res := [], slots := 0, tokenDue := false }

/-- The start list of a LATTICE survey read; a heading bin above 63 names a bin that the manual leaves open. -/
def readStarts (rr : RegRead) (h : Nat) (v : Survey) (s : State) : (Except XErr Survey) × State :=
  if v.status != 0 || v.kind != 1 then (.ok v, s)
  else
    match xRead rr (surveyWho h v) accRead v.srcVa (8 * v.ncand) s with
    | (.error e, s) => (.error e, s)
    | (.ok d, s) =>
      let (f, s) := freeVal s
      let st := (List.range v.ncand).map fun i =>
        let b := leAt d (8 * i + 4) 1
        (leAt d (8 * i) 2, leAt d (8 * i + 2) 2, if b < 64 then b else f % 64, leAt d (8 * i + 6) 2)
      (.ok { v with starts := st }, s)

/-- A survey whose access failed (R369): a planned one has STATUS FAULT, an open one ends its invocation. -/
def surveyFault (h : Nat) (v : Survey) (e : XErr) (s : State) : Survey × State :=
  let s := setEvt (Pg.CHAFER + h) 3 (wrB (chReg Rg.CHAFER_WIN_RESULT h) 2 true s)
  match v.opn with
  | none => ({ v with status := 3 }, s)
  | some o => ({ v with status := 3 }, accessFail o.job e (0x40 + h) (0x40 + h) 0 s)

/-- One survey's descriptor and start list read in SETUP (R350, R367). A descriptor that cannot be read names no place
for a result block. -/
def readSurvey (rr : RegRead) (h nset va : Nat) (opn : Option OpenEnt) (s : State) : Option Survey × State :=
  let who := match opn with
    | none => chWho h
    | some e => surveyWho h (parseSurvey (some e) 0 [])
  match xRead rr who accRead va 64 s with
  | (.error e, s) =>
    let (_, s) := surveyFault h (parseSurvey opn nset []) e s
    (none, s)
  | (.ok d, s) =>
    let v := parseSurvey opn nset d
    match readStarts rr h v s with
    | (.ok v, s) => (some v, s)
    | (.error e, s) =>
      let (v, s) := surveyFault h v e s
      (some v, s)

/-- Rows of a bitmap at an offset of a set. -/
def spriteRows (d : List Byte) (off h : Nat) : List Nat := (List.range h).map fun j => leAt d (off + 8 * j) 8

/-- A sprite set from its first 33,280 bytes (R354). -/
def parseSet (d : List Byte) : Option (List Sprite) :=
  let ents := (List.range 64).map fun b => (d.drop (8 * b)).take 8
  let ok := ents.all fun e =>
    let w := leAt e 0 1
    let h := leAt e 1 1
    1 ≤ w && w ≤ 64 && 1 ≤ h && h ≤ 64 && leAt e 2 1 < w && leAt e 3 1 < h && leAt e 4 4 + 8 * h ≤ 33280
  if ok then some (ents.map fun e => ⟨leAt e 0 1, leAt e 1 1, leAt e 2 1, leAt e 3 1, spriteRows d (leAt e 4 4) (leAt e 1 1)⟩)
  else none

/-- A sprite set read: its index, then its bitmaps. -/
def readSet (rr : RegRead) (h va : Nat) (s : State) : (Except XErr (Option (List Sprite))) × State :=
  match xRead rr (chWho h) accRead va 512 s with
  | (.error e, s) => (.error e, s)
  | (.ok idx, s) =>
    let top := (List.range 64).foldl (fun m b =>
      let e := leAt idx (8 * b + 4) 4 + 8 * leAt idx (8 * b + 1) 1
      if e ≤ 33280 then max m e else m) 512
    match xRead rr (chWho h) accRead (va + 512) (top - 512) s with
    | (.error e, s) => (.error e, s)
    | (.ok d, s) => (.ok (parseSet (idx ++ d)), s)

/-- The lattice read into the store; answers whether the access failed (R355). -/
def readLattice (rr : RegRead) (h va : Nat) (s : State) : Option XErr × State :=
  match xRead rr (chWho h) accRead va 264 s with
  | (.error e, s) => (some e, s)
  | (.ok d, s) =>
    let n := leAt d 256 4
    let idx := (List.range 64).map fun b => (leAt d (4 * b) 2, leAt d (4 * b + 2) 2)
    if n == 0 || 4096 < n || idx.any (fun e => n < e.1 + e.2) then (none, wrB (chReg Rg.CHAFER_LAT_STAT h) 16 false s)
    else
      match xRead rr (chWho h) accRead (va + 264) (136 * n) s with
      | (.error e, s) => (some e, s)
      | (.ok p, s) =>
        let ps := (List.range n).map fun i => (p.drop (136 * i)).take 136
        (none, wr (chReg Rg.CHAFER_LAT_STAT h) (w32 (n + 0x10000))
          { s with chafer := { s.chafer with lattice := kvInsert s.chafer.lattice h ⟨idx, ps⟩ } })

/-- The rows of the map region (R353). -/
def readMap (rr : RegRead) (h : Nat) (d : List Byte) (s : State) : (Except XErr (List Nat)) × State :=
  let rw := leAt d 20 2
  (List.range (leAt d 22 2)).foldl (fun (x : (Except XErr (List Nat)) × State) v =>
    match x with
    | (.error e, s) => (.error e, s)
    | (.ok m, s) =>
      match xRead rr (chWho h) accRead (leAt d 0 8 + (leAt d 18 2 + v) * leAt d 12 4 + 4 * leAt d 16 2) (4 * rw) s with
      | (.error e, s) => (.error e, s)
      | (.ok r, s) => (.ok (m ++ (List.range rw).map fun u => leAt r (4 * u) 4), s)) (.ok [], s)

/-! ## SETUP (R350, R352 to R356) -/

/-- The window faults as a whole (R369). -/
def winFault (h : Nat) (s : State) : State :=
  setEvt (Pg.CHAFER + h) 3 (wrB (chReg Rg.CHAFER_WIN_RESULT h) 2 true s)

/-- Several sprite sets read; the first failure decides. -/
def readSets (rr : RegRead) (h : Nat) : List Nat → State → (Except XErr (List (Option (List Sprite)))) × State
  | [], s => (.ok [], s)
  | va :: r, s =>
    match readSet rr h va s with
    | (.error e, s) => (.error e, s)
    | (.ok x, s) =>
      match readSets rr h r s with
      | (.error e, s) => (.error e, s)
      | (.ok l, s) => (.ok (x :: l), s)

/-- What SETUP of a well-formed window reads beside its descriptor. -/
def winSetup (rr : RegRead) (h : Nat) (w : ChWin) (d : List Byte) (s : State) : ChWin × State :=
  let nset := leAt d 25 1
  let (sv, s) := (List.range (leAt d 26 2)).foldl (fun (x : List Survey × State) i =>
    match readSurvey rr h nset (leAt d 32 8 + 64 * i) none x.2 with
    | (some v, s) => (x.1 ++ [v], s)
    | (none, s) => (x.1, s)) ([], s)
  let w := { w with surveys := sv, openSlots := leAt d 28 4, regionW := leAt d 20 2, regionH := leAt d 22 2 }
  let (map, s) := readMap rr h d s
  let (sets, s) := readSets rr h ((List.range nset).map fun i => leAt d (48 + 8 * i) 8) s
  let lva := leAt d 40 8
  let (le, s) := if lva == 0 then (none, s) else readLattice rr h lva s
  match map, sets, le with
  | .ok m, .ok ss, none => ({ w with map := m, sets := ss, latBad := !rdB s (chReg Rg.CHAFER_LAT_STAT h) 16 }, s)
  | _, _, _ => ({ w with fault := true }, winFault h s)

/-- The window ends once no token is due (R364). -/
def winFinish (h : Nat) (s : State) : State :=
  match chWin s h with
  | none => s
  | some w =>
    if w.phase == 3 && !w.surveys.any (·.tokenDue) then
      let s := { s with chafer := { s.chafer with wins := kvErase s.chafer.wins h } }
      setEvt (Pg.CHAFER + h) 0 (wrF (chReg Rg.CHAFER_STAT h) 2 0 0 s)
    else s

/-- The first due token of a window sent (R364, R274). -/
def surveyToken (h : Nat) (w : ChWin) (s : State) : State :=
  match w.surveys.find? (·.tokenDue) with
  | none => s
  | some v =>
    let i := w.surveys.findIdx (·.tokenDue)
    let s := putWin h { w with surveys := setAt w.surveys i { v with tokenDue := false } } s
    let tag := (bits v.token 19 16 + (if v.rel then w.lin / 1250 else 0)) % 16
    let slot := bits v.token 11 0
    let s := match v.opn with
      | none => tokenSend (tokenOf (bits v.token 12 12) slot tag) s
      | some e =>
        if !surveyAlive s v then s
        else match jobAt s e.job with
          | none => s
          | some j =>
            if j.nslot ≤ slot then tokCount Rg.CANTOR_TOK_DROP (keyHalf e.job) s
            else tokenSend (tokenOf (keyHalf e.job) (j.slotBase + slot) tag) s
    winFinish h s

/-- The tokens that the previous window still owes are sent ahead of a new window (R366). -/
def owedTokens (h : Nat) (s : State) : State :=
  match chWin s h with
  | none => s
  | some w => (List.range w.surveys.length).foldl (fun s _ =>
      match chWin s h with
      | some w => surveyToken h w s
      | none => s) s

/-- A window event reaches its Chafer (R350): a disabled or fenced engine does nothing (R371). -/
def winStart (rr : RegRead) (h va : Nat) (s : State) : State :=
  let p := Pg.CHAFER + h
  if !enabled s p || fenced s p then s
  else
    let s := owedTokens h s
    let s := bump (chReg Rg.CHAFER_COUNTS h) (wr (chReg Rg.CHAFER_WIN_RESULT h) 0 (wr (chReg Rg.CHAFER_WIN_LINE h) (w32 s.clk.line) s))
    let s := wrF (chReg Rg.CHAFER_STAT h) 2 0 3 s
    let w : ChWin := ⟨linLine s, 1, false, false, false, 0, 0, 0, [], [], false, [], 0⟩
    match xRead rr (chWho h) accRead va 128 s with
    | (.error _, s) => putWin h { w with fault := true } (winFault h s)
    | (.ok d, s) =>
      if !winDescOk d then
        putWin h { w with bad := true } (setEvt p 3 (wrB (chReg Rg.CHAFER_WIN_RESULT h) 0 true s))
      else
        let (w, s) := winSetup rr h w d s
        putWin h w s

/-- A window takes every queued open survey (R367). -/
def openTake (rr : RegRead) (h : Nat) (w : ChWin) (s : State) : State :=
  let q := chaferOpens s h
  let s := putOpens h [] s
  let nset := if w.bad || w.fault then 4 else w.sets.length
  let (sv, s) := q.foldl (fun (x : List Survey × State) e =>
    let v0 := parseSurvey (some e) 0 []
    if !surveyAlive x.2 v0 then x
    else
      match readSurvey rr h nset e.descVa (some e) x.2 with
      | (some v, s) => (x.1 ++ [if w.bad then { v with status := 4 } else v], s)
      | (none, s) => (x.1, s)) ([], s)
  putWin h { w with took := true, surveys := w.surveys ++ sv } s

/-! ## Stamping and latches (R357 to R360) -/

/-- The map cell at region coordinates, if it lies in the region. -/
def cellAt (w : ChWin) (u v : Int) : Option Nat :=
  if u < 0 || v < 0 || (w.regionW : Int) ≤ u || (w.regionH : Int) ≤ v then none
  else some (w.map.getD (v.toNat * w.regionW + u.toNat) 0)

/-- The causes for which a covered cell is forbidden (R359). -/
def cellCauses (classMask clearMin t : Nat) (c : Option Nat) : Nat :=
  match c with
  | none => 16
  | some c => b2n (bit c 20) + b2n (t ≤ 7 && bit c (21 + t)) * 2 + b2n (bit classMask (bits c 19 16)) * 4
      + b2n (bits c 7 0 < clearMin) * 8

/-- The cells that a sprite covers at an anchor. -/
def covered (sp : Sprite) (a b : Int) : List (Int × Int) :=
  (List.range sp.h).flatMap fun (j : Nat) => ((List.range sp.w).filter fun i => bit (sp.rows.getD j 0) i).map fun (i : Nat) =>
    (a - sp.ax + (i : Int), b - sp.ay + (j : Int))

/-- One stamped pose: causes, smallest clearance, anchor cost (R359, R360). -/
def stamp (w : ChWin) (v : Survey) (set : List Sprite) (u0 v0 : Nat) (pose : Nat) : Nat × Nat × Nat :=
  let a : Int := u0 + signed 11 (bits pose 10 0)
  let b : Int := v0 + signed 11 (bits pose 21 11)
  let t := bits pose 31 28
  let cells := (covered (set.getD (bits pose 27 22) ⟨0, 0, 0, 0, []⟩) a b).map fun c => cellAt w c.1 c.2
  let causes := cells.foldl (fun m c => Nat.lor m (cellCauses v.classMask v.clearMin t c)) 0
  let clear := cells.foldl (fun m c => min m (match c with | some x => bits x 7 0 | none => 0)) 255
  (causes, clear, match cellAt w a b with | some x => bits x 15 8 | none => 255)

/-- A candidate's poses stamped in order up to its first hit (R360). -/
def stampAll (w : ChWin) (v : Survey) (set : List Sprite) (u0 v0 : Nat) : List Nat → Nat → CandRes → CandRes
  | [], _, c => c
  | p :: r, i, c =>
    let (causes, clear, cost) := stamp w v set u0 v0 p
    let c := { c with cost := min (c.cost + cost) 0xFFFFFF, minClear := min c.minClear clear }
    if causes != 0 then { c with hit := true, causes := causes, first := i }
    else stampAll w v set u0 v0 r (i + 1) c

/-- A candidate evaluated from its record, with its origin and start cost (R357, R360). -/
def evalCand (w : ChWin) (v : Survey) (rec : List Byte) (u0 v0 sc : Nat) (c : CandRes) : CandRes :=
  let set := ((w.sets.getD v.set none).getD [])
  let poses := (List.range c.npose).map fun i => leAt rec (8 + 4 * i) 4
  stampAll w v set u0 v0 poses 0
    { c with evald := true, cost := min (leAt rec 4 4 % 0x1000000 + sc) 0xFFFFFF, minClear := 255 }

/-- Where a survey's candidates come from: index, start, primitive, origin, start cost, and the record or its address. -/
structure CandSrc where
  cand : Nat
  start : Nat
  prim : Nat
  u : Nat
  v : Nat
  sc : Nat
  data : Option (List Byte)
  va : Nat
  deriving DecidableEq, Repr

def candSrcs (lat : Lattice) (v : Survey) : List CandSrc :=
  if v.kind == 2 then (List.range v.ncand).map fun i => ⟨i, 0, 0, v.ou, v.ov, 0, none, v.srcVa + 136 * i⟩
  else
    let l := (List.range v.starts.length).flatMap fun st =>
      let e := v.starts.getD st (0, 0, 0, 0)
      let fc := lat.index.getD e.2.2.1 (0, 0)
      (List.range fc.2).map fun j => (st, fc.1 + j, e)
    (List.range l.length).map fun i =>
      let x := l.getD i (0, 0, (0, 0, 0, 0))
      ⟨i, x.1, x.2.1, x.2.2.1, x.2.2.2.1, x.2.2.2.2.2, some (lat.prims.getD x.2.1 []), 0⟩

/-- What EVAL carries from candidate to candidate of a class (R361): slots left, latches left, the run has ended. -/
structure EvalBudget where
  slots : Nat
  latches : Nat
  closed : Bool
  deriving DecidableEq, Repr

def noRes (c : CandSrc) : CandRes := ⟨c.cand, c.start, c.prim, 0, false, false, false, 0, 0xFF, 0, 0⟩

/-- One survey's candidates evaluated in order (R357 to R361). -/
def evalSurvey (rr : RegRead) (h : Nat) (w : ChWin) (v : Survey) (b : EvalBudget) (s : State) : Survey × EvalBudget × State :=
  (candSrcs (chLattice s h) v).foldl (fun (x : Survey × EvalBudget × State) c =>
    let (v, b, s) := x
    if v.status != 0 then ({ v with res := v.res ++ [noRes c] }, b, s)
    else
      let got : (Except XErr (List Byte)) × State := match c.data with
        | some r => (.ok r, s)
        | none => xRead rr (surveyWho h v) accRead c.va 136 s
      match got with
      | (.error e, s) =>
        let (v, s) := surveyFault h v e s
        ({ v with res := v.res ++ [noRes c] }, b, s)
      | (.ok r, s) =>
        let n := leAt r 0 1
        let r0 := { noRes c with npose := n }
        if n == 0 || 32 < n then ({ v with res := v.res ++ [{ r0 with bad := true }] }, b, s)
        else if b.closed || b.slots < n || b.latches == 0 then ({ v with res := v.res ++ [r0] }, { b with closed := true }, s)
        else
          let e := evalCand w v r c.u c.v c.sc r0
          ({ v with res := v.res ++ [e], slots := v.slots + n }, ⟨b.slots - n, b.latches - 1, false⟩, s)) (v, b, s)

/-- A survey's status once its set, its lattice and its window are known (R352, R354, R355, R369). -/
def surveyReady (w : ChWin) (v : Survey) : Survey :=
  if v.status != 0 then v
  else if w.fault then { v with status := 3 }
  else if w.bad || (w.sets.getD v.set none).isNone || (v.kind == 1 && w.latBad) then { v with status := 4 }
  else v

/-- All surveys of a class evaluated in order (R351, R361). -/
def evalClass (rr : RegRead) (h : Nat) (w : ChWin) (b : EvalBudget) (l : List Survey) (s : State) :
    List Survey × EvalBudget × State :=
  l.foldl (fun (x : List Survey × EvalBudget × State) v =>
    let v := surveyReady w v
    if v.status != 0 || !surveyAlive x.2.2 v then (x.1 ++ [v], x.2.1, x.2.2)
    else
      let (v, b, s) := evalSurvey rr h w v x.2.1 x.2.2
      (x.1 ++ [v], b, s)) ([], b, s)

/-- SETUP completes: the budget is divided and EVAL begins (R350, R361). -/
def setupDone (rr : RegRead) (h : Nat) (w : ChWin) (s : State) : State :=
  let planned := w.surveys.filter (·.opn.isNone)
  let opn := w.surveys.filter (·.opn.isSome)
  let (p, b, s) := evalClass rr h w ⟨1048576 - w.openSlots, 32768, false⟩ planned s
  let (o, _, s) := evalClass rr h w ⟨w.openSlots, b.latches, false⟩ opn s
  let start := max (linSub s) ((w.lin + 8) * 2048)
  putWin h { w with phase := 2, surveys := p ++ o, evalStart := start } (wrF (chReg Rg.CHAFER_STAT h) 2 1 2 s)

/-! ## Results (R362 to R366) -/

/-- Candidate a ranks before b (R362). -/
def rankBefore (a b : CandRes) : Bool :=
  if a.cost != b.cost then a.cost < b.cost
  else if a.minClear != b.minClear then b.minClear < a.minClear
  else a.cand < b.cand

def rankInsert (c : CandRes) : List CandRes → List CandRes
  | [] => [c]
  | d :: r => if rankBefore c d then c :: d :: r else d :: rankInsert c r

/-- The top-K of a survey (R362). -/
def topK (v : Survey) : List CandRes :=
  ((v.res.filter fun c => c.evald && !c.hit).foldl (fun l c => rankInsert c l) []).take v.k

/-- A candidate record of a result block (R363). -/
def candBytes (c : CandRes) : List Byte :=
  toLE 4 c.cand ++ toLE 3 c.cost ++ toLE 1 c.minClear
    ++ toLE 1 (b2n c.evald + b2n c.hit * 2 + (if c.hit then c.causes * 4 else 0) + b2n c.bad * 128)
    ++ toLE 1 (if c.hit then c.first else 0xFF) ++ toLE 2 0 ++ toLE 2 c.start ++ toLE 2 c.prim

/-- The records of a block with their offsets (R363). -/
def blockRecords (v : Survey) : List (Nat × List Byte) :=
  let t := topK v
  let a := (List.range t.length).map fun r => (32 + 16 * r, candBytes (t.getD r (noRes ⟨0, 0, 0, 0, 0, 0, none, 0⟩)))
  if v.all then a ++ v.res.map fun c => (0x420 + 16 * c.cand, candBytes c) else a

/-- A survey's status in its header (R363). -/
def finalStatus (v : Survey) : Nat :=
  if v.status != 0 then v.status else if v.res.any (!·.evald) then 1 else 0

/-- The header of a result block (R363). How many candidates a survey that evaluates nothing leaves out is left open. -/
def headerBytes (w : ChWin) (v : Survey) (status handle open_ : Nat) : List Byte :=
  let ev := v.res.filter (·.evald)
  let wst := w.lin / 1250 * 0x400000 + w.lin % 1250 * 0x800
  toLE 8 wst ++ toLE 4 ev.length ++ toLE 4 (ev.filter (·.hit)).length
    ++ toLE 4 (if (v.status == 3 || v.status == 4) && v.res.isEmpty then open_ else v.res.length - ev.length)
    ++ toLE 1 (if status == 5 then 0 else (topK v).length) ++ toLE 1 status ++ toLE 2 0 ++ toLE 4 v.slots ++ toLE 2 handle ++ toLE 2 0

/-- Bytes written by a survey in order; the first failure ends them. -/
def surveyWrites (h : Nat) (v : Survey) : List (Nat × List Byte) → State → Option XErr × State
  | [], s => (none, s)
  | (o, l) :: r, s =>
    match xWrite (surveyWho h v) accWrite (v.outVa + o) l s with
    | (none, s) => surveyWrites h v r s
    | (some e, s) => (some e, s)

/-- Cache class of a Chafer's own writes to pool buffers (log 33). -/
abbrev clsChafer : Nat := 2

/-- A survey's results written (R363 to R365): its token is due unless a write failed or it was cancelled (R364, R367). -/
def surveyResult (h : Nat) (w : ChWin) (v : Survey) (s : State) : Survey × State :=
  if !surveyAlive s v || (v.opn.isSome && v.status == 3 && !w.fault) || (w.bad && v.opn.isNone) then (v, s)
  else
    let (f, s) := freeVal s
    let (pool, s) := if v.outPool && v.status != 4 && v.status != 3 then
        let (b, s) := allocBuf (11 + h) v.pool s
        (some b, s)
      else (none, s)
    let st := match pool with
      | some none => 5
      | _ => finalStatus v
    let (s, direct, handle) := match pool with
      | some (some hd) =>
        let size := poolBufSize s v.pool
        let base := bufAddr s v.pool (hd % 0x1000)
        let s := ((blockRecords v).filter fun r => r.1 + 16 ≤ size).foldl (fun s r => (homeWrite h clsChafer (base + r.1) r.2 s).2) s
        (s, [], hd)
      | some none => (s, [], 0xFFFF)
      | none => (s, blockRecords v, 0xFFFF)
    match surveyWrites h v (direct ++ [(0, headerBytes w v st handle (f % 2 ^ 32))]) s with
    | (none, s) => ({ v with tokenDue := v.tokenEn }, s)
    | (some e, s) => surveyFault h v e s

/-- Candidates whose evaluation is not complete when EVAL ends become not evaluated (R368): done is the number of pose
slots that EVAL has worked off. -/
def markLate (done : Nat) : List Survey → Nat → List Survey
  | [], _ => []
  | v :: r, used =>
    let (res, used, late) := v.res.foldl (fun (x : List CandRes × Nat × Bool) c =>
      if !c.evald then (x.1 ++ [c], x.2.1, x.2.2)
      else
        let u := x.2.1 + c.npose
        if u ≤ done then (x.1 ++ [c], u, x.2.2)
        else (x.1 ++ [{ noRes ⟨c.cand, c.start, c.prim, 0, 0, 0, none, 0⟩ with npose := c.npose }], u, true)) ([], used, false)
    { v with res := res, status := if late && v.status == 0 then 2 else v.status } :: markLate done r used

/-- EVAL ends and RESULT writes its surveys in order (R350, R363, R368); stall is the CORECLK that EVAL has waited. -/
def evalEnd (h stall : Nat) (w : ChWin) (s : State) : State :=
  let done := (linSub s - w.evalStart) * 8 - stall
  let sv := markLate done w.surveys 0
  let late := sv.any (·.status == 2)
  let cands := sv.flatMap (·.res)
  let p := Pg.CHAFER + h
  let add := fun (k n : Nat) (s : State) => wr (chReg Rg.CHAFER_COUNTS h + 4 * k) (satAdd (rd s (chReg Rg.CHAFER_COUNTS h + 4 * k)) n) s
  let ne := (cands.filter (!·.evald)).length
  let s := add 1 (cands.filter (·.evald)).length (add 2 ((sv.map (·.slots)).sum) (add 3 ne (add 4 (cands.filter (·.hit)).length s)))
  let s := if late then setEvt p 2 (wrB (chReg Rg.CHAFER_WIN_RESULT h) 1 true (add 5 1 s)) else s
  let s := if ne != 0 then setEvt p 1 (wrB (chReg Rg.CHAFER_WIN_RESULT h) 3 true s) else s
  let s := wrF (chReg Rg.CHAFER_STAT h) 2 1 3 s
  let (sv, s) := sv.foldl (fun (x : List Survey × State) v =>
    let (v, s) := surveyResult h w v x.2
    (x.1 ++ [v], s)) ([], s)
  winFinish h (putWin h { w with phase := 3, surveys := sv } s)

/-- Writes or tokens not done by the end of window line 74 (R366). -/
def winLate (h : Nat) (s : State) : State := setEvt (Pg.CHAFER + h) 2 (wrB (chReg Rg.CHAFER_WIN_RESULT h) 1 true s)

end Sys2Proof.Machine
end

