-- ==== Sys2Proof/Machine/Choir.lean ====
section
/-! DEFINITION. Choir (18_choir.md): patches and voices, key-on and key-off, the crosspoint, rate domains and the audio
ports. -/
namespace Sys2Proof.Machine

def clsChoir : Nat := Config.cacheClass 0 % 8

/-- round(32,767 × sin(2π × i / 1,024)) for i from 0 to 256 (R404). -/
def sineQuarter : List Nat :=
  [0, 201, 402, 603, 804, 1005, 1206, 1407, 1608, 1809, 2009, 2210, 2410, 2611, 2811, 3012, 3212, 3412, 3612,
   3811, 4011, 4210, 4410, 4609, 4808, 5007, 5205, 5404, 5602, 5800, 5998, 6195] ++
  [6393, 6590, 6786, 6983, 7179, 7375, 7571, 7767, 7962, 8157, 8351, 8545, 8739, 8933, 9126, 9319, 9512, 9704,
   9896, 10087, 10278, 10469, 10659, 10849, 11039, 11228, 11417, 11605, 11793, 11980, 12167, 12353] ++
  [12539, 12725, 12910, 13094, 13279, 13462, 13645, 13828, 14010, 14191, 14372, 14553, 14732, 14912, 15090,
   15269, 15446, 15623, 15800, 15976, 16151, 16325, 16499, 16673, 16846, 17018, 17189, 17360, 17530, 17700,
   17869, 18037] ++
  [18204, 18371, 18537, 18703, 18868, 19032, 19195, 19357, 19519, 19680, 19841, 20000, 20159, 20317, 20475,
   20631, 20787, 20942, 21096, 21250, 21403, 21554, 21705, 21856, 22005, 22154, 22301, 22448, 22594, 22739,
   22884, 23027] ++
  [23170, 23311, 23452, 23592, 23731, 23870, 24007, 24143, 24279, 24413, 24547, 24680, 24811, 24942, 25072,
   25201, 25329, 25456, 25582, 25708, 25832, 25955, 26077, 26198, 26319, 26438, 26556, 26674, 26790, 26905,
   27019, 27133] ++
  [27245, 27356, 27466, 27575, 27683, 27790, 27896, 28001, 28105, 28208, 28310, 28411, 28510, 28609, 28706,
   28803, 28898, 28992, 29085, 29177, 29268, 29358, 29447, 29534, 29621, 29706, 29791, 29874, 29956, 30037,
   30117, 30195] ++
  [30273, 30349, 30424, 30498, 30571, 30643, 30714, 30783, 30852, 30919, 30985, 31050, 31113, 31176, 31237,
   31297, 31356, 31414, 31470, 31526, 31580, 31633, 31685, 31736, 31785, 31833, 31880, 31926, 31971, 32014,
   32057, 32098] ++
  [32137, 32176, 32213, 32250, 32285, 32318, 32351, 32382, 32412, 32441, 32469, 32495, 32521, 32545, 32567,
   32589, 32609, 32628, 32646, 32663, 32678, 32692, 32705, 32717, 32728, 32737, 32745, 32752, 32757, 32761,
   32765, 32766] ++
  [32767]

/-- Coefficients h[0] to h[35] (R417). -/
def coefHalf : List Int :=
  [0, 1, 1, -5, -12, -9, 13, 37, 35, -10, -71, -88, -19, 101, 168, 90, -106, -266] ++
  [-220, 56, 365, 417, 84, -431, -689, -363, 418, 1053, 882, -231, -1594, -1987, -455, 2915, 6839, 9465]

/-- The step table of IMA ADPCM (R405). -/
def adpcmSteps : List Nat :=
  [7, 8, 9, 10, 11, 12, 13, 14, 16, 17, 19, 21, 23, 25, 28, 31, 34, 37, 41, 45, 50, 55, 60, 66, 73, 80, 88,
   97, 107, 118] ++
  [130, 143, 157, 173, 190, 209, 230, 253, 279, 307, 337, 371, 408, 449, 494, 544, 598, 658, 724, 796, 876,
   963, 1060, 1166, 1282, 1411, 1552, 1707, 1878, 2066] ++
  [2272, 2499, 2749, 3024, 3327, 3660, 4026, 4428, 4871, 5358, 5894, 6484, 7132, 7845, 8630, 9493, 10442,
   11487, 12635, 13899, 15289, 16818, 18500, 20350, 22385, 24623, 27086, 29794, 32767]

/-- a / d rounded to the nearest integer, ties to even (R407). -/
def rneDiv (a : Int) (d : Nat) : Int :=
  let q := a / (d : Int)
  let r := 2 * (a % (d : Int))
  if r < (d : Int) then q else if (d : Int) < r then q + 1 else q + q % 2

/-- Saturation to 24 bits (R412). -/
def sat24 (v : Int) : Int := satSigned 24 v

/-- h[i] of the bridges (R416, R417). -/
def coef (i : Nat) : Int := if i < 36 then (coefHalf.drop i).headD 0 else (coefHalf.drop (71 - i)).headD 0

/-- CHOIR.C_COEF as a register word: two coefficients. -/
def coefWord (n : Nat) : W32 := w32 (unsigned 16 (coef (2 * n)) + unsigned 16 (coef (2 * n + 1)) * 0x10000)

/-- The tone's sine for P[31:22] (R404). -/
def sine (i : Nat) : Int :=
  let q := fun k => (((sineQuarter.drop k).headD 0 : Nat) : Int)
  if i ≤ 256 then q i else if i ≤ 512 then q (512 - i) else if i ≤ 768 then -q (i - 512) else -q (1024 - i)

/-! ## Voices (R403 to R407) -/

def voiceOf (s : State) (v : Nat) : Voice := kvGet Voice.reset s.choir.voices v
def putVoice (v : Nat) (x : Voice) (s : State) : State :=
  { s with choir := { s.choir with voices := kvPut Voice.reset s.choir.voices v x } }
/-- A word of the voice's copy of its patch. -/
def vWord (x : Voice) (n : Nat) : W32 := (x.words.drop n).headD 0
def vSrc (x : Voice) : Nat := fld (vWord x 0) 2 0
def vPrio (x : Voice) : Nat := fld (vWord x 0) 7 5
def vAddr (x : Voice) : Nat := (vWord x 2).toNat + fld (vWord x 3) 15 0 * 0x100000000
def vLen (x : Voice) : Nat := fld (vWord x 4) 23 0

/-- VOICE_STAT and BUSY as the voice stands (R406). -/
def voiceSync (v : Nat) (s : State) : State :=
  let x := voiceOf s v
  let busy := x.phase != 0
  let w := if busy then x.patch + vPrio x * 32 + x.phase * 0x100 + x.lv * 0x10000 else 0
  wrB Rg.CHOIR_BUSY v busy (wr (Rg.CHOIR_VOICE_STAT + 8 * v) (w32 w) s)

def setVoice (v : Nat) (x : Voice) (s : State) : State := voiceSync v (putVoice v x s)

/-- A voice cut to free. -/
def voiceFree (v : Nat) (s : State) : State := setVoice v Voice.reset s

/-- Voices 16 − n to 15 are the guard voices (R410). -/
def guardRes (s : State) : Nat := rdF s Rg.CHOIR_VOICE_CTRL 3 0
def isGuardVoice (s : State) (v : Nat) : Bool := 16 ≤ v + guardRes s && v < 16

/-- n bytes of sample data at an offset from ADDR: from device memory or the guard sample RAM; none where they are
delivered as poisoned or fail SECDED (R405). -/
def choirData (x : Voice) (bad : List Nat) (off n : Nat) (s : State) : Option (List Byte) × State :=
  let a := vAddr x + off
  if fbit (vWord x 0) 10 then
    if (List.range n).any (fun i => bad.contains ((a + i) / 4 * 4)) then
      (none, raiseFault 12 1 (0x50040000 + a / 4 * 4) 0 s)
    else (some (gmemRead s (0x50040000 + a) n), s)
  else
    let (d, p, s) := devRead clsChoir a n s
    (if p then none else some d, s)

/-- The predictor and step index at key-on and at every loop; an index beyond the table is left open (R405). -/
def adpcmStart (x : Voice) (pos : Nat) (s : State) : Voice × State :=
  let i := fld (vWord x 0) 22 16
  let (i, s) := if i ≤ 88 then (i, s) else
    let (f, s) := freeVal s
    (f % 89, s)
  ({ x with pred := signed 16 (fld (vWord x 3) 31 16), idx := i, pos := pos }, s)

/-- One nibble of IMA ADPCM (R405). -/
def adpcmNibble (x : Voice) (n : Nat) : Voice :=
  let st := (adpcmSteps.drop x.idx).headD 0
  let d := st / 8 + (if bit n 2 then st else 0) + (if bit n 1 then st / 2 else 0) + (if bit n 0 then st / 4 else 0)
  let p := if bit n 3 then x.pred - d else x.pred + d
  let i := if n % 8 < 4 then x.idx - 1 else min (x.idx + 2 * (n % 8 - 3)) 88
  { x with pred := satSigned 16 p, idx := i, pos := x.pos + 1 }

/-- k nibbles decoded in order; poisoned data is taken as 0. -/
def adpcmRun (bad : List Nat) : Nat → Voice → Bool → State → Voice × Bool × State
  | 0, x, p, s => (x, p, s)
  | k + 1, x, p, s =>
    match choirData x bad (x.pos / 2) 1 s with
    | (none, s) => adpcmRun bad k (adpcmNibble x 0) true s
    | (some d, s) =>
      let b := leAt d 0 1
      adpcmRun bad k (adpcmNibble x (if x.pos % 2 == 0 then b % 16 else b / 16)) p s

/-- A 16-bit sample of the voice's data. -/
def sample16 (x : Voice) (bad : List Nat) (i : Nat) (s : State) : Int × Voice × Bool × State :=
  match choirData x bad (2 * i) 2 s with
  | (none, s) => (0, x, true, s)
  | (some d, s) => (signed 16 (leAt d 0 2), x, false, s)

/-- The source value of a sample (R404): value, voice, whether poisoned data was met. -/
def voiceSource (x : Voice) (bad : List Nat) (s : State) : Int × Voice × Bool × State :=
  let u := x.p / 0x10000
  match vSrc x with
  | 0 =>
    let t : Int := match fld (vWord x 0) 4 3 with
      | 0 => if x.p < 0x80000000 then 32767 else -32767
      | 1 => if u < 32768 then 2 * (u : Int) - 32768 else 98303 - 2 * (u : Int)
      | 2 => signed 16 u
      | _ => sine (x.p / 0x400000)
    (t, x, false, s)
  | 1 => (if x.n % 2 == 1 then 32767 else -32767, x, false, s)
  | 2 => sample16 x bad (x.p / 0x1000000) s
  | 3 => if x.ended then (0, x, false, s) else sample16 x bad u s
  | _ =>
    if x.ended then (0, x, false, s)
    else
      let (y, p, s) := adpcmRun bad (u + 1 - x.pos) x false s
      (y.pred, y, p, s)

/-- The envelope of a sample (R406). -/
def envStep (x : Voice) : Voice :=
  let atk := fld (vWord x 6) 15 0
  let dec := fld (vWord x 6) 31 16
  let sus := fld (vWord x 7) 15 0
  let rel := fld (vWord x 7) 31 16
  match x.phase with
  | 1 =>
    let l := if atk == 0 then 0x8000 else min (x.lv + atk) 0x8000
    { x with lv := l, phase := if l == 0x8000 then 2 else 1 }
  | 2 =>
    let l := if dec == 0 then sus else max (x.lv - dec) sus
    { x with lv := l, phase := if l == sus then 3 else 2 }
  | 4 => { x with lv := if rel == 0 then 0 else x.lv - rel }
  | _ => x

/-- P after a sample (R404, R405): the noise register on a carry, and the end of the samples. -/
def voiceAdvance (x : Voice) (s : State) : Voice × State :=
  let q := x.p + (vWord x 1).toNat
  let n := if q < 0x100000000 then x.n else x.n * 2 % 0x800000 + b2n (bit x.n 22 != bit x.n 17)
  let x := { x with p := q % 0x100000000, n := n }
  let len := vLen x
  if vSrc x < 3 || x.ended || x.p / 0x10000 < len then (x, s)
  else if fbit (vWord x 0) 9 then
    let lo := fld (vWord x 5) 23 0
    let u := lo + (x.p / 0x10000 - lo) % (len - lo)
    let x := { x with p := u * 0x10000 + x.p % 0x10000 }
    if vSrc x == 4 then adpcmStart x lo s else (x, s)
  else ({ x with ended := true, phase := 4 }, s)

/-- One domain-A sample of a voice (R404 to R407): its crosspoint input, and whether poisoned data was met. -/
def voiceSample (v : Nat) (late : Bool) (bad : List Nat) (s : State) : Int × Bool × State :=
  let x := voiceOf s v
  if x.phase == 0 then (0, false, s)
  else
    let x := envStep (if x.off then { x with phase := 4, off := false } else x)
    let (src, x, poison, s) := voiceSource x bad s
    let src := if late && 2 ≤ vSrc x then 0 else src
    let out := rneDiv (src * x.lv) 128
    let done := x.phase == 4 && x.lv == 0
    if done then (out, poison, voiceFree v s)
    else
      let (x, s) := voiceAdvance x s
      (out, poison, setVoice v x s)

/-! ## Key-on and key-off (R408 to R411) -/

/-- The words of a patch. -/
def patchWords (s : State) (p : Nat) : List W32 := (List.range 8).map fun i => rd s (Rg.CHOIR_P_CTRL + 32 * p + 4 * i)

/-- A patch fails the check BAD_PATCH (R409). -/
def badPatch (s : State) (x : Voice) : Bool :=
  let src := vSrc x
  let len := vLen x
  let sampled := src == 3 || src == 4
  let n := if src == 2 then 512 else if src == 3 then 2 * len else if src == 4 then (len + 1) / 2 else 0
  4 < src || 0x8000 < fld (vWord x 7) 15 0
    || (sampled && (len == 0 || len ≤ fld (vWord x 5) 23 0))
    || (src == 4 && 0x40000 < (vWord x 1).toNat)
    || (2 ≤ src && (if fbit (vWord x 0) 10 then 0x10000 < vAddr x + n else dramTop s.member < vAddr x + n))

/-- A key-on refused (R409). -/
def keyRefuse (p cause : Nat) (s : State) : State :=
  let s := wrF Rg.CHOIR_KEY_STAT 10 8 cause (wrF Rg.CHOIR_KEY_STAT 4 0 p s)
  setEvt Pg.CHOIR 0 (bump Rg.CHOIR_COUNTS s)

/-- The busy voice of a class that a key-on steals: the lowest PRIO, then the earliest key-on, then the lowest number. -/
def stealVoice (s : State) (vs : List Nat) (prio : Nat) : Option Nat :=
  (vs.filter fun v => vPrio (voiceOf s v) < prio).foldl (fun b v =>
    match b with
    | none => some v
    | some w =>
      let x := voiceOf s v
      let y := voiceOf s w
      if vPrio x < vPrio y || (vPrio x == vPrio y && x.at_ < y.at_) then some v else some w) none

/-- STIME [31:0] of the first domain-A sample at or after the present boundary (R18, R408). -/
def firstSample (s : State) : Nat :=
  let b := (s.clk.line * 64 + s.clk.beat + 99) / 100 * 100
  if b < 80000 then (s.clk.snum % 0x400 * 0x400000 + b / 64 * 0x800 + b % 64 * 32)
  else (s.clk.snum + 1) % 0x400 * 0x400000

/-- A voice takes a patch. -/
def voiceStart (v p : Nat) (x : Voice) (s : State) : State :=
  let x := { x with patch := p, n := 1, phase := 1, at_ := linLine s }
  let (x, s) := if vSrc x == 4 then adpcmStart x 0 s else (x, s)
  wr (Rg.CHOIR_VOICE_KEY + 8 * v) (w32 (firstSample s)) (setVoice v x s)

/-- A key-on of a patch from an origin (R409). -/
def keyOn (origin p : Nat) (s : State) : State :=
  let x := { Voice.reset with words := patchWords s p }
  let guard := fbit (vWord x 0) 8
  if badPatch s x then keyRefuse p 2 s
  else if guard && !(0x44 ≤ origin && origin ≤ 0x47) then keyRefuse p 3 s
  else if guard && guardRes s == 0 then keyRefuse p 4 s
  else
    let vs := (List.range 16).filter fun v => isGuardVoice s v == guard
    match vs.find? fun v => (voiceOf s v).phase == 0 with
    | some v => voiceStart v p x s
    | none =>
      match stealVoice s vs (vPrio x) with
      | some v => voiceStart v p x (setEvt Pg.CHOIR 1 (bump (Rg.CHOIR_COUNTS + 4) s))
      | none => keyRefuse p 1 s

def queueSync (s : State) : State := wrF Rg.CHOIR_KEY_STAT 15 12 s.choir.queue.length s

/-- A write of KEY_ON is queued (R408); the queue has room. -/
def keyQueue (origin p : Nat) (s : State) : State :=
  queueSync { s with choir := { s.choir with queue := s.choir.queue ++ [(origin, p % 32, linLine s)] } }

/-- The key-ons of a line boundary: the score's in entry order, then the queued writes (R408, R421). -/
def keyAllocate (s : State) : State :=
  let mine := fun (e : UnitEv) => e.unit == 3 && s.clk.beat == 0 && s.clk.sub == 0
  let evs := s.cantor.events.filter mine
  let due := s.choir.queue.filter fun q => q.2.2 < linLine s
  let rest := s.choir.queue.filter fun q => !(q.2.2 < linLine s)
  let cantor := { s.cantor with events := s.cantor.events.filter fun e => !mine e }
  let s := queueSync { s with cantor := cantor, choir := { s.choir with queue := rest } }
  if !enabled s Pg.CHOIR then s
  else
    let s := evs.foldl (fun s e => keyOn 0 (e.arg % 32) s) s
    due.foldl (fun s q => keyOn q.1 q.2.1 s) s

/-- A key-off of a voice (R411). -/
def keyOff (v : Nat) (s : State) : State :=
  let x := voiceOf s v
  if x.phase == 0 then s else putVoice v { x with off := true } s

/-- KEY_OFF is not refused (R411). -/
def keyOffOk (s : State) (o v : Nat) : Bool := !isGuardVoice s v || (0x44 ≤ o && o ≤ 0x47)

/-- A new GUARD_RES applies: every busy voice whose class changes is cut (R410). -/
def guardResApply (old new : Nat) (s : State) : State :=
  (List.range 16).foldl (fun s v =>
    if (16 ≤ v + old) != (16 ≤ v + new) && (voiceOf s v).phase != 0 then voiceFree v s else s) s

/-! ## The crosspoint (R412 to R414) -/

/-- A gain at the end of its ramp rests. -/
def gainRest (x : Gain) : Gain := if x.r ≤ x.j then { x with g := x.t, g0 := x.t, j := x.r } else x

/-- A gain's next sample (R413). -/
def gainStep (x : Gain) : Gain :=
  let cur := if x.j < x.r then { x with j := x.j + 1, g := x.g0 + (x.t - x.g0) * ((x.j + 1 : Nat) : Int) / (x.r : Int) }
    else { x with g := x.t }
  match x.new with
  | none => gainRest { cur with new := none }
  | some (t, r) =>
    if r == 0 then ⟨t, t, t, 0, 0, none⟩
    else gainRest ⟨cur.g + (t - cur.g) / (r : Int), cur.g, t, r, 1, none⟩

def nodeOf (s : State) (n : Nat) : Gain := kvGet Gain.reset s.choir.nodes n
def putNode (n : Nat) (x : Gain) (s : State) : State :=
  { s with choir := { s.choir with nodes := kvPut Gain.reset s.choir.nodes n x } }
def outOf (s : State) (o : Nat) : Gain := kvGet Gain.unity s.choir.outs o
def putOut (o : Nat) (x : Gain) (s : State) : State :=
  { s with choir := { s.choir with outs := kvPut Gain.unity s.choir.outs o x } }

/-- The node that XP_IDX names. -/
def xpIdx (s : State) : Nat := rdN s Rg.CHOIRXP_XP_IDX % 512
/-- A write of XP_NODE is not refused (R413). -/
def xpNodeOk (s : State) (o : Nat) : Bool := !isGuardVoice s (xpIdx s % 32) || (0x44 ≤ o && o ≤ 0x47)
/-- XP_IDX advances, after an accepted and after a refused write (R413). -/
def xpNext (s : State) : State := wr Rg.CHOIRXP_XP_IDX (w32 ((xpIdx s + 1) % 512)) s
/-- A node's target and ramp set (R413). -/
def xpNode (v : W32) (s : State) : State :=
  let n := xpIdx s
  xpNext (putNode n { nodeOf s n with new := some (signed 16 (fld v 15 0), fld v 31 16) } s)
/-- XP_CUR: the current gain of the node that XP_IDX names. -/
def xpCur (s : State) : W32 := w32 (unsigned 16 (nodeOf s (xpIdx s)).g)

/-- OUT_GAIN and MUTE of an output as a gain (R414). -/
def outGain (w : W32) : Int := if fbit w 16 then 0 else signed 16 (fld w 15 0)
/-- A changed output ramps over 48 samples (R414). -/
def outRamp (o : Nat) (s : State) : State :=
  putOut o { outOf s o with new := some (outGain (rd s (Rg.CHOIRXP_OUT_GAIN + 4 * o)), 48) } s

/-- The exact sum of gain × input over the guard nodes, or the others, of an output. -/
def nodeSum (s : State) (o : Nat) (ins : List Int) (guard : Bool) : Int :=
  (List.range 32).foldl (fun a i =>
    if isGuardVoice s i == guard then a + (nodeOf s (32 * o + i)).g * (ins.drop i).headD 0 else a) 0

/-- An output of the sample, with the clip event and the peak (R412). -/
def outSample (ins : List Int) (x : List Int × State) (o : Nat) : List Int × State :=
  let s := x.2
  if !enabled s Pg.CHOIRXP then (x.1 ++ [0], s)
  else
    let v := rneDiv (nodeSum s o ins false * (outOf s o).g + nodeSum s o ins true * 4096) 0x1000000
    let y := sat24 v
    let s := if y != v then setEvt Pg.CHOIRXP 0 s else s
    let peaks := kvPut 0 s.choir.peaks o (max (kvGet 0 s.choir.peaks o) y.natAbs)
    (x.1 ++ [y], { s with choir := { s.choir with peaks := peaks } })

/-- The peaks of a stave reported at its boundary (R412); a magnitude of 2^23 does not fit its field and is left open. -/
def peakReport (s : State) : State :=
  let s := (List.range 16).foldl (fun s o =>
    let p := kvGet 0 s.choir.peaks o
    let (f, s) := if p < 0x800000 then (p, s) else freeVal s
    wr (Rg.CHOIRXP_OUT_PEAK + 4 * o) (w32 (f % 0x800000)) s) s
  { s with choir := { s.choir with peaks := [] } }

/-! ## Ports and bridges (R415 to R420) -/

def tdmOf (s : State) (p : Nat) : TdmPort := kvGet TdmPort.reset s.choir.ports p
def putTdm (p : Nat) (x : TdmPort) (s : State) : State :=
  { s with choir := { s.choir with ports := kvPut TdmPort.reset s.choir.ports p x } }
def tdmCfg (s : State) (p : Nat) : W32 := rd s (Rg.TDM_CFG + 0x1000 * p)
def tdmDomain (s : State) (p : Nat) : Nat := fld (tdmCfg s p) 1 0
def tdmSlots (c : W32) : Nat := 2 ^ fld c 5 3
def tdmWidth (c : W32) : Nat := match fld c 8 7 with | 0 => 16 | 1 => 20 | 2 => 24 | _ => 32
def tdmRuns (s : State) (p : Nat) : Bool := enabled s (Pg.TDM + p)
def tdmLocked (s : State) (p : Nat) : Bool := rdB s (Rg.TDM_STAT + 0x1000 * p) 1

/-- TDM.CFG is not refused (R419). -/
def tdmCfgOk (s : State) (p : Nat) (c : W32) : Bool :=
  let pitch := if fbit c 6 then 32 else 16
  tdmWidth c ≤ pitch && fld c 5 3 ≤ 4 && tdmSlots c * pitch ≤ 512
    && (!fbit c 2 || (tdmSlots c == 2 && fbit c 9)) && fld c 1 0 != 3
    && (fld c 1 0 != 1 || (List.range 4).all fun q => q == p || tdmDomain s q != 1)

/-- A received slot as a 24-bit value (R420). -/
def slotIn (width raw : Nat) : Int :=
  if width == 32 then signed 24 (raw / 256) else signed width raw * ((2 ^ (24 - width) : Nat) : Int)

/-- A sent sample as a value of the slot's width (R420). -/
def slotOut (width : Nat) (y : Int) : Int :=
  if width == 32 then y * 256
  else if width == 24 then y
  else satSigned width (rneDiv y (2 ^ (24 - width)))

/-- The slots of a frame, with output o's value as given. -/
def frameSlots (s : State) (p : Nat) (y : Nat → Int) : List Int :=
  let c := tdmCfg s p
  (List.range (tdmSlots c)).map fun i =>
    let m := rd s (Rg.TDM_TX_MAP + 0x1000 * p + 4 * i)
    if fbit m 4 then slotOut (tdmWidth c) (y (fld m 3 0)) else 0

/-- Output o, n samples back. -/
def yBack (s : State) (o n : Nat) : Int := (((s.choir.ys.drop n).headD []).drop o).headD 0

/-- The sum of the decimator over output o, the newest value k samples back (R416). -/
def decimate (s : State) (o k : Nat) : Int :=
  sat24 (rneDiv ((List.range 72).foldl (fun a i => a + coef i * yBack s o (k + i)) 0) 0x8000)

/-- The interpolator's value r samples after the newest domain-C sample (R416). -/
def interpolate (z : List (List Int)) (slot r : Nat) : Int :=
  sat24 (rneDiv (3 * (List.range 24).foldl (fun a j => a + coef (r + 3 * j) * (((z.drop j).headD []).drop slot).headD 0) 0)
    0x8000)

/-- Domain-A samples since divider release at the start of the present one (R18, R19). -/
def aIndex (s : State) : Nat := s.clk.staves * 800 + (s.clk.line * 64 + s.clk.beat) / 100

/-- A domain-A sample begins in this beat. -/
def atSample (s : State) : Bool := s.clk.running && (s.clk.line * 64 + s.clk.beat) % 100 == 0

/-- Input 16 + j of sample k (R412, R415, R416, R418). -/
def portInput (j k : Nat) (s : State) : Int × State :=
  let c := rd s (Rg.CHOIRXP_IN_SRC + 4 * j)
  let p := fld c 1 0
  let slot := fld c 7 4
  if !fbit c 8 || !tdmRuns s p then (0, s)
  else if tdmSlots (tdmCfg s p) ≤ slot then
    let (f, s) := freeVal s
    (signed 24 f, s)
  else
    match tdmDomain s p with
    | 0 =>
      match (tdmOf s p).rx.find? fun f => f.1 + 2 == k with
      | some f => ((f.2.drop slot).headD 0, s)
      | none => (0, s)
    | 1 =>
      if !tdmLocked s p then (0, s)
      else
        let (f, s) := freeVal s
        (signed 24 f, s)
    | _ => (interpolate (tdmOf s p).z slot (k % 3), s)

/-- A domain-A sample (R404, R406, R412, R415): voices whose data is late, and guard sample words that fail SECDED. -/
def audioSample (late bad : List Nat) (s : State) : State :=
  let k := aIndex s
  if !atSample s || s.choir.lastA == k + 1 then s
  else
    let s := { s with choir := { s.choir with lastA := k + 1 } }
    let missed := enabled s Pg.CHOIR && late.any fun v => v < 16 && (voiceOf s v).phase != 0 && 2 ≤ vSrc (voiceOf s v)
    let (ins, poison, s) := if !enabled s Pg.CHOIR then (List.replicate 16 0, false, s) else
      (List.range 16).foldl (fun (x : List Int × Bool × State) v =>
        let (y, p, s) := voiceSample v (late.contains v) bad x.2.2
        (x.1 ++ [y], x.2.1 || p, s)) ([], false, s)
    let s := if missed then setEvt Pg.CHOIR 2 (bump (Rg.CHOIR_COUNTS + 8) s) else s
    let s := if poison then setEvt Pg.CHOIR 3 (bump (Rg.CHOIR_COUNTS + 12) s) else s
    let (ins, s) := (List.range 16).foldl (fun (x : List Int × State) j =>
      let (y, s) := portInput j k x.2
      (x.1 ++ [y], s)) (ins, s)
    let nodes := (s.choir.nodes.map fun e => (e.1, gainStep e.2)).filter (·.2 != Gain.reset)
    let outs := (s.choir.outs.map fun e => (e.1, gainStep e.2)).filter (·.2 != Gain.unity)
    let s := { s with choir := { s.choir with nodes := nodes, outs := outs } }
    let (ys, s) := (List.range 16).foldl (outSample ins) ([], s)
    let s := { s with choir := { s.choir with ys := (ys :: s.choir.ys).take 75 } }
    ((List.range 4).filter fun p => tdmRuns s p && tdmDomain s p == 0).foldl (fun s p =>
      emit (.tdm p (frameSlots s p fun o => yBack s o 2)) s) s

/-- A domain-C sample (R416): every domain-C port sends the frame that is due and takes the one received. -/
def domainCSample (s : State) : State :=
  let k := aIndex s
  if !atSample s || k % 3 != 0 || s.choir.lastC == k / 3 + 1 || s.choir.lastA == k + 1 then s
  else
    let m := k / 3
    let s := { s with choir := { s.choir with lastC := m + 1 } }
    ((List.range 4).filter fun p => tdmRuns s p && tdmDomain s p == 2).foldl (fun s p =>
      let s := emit (.tdm p (frameSlots s p fun o => decimate s o 3)) s
      let x := tdmOf s p
      let f := match x.rx.find? fun f => f.1 + 2 == m with
        | some f => f.2
        | none => []
      putTdm p { x with z := (f :: x.z).take 24 } s) s

/-- A frame taken by a port (R415, R418, R420); those of domains A and C are recorded (R492). -/
def tdmTake (p : Nat) (raw : List Nat) (early : Bool) (s : State) : State :=
  if 4 ≤ p || !tdmRuns s p then s
  else
    let c := tdmCfg s p
    let d := tdmDomain s p
    if d == 1 && early then
      setEvt (Pg.TDM + p) 1 (bump (Rg.TDM_FRAME_ERR + 0x1000 * p) s)
    else if d == 1 then
      let (l, s) := (List.range 16).foldl (fun (x : List Int × State) _ =>
        let (f, s) := freeVal x.2
        (x.1 ++ [signed 24 f], s)) ([], s)
      let on := tdmLocked s p
      emit (.tdm p (frameSlots s p fun o => if on then (l.drop o).headD 0 else 0)) s
    else
      let n := if d == 0 then s.choir.lastA else s.choir.lastC
      if n == 0 then s
      else
        let s := hymnRec hyAudio p p (raw.flatMap (toLE 4)) s
        let x := tdmOf s p
        putTdm p { x with rx := ((n - 1, raw.map (slotIn (tdmWidth c))) :: x.rx).take 4 } s

/-- A frame received on a port: raw slot values; in slave mode, an FS edge may come early. A domain-A or domain-C frame
is an input of the Hymnal (R496). -/
def tdmReceive (p : Nat) (raw : List Nat) (early : Bool) (s : State) : State :=
  if tdmDomain s p == 1 then tdmTake p raw early s else liveInput hyAudio (tdmTake p raw early) s

/-- A port's ENABLE changes (R421). -/
def tdmEnable (p : Nat) (on : Bool) (s : State) : State :=
  let s := wrF (Rg.TDM_STAT + 0x1000 * p) 1 0 (b2n on) s
  putTdm p TdmPort.reset s

/-- The converter of a domain-B port locks, or loses lock (R418). -/
def asrcLock (p : Nat) (s : State) : State :=
  if p < 4 && tdmRuns s p && tdmDomain s p == 1 then wrB (Rg.TDM_STAT + 0x1000 * p) 1 true s else s
def asrcUnlock (p : Nat) (s : State) : State :=
  if p < 4 && tdmLocked s p then setEvt (Pg.TDM + p) 0 (wrB (Rg.TDM_STAT + 0x1000 * p) 1 false s) else s

/-- CHOIR's ENABLE cleared: queued key-ons are discarded (R421). -/
def choirDisable (s : State) : State := queueSync { s with choir := { s.choir with queue := [] } }

/-- What a block reset does to Choir and to the crosspoint beside the registers (R421). -/
def choirReset (s : State) : State := { s with choir := { s.choir with voices := [], queue := [] } }
def xpReset (s : State) : State := { s with choir := { s.choir with nodes := [], outs := [], peaks := [] } }

end Sys2Proof.Machine
end

