-- ==== Sys2Proof/Machine/Timer.lean ====
section
/-! DEFINITION. Timer channels, captures and trigger outputs (19_timers.md). -/
namespace Sys2Proof.Machine

def tmReg (a c : Nat) : Nat := a + 16 * c
def tmCfg (s : State) (c : Nat) : W32 := rd s (tmReg Rg.TIMER_CFG c)
def tmCnt (s : State) (c : Nat) : Nat := rdN s (Rg.TIMER_CH_CNT + 4 * c)
def tmStat (c : Nat) : Nat := Rg.TIMER_CH_STAT + 4 * c
/-- PERIOD; 0 stands for 2^32 (R423). -/
def tmPeriod (s : State) (c : Nat) : Nat :=
  let p := rdN s (tmReg Rg.TIMER_PERIOD c)
  if p == 0 then 0x100000000 else p
def tmEn (s : State) (c : Nat) : Bool := fbit (tmCfg s c) 0
def tmDone (s : State) (c : Nat) : Bool := rdB s (tmStat c) 1
def tmOut (s : State) (c : Nat) : Bool := rdB s (tmStat c) 0

/-- OUT of a channel (R426). -/
def tmOutNow (s : State) (c : Nat) : Bool :=
  tmEn s c && (decide (tmCnt s c < rdN s (tmReg Rg.TIMER_CMP c)) != fbit (tmCfg s c) 24)

/-- The channel that drives a camera port's FSYNC ball, while EN (R342). -/
def fsyncSel (s : State) (p : Nat) : Option Nat :=
  let v := rd s (portReg Rg.CAM_FSYNC_SEL p)
  if present s.member (camPort p) && fbit v 4 then some (fld v 3 0) else none

/-- What GPIO pin i drives: high or low, or nothing (R447). -/
def gpioPin (s : State) (i : Nat) : Option Bool :=
  if !rdB s Rg.GPIO_DIR i then none
  else
    let sel := rd s (Rg.GPIO_SEL + 4 * i)
    let v := if fbit sel 4 then tmOut s (fld sel 3 0) else rdB s Rg.GPIO_OUT i
    if v && rdB s Rg.GPIO_OD i then none else some v

/-- Pins driven high, and pins driven. -/
def gpioDrive (s : State) : Nat × Nat :=
  (List.range 32).foldl (fun m i =>
    match gpioPin s i with
    | none => m
    | some v => (m.1 + b2n v * 2 ^ i, m.2 + 2 ^ i)) (0, 0)

/-- The level of a camera port's FSYNC ball: OUT of the channel selected while EN, and low else (R342). -/
def fsyncLevel (s : State) (p : Nat) : Bool :=
  match fsyncSel s p with
  | some c => tmOut s c
  | none => false

/-- An FSYNC ball follows a change of what drives it (R342, R427). -/
def fsyncSync (s : State) (p : Nat) : State :=
  let b := fsyncLevel s p
  if b == bit s.port.fsync p then s
  else
    let m := if b then s.port.fsync + 2 ^ p else s.port.fsync - 2 ^ p
    emit (.fsync p b) { s with port := { s.port with fsync := m } }

/-- The GPIO pins and the FSYNC balls follow a change of what drives them (R342, R427, R447). -/
def pinsSync (s : State) : State :=
  let s := (List.range 8).foldl fsyncSync s
  let d := gpioDrive s
  if d == s.port.drive then s else emit (.gpio d.1 d.2) { s with port := { s.port with drive := d } }

/-- OUT formed after an action (R426). -/
def outSync (c : Nat) (s : State) : State := wrB (tmStat c) 0 (tmOutNow s c) s

/-- OUT of every channel formed, and the pins that follow one. -/
def outsSync (s : State) : State := pinsSync ((List.range 16).foldl (fun s c => outSync c s) s)

/-- A counter loaded: orders 1 and 2 of R422. -/
def tmLoad (c v : Nat) (s : State) : State := wrB (tmStat c) 1 false (wr (Rg.TIMER_CH_CNT + 4 * c) (w32 v) s)

/-- The gate of a channel is open on this edge (R424). -/
def tmGate (s : State) (c : Nat) : Bool :=
  !fbit (tmCfg s c) 8 || bit s.timer.prevOut (fld (tmCfg s c) 15 12)

/-- A channel can tick on this edge: order 3 of R422. -/
def tmCan (s : State) (c : Nat) : Bool := enabled s Pg.TIMER && tmEn s c && !tmDone s c && tmGate s c

/-- The next tick of a channel is a terminal tick (R423). -/
def tmLast (s : State) (c : Nat) : Bool := tmCnt s c + 1 == tmPeriod s c

def tmMark (c : Nat) (s : State) : State := { s with timer := { s.timer with acted := c :: s.timer.acted } }

/-- A tick that is not terminal; a counter beyond PERIOD − 1 counts on and wraps. -/
def tmPlain (c : Nat) (s : State) : State := wr (Rg.TIMER_CH_CNT + 4 * c) (w32 (tmCnt s c + 1)) s

/-- A terminal tick (R423). -/
def tmTerminal (c : Nat) (s : State) : State :=
  let s := if fbit (tmCfg s c) 1 then wrB (tmStat c) 1 true s else wr (Rg.TIMER_CH_CNT + 4 * c) 0 s
  let s := bumpWrap (Rg.TIMER_CH_TERMS + 4 * c) { s with timer := { s.timer with term := c :: s.timer.term } }
  if fbit (tmCfg s c) 26 then setEvt Pg.TIMER c s else s

/-- A tick (R423). -/
def tmTick (c : Nat) (s : State) : State := tmMark c (if tmLast s c then tmTerminal c s else tmPlain c s)

/-- A channel's action of an edge, but for the ticks of CLK 0 (R422, R424): prev lists the terminal ticks of the edge
before. -/
def chanEdge (line stave : Bool) (applied prev : List Nat) (s : State) (c : Nat) : State :=
  let f := tmCfg s c
  if applied.contains c || (stave && fbit f 25) then
    let s := tmLoad c (rdN s (tmReg Rg.TIMER_PHASE c) % tmPeriod s c) s
    tmMark c { s with timer := { s.timer with loaded := c :: s.timer.loaded } }
  else if fbit f 16 && prev.contains (fld f 23 20) then tmMark c (tmLoad c 0 s)
  else if tmCan s c && ((fld f 3 2 == 1 && line) || (fld f 3 2 == 2 && prev.contains (fld f 7 4))) then tmTick c s
  else s

/-- A capture entry of a channel (R429, R430). -/
def capture (c : Nat) (hw sw : Bool) (s : State) : State :=
  let q := kvGet [] s.timer.queues c
  let st := stimePer s
  let merge := match q.getLast? with
    | some e => e.stime == st && e.cnt == tmCnt s c
    | none => false
  let put := fun (l : List CapEnt) (s : State) =>
    let s := { s with timer := { s.timer with queues := kvPut [] s.timer.queues c l } }
    wrF (tmStat c) 6 4 l.length s
  if merge then
    put (q.dropLast ++ (q.drop (q.length - 1)).map fun e => { e with hw := e.hw || hw, sw := e.sw || sw }) s
  else if 4 ≤ q.length then
    setEvt Pg.TIMER 16 (bump Rg.TIMER_CAP_LOST (wrB (tmStat c) 8 true s))
  else
    let s := put (q ++ [⟨tmCnt s c, st, hw, sw⟩]) s
    if fbit (tmCfg s c) 27 then setEvt Pg.TIMER c s else s

def capSrc (s : State) (c : Nat) : Nat := rdF s (Rg.TIMER_CAP_CFG + 4 * c) 6 0

/-- A PERCLK edge: the actions, OUT, and captures of terminal ticks of the edge before (R422 to R428). -/
def timerEdge (line stave : Bool) (applied : List Nat) (s : State) : State :=
  let prev := s.timer.term
  let outs := (List.range 16).foldl (fun m c => if tmOut s c then m + 2 ^ c else m) 0
  let s := { s with timer := { s.timer with term := [], prevOut := outs, acted := [], loaded := [] } }
  let s := (List.range 16).foldl (chanEdge line stave applied prev) s
  let s := outsSync s
  (List.range 16).foldl (fun s c =>
    let src := capSrc s c
    if enabled s Pg.TIMER && 65 ≤ src && src ≤ 80 && prev.contains (src - 65) then capture c true false s else s) s

/-- The counter shows the next PERCLK edge of the line. -/
def nextPerclk (s : State) : State :=
  let p := ((s.clk.beat * 32 + s.clk.sub) / 2 + 1) * 2
  { s with clk := { s.clk with beat := p / 32, sub := p % 32 } }

/-- Up to n further edges of one line, while a terminal tick still acts on other channels. -/
def timerRun : Nat → State → State
  | 0, s => s
  | n + 1, s => if s.timer.term.isEmpty then s else timerRun n (timerEdge false false [] (nextPerclk s))

/-- PERCLK edges between the present sub-beat and the end of the line. -/
def edgesLeft (s : State) : Nat := (2047 - (s.clk.beat * 32 + s.clk.sub)) / 2

/-- The edge that begins a line or a stave (R20, R422): what the edges before it still do, then its own actions. -/
def timerBoundary (stave : Bool) (applied : List Nat) (s : State) : State := timerEdge true stave applied s

/-- A channel clocked by every PERCLK ticks on the present edge (R423, R424): below its end, or the terminal tick. -/
def timerTick (c : Nat) (last : Bool) (s : State) : State :=
  if c < 16 && s.clk.running && s.clk.sub % 2 == 0 && fld (tmCfg s c) 3 2 == 0 && !s.timer.acted.contains c
      && tmCan s c && tmLast s c == last then
    pinsSync (outSync c (tmTick c s))
  else s

/-- CH_CTRL.SW_RESET accepted on this edge (R422): a load of order 1 on the same edge wins. -/
def timerSwReset (c : Nat) (s : State) : State :=
  if s.timer.loaded.contains c then s else pinsSync (outSync c (tmMark c (tmLoad c 0 s)))

/-- The present edge is the first at or after a stave time. -/
def firstEdgeAt (s : State) (st : Nat) : Bool :=
  let now := linSub s / 2 * 2
  let t := linOf st * 2048 + st % 0x800
  t ≤ now && now < t + 2

/-- A selected source shows on the present edge (R428): a GPIO edge as given, an FS, a terminal tick. -/
def timerCapture (c : Nat) (rising : Bool) (s : State) : State :=
  let src := capSrc s c
  let e := rdF s (Rg.TIMER_CAP_CFG + 4 * c) 9 8
  let ok := if src == 0 then false
    else if src ≤ 32 then e == 2 || (e == 0) == rising
    else if src ≤ 64 then
      present s.member (camPg (src - 33)) && (camStream s (src - 33)).seq != 0 && firstEdgeAt s (camStream s (src - 33)).fsTime
    else false
  if c < 16 && s.clk.running && enabled s Pg.TIMER && ok then capture c true false s else s

/-- CAP_POP read by an origin (R431). -/
def capPop (o c : Nat) (s : State) : W32 × State :=
  let k := c * 256 + o
  match kvGet [] s.timer.queues c with
  | [] => (0, { s with timer := { s.timer with pops := kvErase s.timer.pops k } })
  | e :: r =>
    let s := { s with timer := { s.timer with queues := kvPut [] s.timer.queues c r, pops := kvInsert s.timer.pops k e } }
    (w32 e.cnt, wrF (tmStat c) 6 4 r.length s)

/-- CAP_ST_LO, CAP_ST_HI and CAP_INFO as latched for an origin (R431). -/
def capLatch (s : State) (o c k : Nat) : W32 :=
  match kvFind s.timer.pops (c * 256 + o), k with
  | none, _ => 0
  | some e, 0 => w32 e.stime
  | some e, 1 => w32 (e.stime / 0x100000000)
  | some e, _ => w32 (1 + b2n e.hw * 2 + b2n e.sw * 4)

/-- TIMER.SNAP (R432). -/
def timerSnap (s : State) : State :=
  let s := (List.range 16).foldl (fun s c => wr (Rg.TIMER_SNAP_CNT + 4 * c) (w32 (tmCnt s c)) s) s
  wr64 Rg.TIMER_SNAP_ST_LO (stimePer s) s

/-- A staged register of a channel is written (R422). -/
def timerWritten (off : Nat) (s : State) : State :=
  let c := if off < 0x900 then (off - 0x800) / 16 else (off - 0x900) / 4
  { s with timer := { s.timer with written := c :: s.timer.written } }

/-- CFG and CAP_CFG are not refused (R424, R428). -/
def timerCfgOk (v : W32) : Bool := fld v 3 2 != 3
def capCfgOk (v : W32) : Bool := fld v 6 0 ≤ 80 && fld v 9 8 != 3

/-- What a reset of the page leaves of the timer beside the registers (R433). -/
def timerReset (s : State) : State := { s with timer := TimerSt.reset }

end Sys2Proof.Machine
end

