-- ==== Sys2Proof/Machine/Ports.lean ====
section
/-! DEFINITION. Ethernet, I3C, SPI and GPIO (20_side_ports.md). -/
namespace Sys2Proof.Machine

def clsPort : Nat := Config.cacheClass 2 % 8

/-- n bytes that the manual leaves open. -/
def freeBytes (n : Nat) (s : State) : List Byte × State :=
  let (f, s) := freeVal s
  (toLE n f, s)

/-! ## Ethernet (R434 to R441) -/

def ethPg (m : Nat) : Nat := Pg.ETH + m
def ethReg (a m : Nat) : Nat := a + m * 0x1000
def ethSpeed (s : State) (m : Nat) : Nat := rdF s (ethReg Rg.ETH_MAC_CFG m) 1 0
/-- Link rate in units of 100 Mb/s. -/
def ethRate (s : State) (m : Nat) : Nat := match ethSpeed s m with | 0 => 10 | 1 => 25 | 2 => 50 | _ => 100
def ethUp (s : State) (m : Nat) : Bool :=
  m < 2 && present s.member (ethPg m) && enabled s (ethPg m) && rdB s (ethReg Rg.ETH_LINK_STAT m) 0

/-- A count of a MAC: 0 RX_FRAMES, 1 RX_FCS, 2 RX_SIZE, 3 RX_FILTERED, 4 RX_POOL_DROP, 5 RX_RING_DROP, 6 TX_FRAMES,
7 TX_POISON; a drop counter sets EVT_STAT.ERR. -/
def ethCount (m k : Nat) (s : State) : State :=
  let s := bump (ethReg Rg.ETH_COUNTS m + 4 * k) s
  if k == 4 || k == 5 then setEvt (ethPg m) 3 s else s

/-- The destination address passes (R435). -/
def ethForMe (s : State) (m : Nat) (f : List Byte) : Bool :=
  let d := leAt f 0 6
  d == rdN s (ethReg Rg.ETH_MAC_ADDR_LO m) + rdF s (ethReg Rg.ETH_MAC_ADDR_HI m) 15 0 * 0x100000000
    || d % 2 == 1 || rdB s (ethReg Rg.ETH_MAC_CFG m) 3

/-- EtherType as the frame carries it, behind a VLAN tag if it has one. -/
def ethType (f : List Byte) : Bool × Nat :=
  let be := fun o => leAt f o 1 * 256 + leAt f (o + 1) 1
  if be 12 == 0x8100 then (true, be 16) else (false, be 12)

/-- A received frame, its FCS at its end (R435, R436). -/
def ethAccept (m : Nat) (f : List Byte) (s : State) : State :=
  let n := f.length - 4
  if f.length < 4 || leAt f n 4 != crc32 (f.take n) then ethCount m 1 s
  else if f.length < 64 || 1522 < f.length then ethCount m 2 s
  else if !ethForMe s m f then ethCount m 3 s
  else
    let p := rdF s (ethReg Rg.ETH_MAC_CFG m) 10 4
    match allocBuf (15 + m) p s with
    | (none, s) => ethCount m 4 s
    | (some h, s) =>
      let tail := ethReg Rg.ETH_RX_TAIL m
      let ord := rdF s (ethReg Rg.ETH_RX_ORDER m) 3 0
      if poolBufSize s p < n then ethCount m 2 (freeBuf p h s)
      else
        let s := devWrite clsPort (bufAddr s p (h % 0x1000)) (f.take n) s
        let t := rdN s tail
        if 2 ^ ord ≤ sub32 t (rdN s (ethReg Rg.ETH_RX_HEAD m)) then ethCount m 5 (freeBuf p h s)
        else
          let ring := rd64 s (ethReg Rg.ETH_RX_RING_LO m) / 16 * 16
          let (tag, ty) := ethType f
          let fl := b2n tag + b2n (ty == 0x88F7) * 2
          let e := toLE 8 (stimeNow s) ++ toLE 2 h ++ toLE 2 n ++ toLE 1 fl ++ toLE 1 0 ++ toLE 2 t
          let s := devWrite clsPort (ring + 16 * (t % 2 ^ ord)) e s
          setEvt (ethPg m) 0 (bumpWrap tail (ethCount m 0 s))

/-- A frame leaves the crossing (R492, R496). -/
def ethTake (m : Nat) (f : List Byte) (s : State) : State :=
  liveInput hyEth (fun s => ethAccept m f (hymnRec hyEth m 0 f s)) s

/-- A frame comes to ETH_RX (R501). -/
def ethRx (m : Nat) (f : List Byte) (s : State) : State :=
  if !ethUp s m then s
  else
    match wvPass (0x20 + m) 0 f (fun l => some (.ethRx m l)) s with
    | (.pass l _, s) => ethTake m l s
    | (_, s) => s

/-- RX_HEAD is not refused (R436). -/
def rxHeadOk (s : State) (m : Nat) (v : W32) : Bool :=
  between32 v.toNat (rdN s (ethReg Rg.ETH_RX_HEAD m)) (rdN s (ethReg Rg.ETH_RX_TAIL m))

def txOrder (s : State) (m q : Nat) : Nat := rdF s (ethReg Rg.ETH_TXQ_ORDER m + 4 * q) 3 0
def txHead (s : State) (m q : Nat) : Nat := rdN s (ethReg Rg.ETH_TXQ_HEAD m + 4 * q)
def txTail (s : State) (m q : Nat) : Nat := rdN s (ethReg Rg.ETH_TXQ_TAIL m + 4 * q)

/-- TXQ_TAIL is not refused: the rule of R151 (R437). -/
def txTailOk (s : State) (m q : Nat) (v : W32) : Bool :=
  between32 v.toNat (txTail s m q) ((txHead s m q + 2 ^ txOrder s m q) % 0x100000000)

/-- Address of the descriptor at the head of a queue. -/
def txDesc (s : State) (m q : Nat) : Nat :=
  rd64 s (ethReg Rg.ETH_TXQ_BASE_LO m + 8 * q) / 32 * 32 + 32 * (txHead s m q % 2 ^ txOrder s m q)

/-- A gate event of the next line closes queue q (R439). -/
def gateCloses (s : State) (m q : Nat) : Bool :=
  match s.cantor.score with
  | none => false
  | some c => (halves s.member).any fun h => (kvGet [] c.events (h * 16 + s.cantor.alt)).any fun e =>
      e.unit == 4 && e.inst == m && e.line == (s.clk.line + 1) % 1250 && !bit e.arg q

/-- A frame of LEN bytes, started now, ends before the next line (R439): bits at the link rate against sub-beats of
1/153.6 µs. -/
def endsInLine (s : State) (m len : Nat) : Bool :=
  let p := s.clk.beat * 32 + s.clk.sub
  p * 1000 * ethRate s m + (len + 24) * 8 * 1536 < 2048 * 1000 * ethRate s m

/-- A descriptor's write-back has completed (R437). -/
def txWritten (m q : Nat) (s : State) : State :=
  setEvt (ethPg m) 1 (bumpWrap (ethReg Rg.ETH_TXQ_HEAD m + 4 * q) s)

/-- A frame with its FCS leaves through ETH_TX (R501). -/
def ethSend (m : Nat) (f : List Byte) (s : State) : State :=
  match wvPass (0x28 + m) 0 f (fun l => some (.ethTx m l)) s with
  | (.pass l _, s) => emit (.frame m l) s
  | (_, s) => s

/-- The queues below n, highest first: the frame that starts, if any (R437, R439). -/
def txPick (m : Nat) : Nat → State → State
  | 0, s => s
  | q + 1, s =>
    if !rdB s (ethReg Rg.ETH_GATE m) q || txHead s m q == txTail s m q then txPick m q s
    else
      let d := txDesc s m q
      let (b, _, s) := devRead clsPort d 32 s
      let len := leAt b 8 2
      if len < 60 || 1518 < len then txWritten m q (devWrite clsPort (d + 10) (toLE 1 2) s)
      else if gateCloses s m q && !endsInLine s m len then txPick m q s
      else
        let (f, bad, s) := devRead clsPort (leAt b 0 8) len s
        let fcs := crc32 f
        let s := if bad then bump (ethReg Rg.ETH_COUNTS m + 28) s else s
        let s := { s with port := { s.port with sending := kvInsert s.port.sending m ⟨q, d, stimeNow s, bad⟩ } }
        ethSend m (f ++ toLE 4 (if bad then Nat.xor fcs 0xFFFFFFFF else fcs)) s

/-- The link is idle: the MAC starts a frame (R439). -/
def txStart (m : Nat) (s : State) : State :=
  if ethUp s m && (kvFind s.port.sending m).isNone then txPick m 8 s else s

/-- A frame has been sent: its descriptor is written back (R437). -/
def txDone (m : Nat) (s : State) : State :=
  match kvFind s.port.sending m with
  | none => s
  | some t =>
    let s := { s with port := { s.port with sending := kvErase s.port.sending m } }
    let s := devWrite clsPort (t.desc + 16) (toLE 8 t.stime) (devWrite clsPort (t.desc + 10) (toLE 1 (1 + b2n t.poison * 4)) s)
    txWritten m t.q (ethCount m 6 s)

/-- A change of the link (R441). -/
def ethLink (m : Nat) (up : Bool) (speed : Nat) (an : Bool) (s : State) : State :=
  let a := ethReg Rg.ETH_LINK_STAT m
  let v := w32 (b2n up + speed % 4 * 2 + b2n an * 8)
  if !(m < 2 && present s.member (ethPg m)) then s
  else if rdB s a 0 == up then wr a v s
  else setEvt (ethPg m) 2 (hwSet 5 a v s)

/-- The gate events of the present line (R438). -/
def gateEvents (s : State) : State :=
  let evs := s.cantor.events.filter (·.unit == 4)
  let s := { s with cantor := { s.cantor with events := s.cantor.events.filter (·.unit != 4) } }
  evs.foldl (fun s e => wr (ethReg Rg.ETH_GATE e.inst) (w32 (e.arg % 256)) s) s

/-- The gate state takes GATE_BASE at a stave boundary (R438). -/
def gateBase (s : State) : State :=
  ((List.range 2).filter fun m => present s.member (ethPg m)).foldl (fun s m =>
    wr (ethReg Rg.ETH_GATE m) (rd s (ethReg Rg.ETH_GATE_BASE m)) s) s

/-- Orders of rings (RX_ORDER, TXQ_ORDER). -/
def ethOrderOk (v : W32) : Bool := 4 ≤ fld v 3 0 && fld v 3 0 ≤ 12

/-! ## FIFOs of 64 bytes -/

/-- A word put into a FIFO; one that does not fit is lost. -/
def fifoPush (l : List Byte) (v : W32) : List Byte := if l.length ≤ 60 then l ++ toLE 4 v.toNat else l

/-- A word taken from a FIFO; bytes it does not hold are left open. -/
def fifoPop (l : List Byte) (s : State) : Nat × List Byte × State :=
  if 4 ≤ l.length then (leAt l 0 4, l.drop 4, s)
  else
    let (f, s) := freeBytes 4 s
    (fromLE (l ++ f.drop l.length), [], s)

/-- n bytes of a transfer taken from a FIFO of words. -/
def fifoTake (l : List Byte) (n : Nat) (s : State) : List Byte × List Byte × State :=
  if n ≤ l.length then (l.take n, l.drop ((n + 3) / 4 * 4), s)
  else
    let (f, s) := freeBytes n s
    (l ++ f.drop l.length, [], s)

/-! ## I3C and I2C (R442 to R444) -/

def i3cReg (a b : Nat) : Nat := a + b * 0x1000
def i3cBus (s : State) (b : Nat) : I3cBus := kvGet I3cBus.reset s.port.i3c b
def putI3c (b : Nat) (x : I3cBus) (s : State) : State :=
  { s with port := { s.port with i3c := kvPut I3cBus.reset s.port.i3c b x } }
def i3cBusy (s : State) (b : Nat) : Bool := rdB s (i3cReg Rg.I3C_XFER_STAT b) 0
def i3cCtrl (s : State) (b : Nat) : W32 := rd s (i3cReg Rg.I3C_XFER_CTRL b)
def i3cKind (s : State) (b : Nat) : Nat := fld (i3cCtrl s b) 9 8
def i3cCcc (s : State) (b : Nat) : Nat := fld (i3cCtrl s b) 23 16
/-- The transfer of XFER_CTRL is an assignment round (R443). -/
def i3cDaa (s : State) (b : Nat) : Bool := i3cKind s b == 2 && i3cCcc s b == 7

/-- XFER_GO is not refused (R443). -/
def i3cGoOk (s : State) (b : Nat) : Bool := !i3cBusy s b && fld (i3cCtrl s b) 30 24 ≤ 64

/-- A transfer starts (R443). -/
def i3cGo (b : Nat) (s : State) : State :=
  let c := i3cCtrl s b
  let n := fld c 30 24
  let rnw := fbit c 7
  let x := i3cBus s b
  let rd := if i3cDaa s b then 8 else if rnw then n else 0
  let (d, rest, s) := if rnw || i3cDaa s b then ([], x.fifo, s) else fifoTake x.fifo n s
  let s := putI3c b { x with fifo := rest, readLen := rd } s
  let head := fld c 6 0 + b2n rnw * 0x80 + fld c 23 16 * 0x100 + n * 0x10000
  emit (.i3c b (fld c 9 8) head d) (wrB (i3cReg Rg.I3C_XFER_STAT b) 0 true s)

/-- A transfer ends with its result and the bytes read (R443). -/
def i3cDone (b result count : Nat) (data : List Byte) (s : State) : State :=
  if !i3cBusy s b then s
  else
    let x := i3cBus s b
    let d := data.take x.readLen
    let s := if d.isEmpty then s else hymnRec hySide b (hymnKind hySide 2) d s
    let (pad, s) := freeBytes ((4 - d.length % 4) % 4) s
    let s := putI3c b { x with fifo := (x.fifo ++ d ++ pad).take 64, readLen := 0 } s
    let s := wr (i3cReg Rg.I3C_XFER_STAT b) (w32 (result % 8 * 2 + count % 128 * 0x100)) s
    setEvt (Pg.I3C + b) 0 s

/-- An in-band interrupt or hot-join (R444). -/
def i3cIbi (b addr : Nat) (payload : List Byte) (s : State) : State :=
  let x := i3cBus s b
  if 8 ≤ x.ibis.length || (addr == 2 && !rdB s (i3cReg Rg.I3C_CFG b) 16) then
    setEvt (Pg.I3C + b) 2 (bump (i3cReg Rg.I3C_IBI_NACKED b) s)
  else
    let s := hymnRec hySide b (hymnKind hySide 3) (toLE 1 addr ++ payload.take 4) s
    let s := putI3c b { x with ibis := x.ibis ++ [⟨addr % 128, payload.take 4, stimeNow s⟩] } s
    setEvt (Pg.I3C + b) 1 s

/-- IBI_POP read by an origin (R444, as R431). -/
def ibiPop (o b : Nat) (s : State) : W32 × State :=
  let x := i3cBus s b
  let k := b * 256 + o
  match x.ibis with
  | [] => (0, { s with port := { s.port with ibiPops := kvErase s.port.ibiPops k } })
  | e :: r =>
    let s := putI3c b { x with ibis := r } s
    (w32 (e.addr + 0x80 + e.data.length * 0x100), { s with port := { s.port with ibiPops := kvInsert s.port.ibiPops k e } })

/-- IBI_DATA, IBI_ST_LO and IBI_ST_HI as latched for an origin. -/
def ibiLatch (s : State) (o b k : Nat) : W32 :=
  match kvFind s.port.ibiPops (b * 256 + o), k with
  | none, _ => 0
  | some e, 0 => w32 (fromLE e.data)
  | some e, 1 => w32 e.stime
  | some e, _ => w32 (e.stime / 0x100000000)

/-- I3C.CFG is not refused (R442). -/
def i3cCfgOk (v : W32) : Bool := 7 ≤ fld v 7 0 && 77 ≤ fld v 15 8

/-! ## SPI (R445, R446) -/

def spiReg (a k : Nat) : Nat := a + k * 0x20
def spiCtl (s : State) (k : Nat) : SpiCtl := kvGet SpiCtl.reset s.port.spi k
def putSpi (k : Nat) (x : SpiCtl) (s : State) : State :=
  { s with port := { s.port with spi := kvPut SpiCtl.reset s.port.spi k x } }
def spiBusy (s : State) (k : Nat) : Bool := rdB s (spiReg Rg.SPI_CTL_STAT k) 0

/-- A transfer starts, or is armed for CTL_LINE (R445). -/
def spiGo (k : Nat) (s : State) : State :=
  let c := rd s (spiReg Rg.SPI_CTL_CTRL k)
  let x := spiCtl s k
  let n := fld c 10 4
  let (d, rest, s) := fifoTake x.fifo n s
  let s := wrB (spiReg Rg.SPI_CTL_STAT k) 0 true s
  if fbit c 11 then
    putSpi k { fifo := rest, armed := some (rdF s (spiReg Rg.SPI_CTL_LINE k) 10 0, linLine s, d), len := n } s
  else emit (.spi k d) (putSpi k { fifo := rest, armed := none, len := n } s)

/-- An armed transfer starts at the start of its line (R445). -/
def spiTimed (k : Nat) (s : State) : State :=
  let x := spiCtl s k
  match x.armed with
  | some (line, lin, d) =>
    if s.clk.line == line && lin < linLine s then emit (.spi k d) (putSpi k { x with armed := none } s) else s
  | none => s

/-- A transfer completes with the bytes that came in (R445). -/
def spiDone (k : Nat) (data : List Byte) (s : State) : State :=
  let x := spiCtl s k
  if !spiBusy s k || x.armed.isSome then s
  else
    let d := data.take x.len
    let s := hymnRec hySide k (hymnKind hySide 1) d s
    let (pad, s) := freeBytes ((4 - d.length % 4) % 4) s
    let s := putSpi k { x with fifo := (x.fifo ++ d ++ pad).take 64 } s
    setEvt Pg.SPI (1 + k) (wrB (spiReg Rg.SPI_CTL_STAT k) 0 false s)

/-- SPI.CFG is not refused (R445). -/
def spiCfgOk (v : W32) : Bool := 2 ≤ fld v 7 0 && 2 ≤ fld v 15 8

/-- FAULT_N is low: asserted here or before S6 (R466, R548); else another device may pull the wire. -/
def faultLow (s : State) : Bool × State :=
  if rdB s Rg.FAULT_PIN 0 || !s.boot.everS6 then (true, s) else freeBit s

/-- Bytes stored in the receive mailbox from an offset; offsets wrap at 128. -/
def tgtStore : Nat → List Byte → State → State
  | _, [], s => s
  | o, b :: r, s =>
    let a := Rg.SPI_TGT_RX + o % 128 / 4 * 4
    let k := o % 4 * 8
    tgtStore (o + 1) r (wrF a (k + 7) k b.toNat s)

/-- A WRITE transaction of the MCU (R446). -/
def tgtWrite (off : Nat) (data : List Byte) (s : State) : State :=
  if rdB s Rg.SPI_TGT_CTRL 0 then
    setEvt Pg.SPI 3 (bumpWrap Rg.SPI_TGT_OVERRUN { s with port := { s.port with ovr := true } })
  else if data.isEmpty then s
  else
    let s := hymnRec hySide 0 (hymnKind hySide 0) (toLE 1 off ++ data) s
    let s := tgtStore off data s
    setEvt Pg.SPI 0 (bumpWrap Rg.SPI_TGT_SEQ (wrB Rg.SPI_TGT_CTRL 0 true s))

/-- A READ transaction: the published mailbox (R446). -/
def tgtRead (off n : Nat) (s : State) : State :=
  emit (.spiTgt ((List.range n).map fun i => (s.port.mailbox.drop ((off + i) % 128)).headD 0)) s

/-- A STATUS transaction (R446). -/
def tgtStatus (s : State) : State :=
  let (low, s) := faultLow s
  let b := b2n (rdB s Rg.SPI_TGT_CTRL 0) + b2n s.port.ovr * 2 + b2n low * 4 + b2n (!beforeS6 s) * 8
  emit (.spiTgt (toLE 1 b ++ toLE 4 s.port.txSeq)) { s with port := { s.port with ovr := false } }

/-- The publication that waits is made, with the target CS high (R446). -/
def tgtPublish (s : State) : State :=
  if !s.port.publish then s
  else
    let d := (List.range 32).flatMap fun j => toLE 4 (rdN s (Rg.SPI_TGT_TX + 4 * j))
    { s with port := { s.port with mailbox := d, txSeq := (s.port.txSeq + 1) % 0x100000000, publish := false } }

/-- The MCU's port answers from S1 (R446). -/
def tgtAnswers (s : State) : Bool := s.boot.porstN

/-! ## GPIO (R447) -/

/-- A synchronised pin changes its level (R447, R492). -/
def gpioEdge (i : Nat) (rising : Bool) (s : State) : State :=
  if 32 ≤ i || rdB s Rg.GPIO_IN i == rising then s
  else
    let s := wrB Rg.GPIO_IN i rising s
    let s := hymnRec hyGpio 0 (rdN s Rg.GPIO_IN) [] s
    if rdB s (if rising then Rg.GPIO_RISE else Rg.GPIO_FALL) i then setEvt Pg.GPIO i s else s

/-- OUT_SET and OUT_CLR (R447). -/
def gpioSet (v : W32) (s : State) : State := pinsSync (wr Rg.GPIO_OUT (rd s Rg.GPIO_OUT ||| v) s)
def gpioClr (v : W32) (s : State) : State := pinsSync (wr Rg.GPIO_OUT (rd s Rg.GPIO_OUT &&& ~~~v) s)

/-- What a block reset does to the side ports beside their registers (R441). -/
def ethReset (m : Nat) (s : State) : State := { s with port := { s.port with sending := kvErase s.port.sending m } }
def i3cReset (b : Nat) (s : State) : State := { s with port := { s.port with i3c := kvErase s.port.i3c b } }
def spiReset (s : State) : State :=
  { s with port := { s.port with spi := [], mailbox := List.replicate 128 0, txSeq := 0, ovr := false, publish := false } }

end Sys2Proof.Machine
end

