-- ==== Sys2Proof/Machine/Operands.lean ====
section
/-! DEFINITION. Number formats and arithmetic (14_number_formats.md): encodings, exact values, rounding and conversion,
and the element forms of tensor operands (R298, R317 to R328). -/
namespace Sys2Proof.Machine

/-- An exact value: (−1)^neg × m × 2^e, with signed zeros, or an infinity, or NaN (R317). -/
inductive Num where
  | nan
  | inf (neg : Bool)
  | fin (neg : Bool) (m : Nat) (e : Int)
  deriving DecidableEq, Repr

/-- The format codes of R298. -/
abbrev fInt4 : Nat := 0
abbrev fInt8 : Nat := 1
abbrev fInt16 : Nat := 2
abbrev fE4M3 : Nat := 3
abbrev fE5M2 : Nat := 4
abbrev fFp16 : Nat := 5
abbrev fBf16 : Nat := 6
abbrev fFp32 : Nat := 7
abbrev fInt32 : Nat := 8

/-- Bits of an element of a format (R298). -/
def fmtBits (f : Nat) : Nat :=
  if f == 0 then 4 else if f == 1 || f == 3 || f == 4 then 8 else if f == 2 || f == 5 || f == 6 then 16 else 32

/-- An integer format. -/
def fmtInt (f : Nat) : Bool := f ≤ 2 || f == 8

/-- Exponent bits, mantissa bits and bias of a floating-point format (R317). -/
def fmtExp (f : Nat) : Nat := if f == 3 then 4 else if f == 4 || f == 5 then 5 else 8
def fmtMan (f : Nat) : Nat := if f == 3 then 3 else if f == 4 then 2 else if f == 5 then 10 else if f == 6 then 7 else 23
def fmtBias (f : Nat) : Nat := if f == 3 then 7 else if f == 4 || f == 5 then 15 else 127

/-- Magnitude bits of the largest finite value, and the canonical NaN (R317). -/
def fmtMax (f : Nat) : Nat :=
  if f == 3 then 0x7E else if f == 4 then 0x7B else if f == 5 then 0x7BFF else if f == 6 then 0x7F7F else 0x7F7FFFFF
def fmtNan (f : Nat) : Nat :=
  if f == 3 then 0x7F else if f == 4 then 0x7E else if f == 5 then 0x7E00 else if f == 6 then 0x7FC0 else 0x7FC00000
def fmtInf (f : Nat) : Nat := if f == 4 then 0x7C else if f == 5 then 0x7C00 else if f == 6 then 0x7F80 else 0x7F800000

/-- An integer as an exact value. -/
def ofInt (v : Int) : Num := .fin (v < 0) v.natAbs 0

/-- The value of an encoding (R317, R318). -/
def decodeNum (f w : Nat) : Num :=
  if fmtInt f then ofInt (signed (fmtBits f) w)
  else
    let m := fmtMan f
    let neg := bit w (fmtBits f - 1)
    let ex := bits w (fmtBits f - 2) m
    let man := bits w (m - 1) 0
    let top := 2 ^ fmtExp f - 1
    if ex == top && f == 3 && man == 7 then .nan
    else if ex == top && f != 3 then (if man == 0 then .inf neg else .nan)
    else if ex == 0 then .fin neg man (1 - (fmtBias f : Int) - m)
    else .fin neg (2 ^ m + man) ((ex : Int) - fmtBias f - m)

/-- m × 2^e rounded to an integer, ties to even (R320). -/
def roundEven (m : Nat) (e : Int) : Nat :=
  if 0 ≤ e then m * 2 ^ e.toNat
  else
    let d := (-e).toNat
    let q := m / 2 ^ d
    let r := m % 2 ^ d
    if 2 ^ d < 2 * r || (2 * r == 2 ^ d && q % 2 == 1) then q + 1 else q

/-- A value rounded and saturated into an integer format (R320, R321, R324). -/
def roundInt (n : Nat) (x : Num) : Nat :=
  match x with
  | .nan => 0
  | .inf neg => unsigned n (if neg then -((2 ^ (n - 1) : Nat) : Int) else ((2 ^ (n - 1) : Nat) : Int) - 1)
  | .fin neg m e =>
    let v : Int := roundEven m e
    unsigned n (satSigned n (if neg then -v else v))

/-- Magnitude bits of a nonzero finite value rounded into a floating-point format, saturated (R320, R321, R323). -/
def roundMag (f m : Nat) (e : Int) : Nat :=
  let man := fmtMan f
  let emin : Int := 1 - (fmtBias f : Int)
  let top : Int := max (Nat.log2 m + e) emin
  let q := top - man
  let n := roundEven m (e - q)
  let code := if n < 2 ^ man then n else ((top - emin).toNat + 1) * 2 ^ man + (n - 2 ^ man)
  min code (fmtMax f)

/-- A value rounded once into a format (R320 to R324). -/
def roundTo (f : Nat) (x : Num) : Nat :=
  if fmtInt f then roundInt (fmtBits f) x
  else
    let sgn := 2 ^ (fmtBits f - 1)
    match x with
    | .nan => fmtNan f
    | .inf neg => if f == 3 then fmtNan f else fmtInf f + b2n neg * sgn
    | .fin neg m e => (if m == 0 then 0 else roundMag f m e) + b2n neg * sgn

/-- The exact sum (R322). -/
def Num.add (a b : Num) : Num :=
  match a, b with
  | .nan, _ => .nan
  | _, .nan => .nan
  | .inf x, .inf y => if x == y then .inf x else .nan
  | .inf x, _ => .inf x
  | _, .inf y => .inf y
  | .fin n1 m1 e1, .fin n2 m2 e2 =>
    if m1 == 0 && m2 == 0 then .fin (n1 && n2) 0 0
    else if m1 == 0 then .fin n2 m2 e2
    else if m2 == 0 then .fin n1 m1 e1
    else
      let e := min e1 e2
      let v1 : Int := (m1 * 2 ^ (e1 - e).toNat : Nat)
      let v2 : Int := (m2 * 2 ^ (e2 - e).toNat : Nat)
      let v := (if n1 then -v1 else v1) + (if n2 then -v2 else v2)
      if v == 0 then .fin false 0 0 else .fin (v < 0) v.natAbs e

/-- The sign inverted, except of NaN (R322). -/
def Num.neg : Num → Num
  | .nan => .nan
  | .inf n => .inf (!n)
  | .fin n m e => .fin (!n) m e

/-- The sign cleared, except of NaN (R322). -/
def Num.abs : Num → Num
  | .nan => .nan
  | .inf _ => .inf false
  | .fin _ m e => .fin false m e

/-- The exact product (R322). -/
def Num.mul (a b : Num) : Num :=
  match a, b with
  | .nan, _ => .nan
  | _, .nan => .nan
  | .inf x, .inf y => .inf (x != y)
  | .inf x, .fin n m _ => if m == 0 then .nan else .inf (x != n)
  | .fin n m _, .inf y => if m == 0 then .nan else .inf (n != y)
  | .fin n1 m1 e1, .fin n2 m2 e2 => .fin (n1 != n2) (m1 * m2) (e1 + e2)

/-- A value times 2^k. -/
def Num.shift (a : Num) (k : Int) : Num :=
  match a with
  | .fin n m e => .fin n m (e + k)
  | x => x

/-- a < b of values that are not NaN; the zeros are equal. -/
def Num.lt (a b : Num) : Bool :=
  match a, b with
  | .nan, _ => false
  | _, .nan => false
  | .inf x, .inf y => x && !y
  | .inf x, _ => x
  | _, .inf y => !y
  | .fin n1 m1 e1, .fin n2 m2 e2 =>
    let e := min e1 e2
    let v1 : Int := (m1 * 2 ^ (e1 - e).toNat : Nat)
    let v2 : Int := (m2 * 2 ^ (e2 - e).toNat : Nat)
    (if n1 then -v1 else v1) < (if n2 then -v2 else v2)

/-- A value is negative or −0. -/
def Num.isNeg : Num → Bool
  | .nan => false
  | .inf n => n
  | .fin n _ _ => n

def Num.isZero : Num → Bool
  | .fin _ m _ => m == 0
  | _ => false

def Num.isNan : Num → Bool
  | .nan => true
  | _ => false

/-- MAX and MIN (R322). -/
def Num.max (a b : Num) : Num :=
  if a.isNan || b.isNan then .nan
  else if a.isZero && b.isZero then (if a.isNeg then b else a)
  else if a.lt b then b else a

def Num.min (a b : Num) : Num :=
  if a.isNan || b.isNan then .nan
  else if a.isZero && b.isZero then (if a.isNeg then a else b)
  else if b.lt a then b else a

/-- RELU (R310, R322). -/
def Num.relu (a : Num) : Num := if a.isNeg then .fin false 0 0 else a

/-- A value with an E8M0 scale (R319, R326). -/
def Num.scaled (a : Num) (b : Nat) : Num := if b == 255 then .nan else a.shift ((b : Int) - 127)

/-! ## Elements in bytes -/

/-- Scratch as a command sees it: n bytes from a byte offset. -/
abbrev Scr := Nat → Nat → List Byte

/-- Bytes that n packed elements take. -/
def fmtBytes (f n : Nat) : Nat := (n * fmtBits f + 7) / 8

/-- The raw bits of element i of a packed row at a byte offset (R298). -/
def rawAt (sc : Scr) (f base i : Nat) : Nat :=
  if f == 0 then bits (leAt (sc (base + i / 2) 1) 0 1) (i % 2 * 4 + 3) (i % 2 * 4)
  else leAt (sc (base + i * (fmtBits f / 8)) (fmtBits f / 8)) 0 (fmtBits f / 8)

def numAt (sc : Scr) (f base i : Nat) : Num := decodeNum f (rawAt sc f base i)

/-- Packed raw elements as bytes; pad is the upper half of a last byte that holds one INT4 element only. -/
def packRaw (f pad : Nat) : List Nat → List Byte
  | [] => []
  | [a] => if f == 0 then [BitVec.ofNat 8 (a % 16 + pad % 16 * 16)] else toLE (fmtBits f / 8) a
  | a :: b :: r =>
    if f == 0 then BitVec.ofNat 8 (a % 16 + b % 16 * 16) :: packRaw f pad r
    else toLE (fmtBits f / 8) a ++ packRaw f pad (b :: r)

/-- Kc, the depth of the array (R287, R325). -/
def arrayDepth (f : Nat) : Nat :=
  if f == 0 then 256 else if f == 1 || f == 3 || f == 4 then 128 else if f == 7 then 8 else 32

/-- The accumulator format of an input format (R302, R327). -/
def accFmt (f : Nat) : Nat := if f ≤ 2 || f == 8 then fInt32 else fFp32

/-- One output element of MMA or CONV: K products in groups of Kc, each group rounded once (R325). -/
def accumulate (f old : Nat) (k : Nat) (term : Nat → Num) : Nat :=
  let kc := arrayDepth f
  (List.range (ceilDiv k kc)).foldl (fun acc g =>
    let lo := g * kc
    let s := (List.range (min kc (k - lo))).foldl (fun s i => s.add (term (lo + i))) (decodeNum (accFmt f) acc)
    roundTo (accFmt f) s) old

/-- A sum in which each addition is rounded (R327); none of no terms. -/
def sumRounded (f : Nat) : List Num → Num
  | [] => .fin false 0 0
  | a :: r => r.foldl (fun s x => decodeNum (accFmt f) (roundTo (accFmt f) (s.add x))) (decodeNum (accFmt f) (roundTo (accFmt f) a))

/-- The lowest index of the extreme of a row (R327): a NaN ranks above every number for ARGMAX and below every number
for ARGMIN. -/
def argExt (maxi : Bool) (l : List Num) : Nat :=
  (l.foldl (fun (x : Nat × Nat × Option Num) a =>
    let (i, best, v) := x
    match v with
    | none => (i + 1, i, some a)
    | some b =>
      let better := if b.isNan then false else if a.isNan then true else if maxi then b.lt a else a.lt b
      if better then (i + 1, i, some a) else (i + 1, best, some b)) (0, 0, none)).2.1

/-- Some extreme of a list by MAX or MIN (R322). -/
def extOf (maxi : Bool) : List Num → Option Num
  | [] => none
  | a :: r => some (r.foldl (fun s x => if maxi then s.max x else s.min x) a)

/-- MAXF of R328. -/
def blockMax (f : Nat) : Nat := if f == 0 then 7 else if f == 1 then 127 else if f == 3 then 448 else 57344

/-- The scale byte of a group of exact values (R328). -/
def blockScale (f : Nat) (l : List Num) : Nat :=
  if l.any fun v => match v with | .fin _ _ _ => false | _ => true then 255
  else
    match extOf true (l.map Num.abs) with
    | none => 127
    | some a =>
      if a.isZero then 127
      else ((List.range 255).find? fun (b : Nat) => !((ofInt (blockMax f)).lt (a.shift (127 - (b : Int))))).getD 254

/-- An element of a group under its scale (R328). -/
def blockElem (f b : Nat) (v : Num) : Nat :=
  if b == 255 then (if fmtInt f then 0 else fmtNan f) else roundTo f (v.shift (127 - (b : Int)))

end Sys2Proof.Machine
end

