-- ==== Sys2Proof/Machine/Tensor.lean ====
section
/-! DEFINITION. Tensor commands (13_inference_cores.md): fetch, encoding, the checks of R313, issue and completion
(R294), and what each opcode computes (R299 to R312). -/
namespace Sys2Proof.Machine

/-! ## Encoding (R298) -/

def opcodeOf (l : List Byte) : Nat := leAt l 0 1
def finOf (l : List Byte) : Nat := leAt l 1 1 % 16
def foutOf (l : List Byte) : Nat := leAt l 1 1 / 16
def barrierOf (l : List Byte) : Bool := bit (leAt l 2 1) 0
def subopOf (l : List Byte) : Nat := leAt l 3 1
/-- A 16-bit and a 32-bit field. -/
def h2 (l : List Byte) (o : Nat) : Nat := leAt l o 2
def h4 (l : List Byte) (o : Nat) : Nat := leAt l o 4

def tcNop : Nat := 0
def tcLoad : Nat := 1
def tcStore : Nat := 2
def tcMma : Nat := 0x10
def tcConv : Nat := 0x11
def tcEwise : Nat := 0x20
def tcAct : Nat := 0x21
def tcPool : Nat := 0x22
def tcReduce : Nat := 0x23
def tcTranspose : Nat := 0x24
def tcScale : Nat := 0x25
def tcSig : Nat := 0x30
def tcToken : Nat := 0x31

/-- The opcode table (R298). -/
def opcodeKnown (o : Nat) : Bool :=
  o ≤ 2 || o == 0x10 || o == 0x11 || (0x20 ≤ o && o ≤ 0x25) || o == 0x30 || o == 0x31

/-- The unit of an opcode: 0 memory, 1 array, 2 vector, 3 none (R298). -/
def unitOf (o : Nat) : Nat :=
  if o == 1 || o == 2 then 0 else if o == 0x10 || o == 0x11 then 1
  else if (0x20 ≤ o && o ≤ 0x25) || o == 0x30 then 2 else 3

/-- The command of the opcode table that a TCMD is: its opcode, and its operation where the table has one row for each.
An encoding that R313 refuses belongs to the first row of its opcode; an unknown opcode to NOP. -/
def tcmdRow (l : List Byte) : Nat × Nat :=
  let o := opcodeOf l
  let s := subopOf l
  if !opcodeKnown o then (tcNop, 0)
  else if o == tcStore then (o, if s % 4 == 1 then 1 else if s % 4 == 2 then 2 else 0)
  else if o == tcEwise then (o, if s % 16 < 8 then s % 16 else 0)
  else if o == tcPool then (o, if s == 1 then 1 else 0)
  else if o == tcReduce then (o, if s < 5 then s else 0)
  else (o, 0)

/-! ## Geometry (R304, R307) -/

/-- An HWC window geometry. -/
structure Geo where
  h : Nat
  w : Nat
  kh : Nat
  kw : Nat
  sh : Nat
  sw : Nat
  dh : Nat
  dw : Nat
  pt : Nat
  pb : Nat
  pl : Nat
  pr : Nat

def lo4 (l : List Byte) (o : Nat) : Nat := leAt l o 1 % 16
def hi4 (l : List Byte) (o : Nat) : Nat := leAt l o 1 / 16

def convGeo (l : List Byte) : Geo :=
  ⟨h2 l 10, h2 l 12, lo4 l 18, hi4 l 18, lo4 l 19, hi4 l 19, lo4 l 20, hi4 l 20, lo4 l 21, lo4 l 22, hi4 l 21, hi4 l 22⟩

def poolGeo (l : List Byte) : Geo :=
  ⟨h2 l 8, h2 l 10, lo4 l 14, hi4 l 14, lo4 l 15, hi4 l 15, 1, 1, lo4 l 16, lo4 l 17, hi4 l 16, hi4 l 17⟩

/-- OH or OW: 0 where the window does not fit (R304). -/
def outLen (n p1 p2 d k st : Nat) : Nat := if n + p1 + p2 < d * (k - 1) + 1 || st == 0 then 0 else (n + p1 + p2 - d * (k - 1) - 1) / st + 1
def Geo.oh (g : Geo) : Nat := outLen g.h g.pt g.pb g.dh g.kh g.sh
def Geo.ow (g : Geo) : Nat := outLen g.w g.pl g.pr g.dw g.kw g.sw

/-- The input position of an output position and a kernel position, or none where it is padded. -/
def Geo.pos (g : Geo) (oy ox ky kx : Nat) : Option Nat :=
  let y := oy * g.sh + ky * g.dh
  let x := ox * g.sw + kx * g.dw
  if g.pt ≤ y && y < g.pt + g.h && g.pl ≤ x && x < g.pl + g.w then some ((y - g.pt) * g.w + (x - g.pl)) else none

def Geo.ok (g : Geo) : Bool :=
  let d := fun n => 1 ≤ n && n ≤ 4096
  d g.h && d g.w && g.kh != 0 && g.kw != 0 && g.sh != 0 && g.sw != 0 && g.dh != 0 && g.dw != 0 && g.oh != 0 && g.ow != 0

/-- Elements rounded up to whole units, in bytes (CPI, CPO). -/
def unitBytes (f n : Nat) : Nat := ceilDiv (fmtBytes f n) 32 * 32

/-! ## The checks of R313 -/

/-- Cause 2. -/
def formatOk (l : List Byte) : Bool :=
  let o := opcodeOf l
  let a := finOf l
  let b := foutOf l
  let s := subopOf l
  if o == tcStore then
    if s % 4 == 3 then false else if s % 4 == 0 then a == 0 && b == 0 else a == 8 && b == 8
  else if o == tcMma || o == tcConv then
    a ≤ 7 && b == (if a ≤ 2 then 8 else 7)
      && (!bit s 1 || (o == tcMma && (a == 0 || a == 1 || a == 3 || a == 4) && h2 l 14 % 32 == 0))
  else if o == tcEwise then a ≤ 8 && b ≤ 8
  else if o == tcAct then 1 ≤ a && a ≤ 6 && 1 ≤ b && b ≤ 8
  else if o == tcPool then 1 ≤ a && a ≤ 8 && 1 ≤ b && b ≤ 8
  else if o == tcReduce then a ≤ 8 && b ≤ 8 && (!(s == 3 || s == 4) || b == 8)
  else if o == tcTranspose then a == b && 1 ≤ a && a ≤ 8
  else if o == tcScale then
    a ≤ 8 && b ≤ 8 && (!bit s 2 || ((b == 0 || b == 1 || b == 3 || b == 4) && h2 l 14 % 32 == 0))
  else a == 0 && b == 0

/-- Cause 3. -/
def shapeOk (inv : Bool) (l : List Byte) : Bool :=
  let o := opcodeOf l
  let rng := fun n m => decide (1 ≤ n) && decide (n ≤ m)
  if o == tcLoad || o == tcStore then h2 l 14 != 0 && h2 l 16 != 0 && h2 l 18 != 0
  else if o == tcMma then rng (h2 l 10) 4096 && rng (h2 l 12) 4096 && rng (h2 l 14) 16384
  else if o == tcConv then rng (h2 l 14) 4096 && rng (h2 l 16) 4096 && (convGeo l).ok
  else if o == tcEwise || o == tcAct then rng (h4 l 12) 0x400000
  else if o == tcPool then rng (h2 l 12) 4096 && (poolGeo l).ok
  else if o == tcReduce || o == tcTranspose then rng (h2 l 8) 4096 && rng (h2 l 10) 4096
  else if o == tcScale then rng (h2 l 12) 4096 && rng (h2 l 14) 4096
  else if o == tcSig then rng (h4 l 8) 2097152 && (!bit (subopOf l) 1 || inv || h2 l 16 ≤ 255)
  else if o == tcToken then rng (subopOf l % 8) 4
  else true

/-- A footprint: units from a first one over n bytes; none of no bytes. -/
def foot (u n : Nat) : Nat × Nat := (u, u + ceilDiv n 32)

/-- A footprint of rows a stride apart. -/
def footRows (u rows rs n : Nat) : Nat × Nat := (u, u + (rows - 1) * rs + ceilDiv n 32)

/-- Input footprints of a command, as first unit and end, in the units that it names (R295). -/
def inSpans (l : List Byte) : List (Nat × Nat) :=
  let o := opcodeOf l
  let a := finOf l
  let b := foutOf l
  let s := subopOf l
  if o == tcStore then
    [footRows (h2 l 12 + (h2 l 18 - 1) * h2 l 30) (h2 l 16) (h2 l 28) (h2 l 14) |> fun x => (h2 l 12, x.2)]
  else if o == tcMma then
    [footRows (h2 l 4) (h2 l 10) (h2 l 16) (fmtBytes a (h2 l 14)), footRows (h2 l 6) (h2 l 14) (h2 l 18) (fmtBytes a (h2 l 12))]
      ++ (if bit s 1 then [foot (h2 l 22) (h2 l 10 * (h2 l 14 / 32)), foot (h2 l 24) (h2 l 14 / 32 * h2 l 12)] else [])
  else if o == tcConv then
    let g := convGeo l
    let cpi := unitBytes a (h2 l 14)
    [foot (h2 l 4) (g.h * g.w * cpi), foot (h2 l 6) (h2 l 16 * g.kh * g.kw * cpi)]
  else if o == tcEwise then
    foot (h2 l 4) (fmtBytes a (h4 l 12))
      :: (if s % 16 < 5 then [foot (h2 l 6) (fmtBytes a (if bit s 4 then 1 else h4 l 12))] else [])
  else if o == tcAct then
    [foot (h2 l 4) (fmtBytes a (h4 l 12)), foot (h2 l 8) (if fmtBits a == 8 then fmtBytes b 256 else 2048)]
  else if o == tcPool then
    let g := poolGeo l
    [foot (h2 l 4) (g.h * g.w * unitBytes a (h2 l 12))]
  else if o == tcReduce then [footRows (h2 l 4) (h2 l 8) (h2 l 12) (fmtBytes a (h2 l 10))]
  else if o == tcTranspose then [footRows (h2 l 4) (h2 l 8) (h2 l 12) (fmtBytes a (h2 l 10))]
  else if o == tcScale then
    [footRows (h2 l 4) (h2 l 12) (h2 l 16) (fmtBytes a (h2 l 14)), foot (h2 l 8) (4 * h2 l 14)]
      ++ (if bit s 1 then [foot (h2 l 10) (4 * h2 l 14)] else [])
  else if o == tcSig then [foot (h2 l 4) (h4 l 8)]
  else []

/-- The accumulator that MMA and CONV with ACC read; no overlap by R314. -/
def accSpan (l : List Byte) : List (Nat × Nat) :=
  let o := opcodeOf l
  if o == tcMma then [footRows (h2 l 8) (h2 l 10) (h2 l 20) (4 * h2 l 12)]
  else if o == tcConv then [foot (h2 l 8) ((convGeo l).oh * (convGeo l).ow * unitBytes 8 (h2 l 16))]
  else []

/-- Output footprints of a command. -/
def outSpans (l : List Byte) : List (Nat × Nat) :=
  let o := opcodeOf l
  let b := foutOf l
  let s := subopOf l
  if o == tcLoad then
    [footRows (h2 l 12 + (h2 l 18 - 1) * h2 l 30) (h2 l 16) (h2 l 28) (h2 l 14) |> fun x => (h2 l 12, x.2)]
  else if o == tcMma || o == tcConv then accSpan l
  else if o == tcEwise then [foot (h2 l 8) (fmtBytes b (h4 l 12))]
  else if o == tcAct then [foot (h2 l 6) (fmtBytes b (h4 l 12))]
  else if o == tcPool then [foot (h2 l 6) ((poolGeo l).oh * (poolGeo l).ow * unitBytes b (h2 l 12))]
  else if o == tcReduce then [foot (h2 l 6) (fmtBytes b (h2 l 8))]
  else if o == tcTranspose then [footRows (h2 l 6) (h2 l 10) (h2 l 14) (fmtBytes b (h2 l 8))]
  else if o == tcScale then
    footRows (h2 l 6) (h2 l 12) (h2 l 18) (fmtBytes b (h2 l 14))
      :: (if bit s 2 then [foot (h2 l 20) (h2 l 12 * (h2 l 14 / 32))] else [])
  else if o == tcSig then [foot (h2 l 6) 4]
  else []

def meets (a b : Nat × Nat) : Bool := a.1 < b.2 && b.1 < a.2

/-- Cause 5 (R314). -/
def overlapOk (l : List Byte) : Bool :=
  let o := opcodeOf l
  if o == tcSig then true
  else
    let same := fmtBits (finOf l) == fmtBits (foutOf l) && (o == tcEwise || o == tcAct || (o == tcScale && h2 l 16 == h2 l 18))
    ((outSpans l).zip (List.range 2)).all fun w => (inSpans l).all fun r =>
      !meets w.1 r || (w.2 == 0 && same && w.1.1 == r.1)

/-- Cause 6. -/
def alignOk (cmdVa : Nat) (l : List Byte) : Bool :=
  cmdVa % 32 == 0 && (!(opcodeOf l == tcStore && subopOf l % 4 != 0)
    || (h2 l 14 % 4 == 0 && leAt l 4 8 % 4 == 0 && h4 l 20 % 4 == 0 && h4 l 24 % 4 == 0))

/-- Bytes from lo up to hi − 1 are 0. -/
def zeros (l : List Byte) (lo hi : Nat) : Bool := leAt l lo (hi - lo) == 0

/-- Cause 7: unlisted bytes and bits, and SUBOP values that no rule names, are 0. -/
def reservedOk (l : List Byte) : Bool :=
  let o := opcodeOf l
  let s := subopOf l
  leAt l 2 1 < 2 &&
  (if o == tcNop then s == 0 && zeros l 4 32
   else if o == tcLoad then s < 2
   else if o == tcStore then s < 4
   else if o == tcMma then s < 4 && zeros l 26 32
   else if o == tcConv then s < 2 && zeros l 23 32
   else if o == tcEwise then s < 32 && s % 16 < 8 && zeros l 10 12 && zeros l 16 32
   else if o == tcAct then s == 0 && zeros l 10 12 && zeros l 16 32
   else if o == tcPool then s < 2 && zeros l 18 20 && zeros l 24 32
   else if o == tcReduce then s < 5 && zeros l 14 32
   else if o == tcTranspose then s == 0 && zeros l 16 32
   else if o == tcScale then s < 8 && zeros l 22 32
   else if o == tcSig then s < 4 && zeros l 18 32
   else s < 16 && zeros l (4 + 4 * (s % 8)) 32
     && (List.range (s % 8)).all fun k => bits (h4 l (4 + 4 * k)) 15 13 == 0 && bits (h4 l (4 + 4 * k)) 31 20 == 0)

/-- First unit of the command's scratch and its size in units (R290). -/
def scrBase (s : State) (c : Nat) (inv : Bool) : Nat := if inv then rdF s (Rg.CORE_SCRATCH_SPLIT + c * 0x1000) 13 8 * 2048 else 0

/-- The first failing check of R313, 0 when none fails. -/
def tcmdCause (s : State) (c : Nat) (w : Wait) (l : List Byte) : Nat :=
  let size := 65536 - scrBase s c w.inv
  if !opcodeKnown (opcodeOf l) then 1
  else if !formatOk l then 2
  else if !shapeOk w.inv l then 3
  else if (inSpans l ++ outSpans l).any (fun x => size < x.2) then 4
  else if !overlapOk l then 5
  else if !alignOk w.task.cmdVa l then 6
  else if !reservedOk l then 7
  else 0

/-! ## Scratch (R289 to R292) -/

/-- Scratch as the commands of a task see it: units that an invocation has not seen written read 0 (R291). -/
def scrView (s : State) (c : Nat) (inv : Bool) : Scr := fun off n =>
  let b := scrBase s c inv * 32
  let raw := memRead s (scratchPa c (b + off)) n
  if !inv then raw
  else raw.mapIdx fun i x => if kvGet false s.ms.written (c * 65536 + (b + off + i) / 32) then x else 0

/-- Bytes of scratch written by the core's own commands. -/
def scrWrite (c : Nat) (inv : Bool) (off : Nat) (l : List Byte) (s : State) : State :=
  (homeWrite (halfOf c) 0 (scratchPa c (scrBase s c inv * 32 + off)) l s).2

/-- Errors of the units that footprints cover, reported (R253, R254). -/
def scrErrs (c : Nat) (inv : Bool) (spans : List (Nat × Nat)) (s : State) : Bool × State :=
  spans.foldl (fun (x : Bool × State) r =>
    let (b, s) := readErrs (scratchPa c ((scrBase x.2 c inv + r.1) * 32)) ((r.2 - r.1) * 32) x.2
    (x.1 || b, s)) (false, s)

/-! ## What the computing commands write: byte offsets and bytes (R302 to R311) -/

/-- Row-wise pieces of an output. -/
abbrev Out := List (Nat × List Byte)

/-- A value under an optional block scale byte. -/
def scaleIf (on : Bool) (x : Num) (b : Nat) : Num := if on then x.scaled b else x

/-- MMA (R302, R303, R325, R326). -/
def mmaOut (sc : Scr) (l : List Byte) : Out :=
  let f := finOf l
  let acc := bit (subopOf l) 0
  let blk := bit (subopOf l) 1
  let n := h2 l 12
  let k := h2 l 14
  let byte := fun a => leAt (sc a 1) 0 1
  let sa := fun m i => byte (h2 l 22 * 32 + m * (k / 32) + i / 32)
  let sb := fun i c => byte (h2 l 24 * 32 + i / 32 * n + c)
  (List.range (h2 l 10)).map fun m =>
    let row := (h2 l 8 + m * h2 l 20) * 32
    (row, (List.range n).flatMap fun c =>
      let old := if acc then leAt (sc (row + 4 * c) 4) 0 4 else 0
      let nanScale := blk && f ≤ 2 && (List.range k).any fun i => sa m i == 255 || sb i c == 255
      let v := accumulate f old k fun i =>
        (scaleIf blk (numAt sc f ((h2 l 4 + m * h2 l 16) * 32) i) (sa m i)).mul
          (scaleIf blk (numAt sc f ((h2 l 6 + i * h2 l 18) * 32) c) (sb i c))
      toLE 4 (if nanScale then 0x80000000 else v))

/-- CONV (R304). -/
def convOut (sc : Scr) (l : List Byte) : Out :=
  let f := finOf l
  let g := convGeo l
  let acc := bit (subopOf l) 0
  let cin := h2 l 14
  let cpi := unitBytes f cin
  let cpo := unitBytes 8 (h2 l 16)
  (List.range (g.oh * g.ow)).map fun p =>
    let oy := p / g.ow
    let ox := p % g.ow
    let row := h2 l 8 * 32 + p * cpo
    (row, (List.range (h2 l 16)).flatMap fun o =>
      let old := if acc then leAt (sc (row + 4 * o) 4) 0 4 else 0
      let v := accumulate f old (g.kh * g.kw * cin) fun i =>
        let c := i % cin
        let kx := i / cin % g.kw
        let ky := i / cin / g.kw
        let x := match g.pos oy ox ky kx with
          | some q => numAt sc f (h2 l 4 * 32 + q * cpi) c
          | none => .fin false 0 0
        x.mul (numAt sc f (h2 l 6 * 32 + ((o * g.kh + ky) * g.kw + kx) * cpi) c)
      toLE 4 v)

/-- One EWISE operation (R305, R322); an integer 0 has no sign to invert. -/
def ewiseOp (ints : Bool) (op : Nat) (a b : Num) : Num :=
  if op == 0 then a.add b else if op == 1 then a.add b.neg else if op == 2 then a.mul b else if op == 3 then a.max b
  else if op == 4 then a.min b else if op == 5 then a else if op == 6 then a.abs
  else if ints && a.isZero then a else a.neg

/-- EWISE (R305); pad is the open half of a last byte that holds one INT4 element. -/
def ewiseOut (sc : Scr) (pad : Nat) (l : List Byte) : Out :=
  let f := finOf l
  let s := subopOf l
  [(h2 l 8 * 32, packRaw (foutOf l) pad ((List.range (h4 l 12)).map fun i =>
    roundTo (foutOf l) (ewiseOp (fmtInt f) (s % 16) (numAt sc f (h2 l 4 * 32) i) (numAt sc f (h2 l 6 * 32) (if bit s 4 then 0 else i)))))]

/-- ACT (R306). -/
def actOut (sc : Scr) (l : List Byte) : Out :=
  let f := finOf l
  let t := h2 l 8 * 32
  [(h2 l 6 * 32, packRaw (foutOf l) 0 ((List.range (h4 l 12)).map fun i =>
    let p := rawAt sc f (h2 l 4 * 32) i
    if fmtBits f == 8 then rawAt sc (foutOf l) t p
    else roundTo (foutOf l) ((numAt sc 7 (t + p / 256 * 8) 0).add ((numAt sc 7 (t + p / 256 * 8) 1).mul (ofInt (p % 256 : Nat))))))]

/-- POOL (R307, R327); fr are the open values of a MAX over padded positions only. -/
def poolOut (sc : Scr) (fr : Nat → Nat) (l : List Byte) : Out :=
  let f := finOf l
  let b := foutOf l
  let g := poolGeo l
  let c := h2 l 12
  let cpi := unitBytes f c
  (List.range (g.oh * g.ow)).map fun p =>
    (h2 l 6 * 32 + p * unitBytes b c, packRaw b 0 ((List.range c).map fun ch =>
      let win := (List.range (g.kh * g.kw)).map fun i =>
        (g.pos (p / g.ow) (p % g.ow) (i / g.kw) (i % g.kw)).map fun q => numAt sc f (h2 l 4 * 32 + q * cpi) ch
      if subopOf l == 0 then
        match extOf true (win.filterMap id) with
        | some v => roundTo b v
        | none => fr (p * c + ch) % 2 ^ fmtBits b
      else roundTo b ((sumRounded f (win.map fun v => v.getD (.fin false 0 0))).mul (decodeNum 7 (h4 l 20)))))

/-- REDUCE (R308, R327). -/
def reduceOut (sc : Scr) (pad : Nat) (l : List Byte) : Out :=
  let f := finOf l
  let b := foutOf l
  let s := subopOf l
  [(h2 l 6 * 32, packRaw b pad ((List.range (h2 l 8)).map fun r =>
    let row := (List.range (h2 l 10)).map fun c => numAt sc f ((h2 l 4 + r * h2 l 12) * 32) c
    if s == 0 then roundTo b (sumRounded f row)
    else if s == 3 || s == 4 then argExt (s == 3) row
    else roundTo b ((extOf (s == 1) row).getD (.fin false 0 0))))]

/-- TRANSPOSE (R309): raw elements. -/
def transposeOut (sc : Scr) (l : List Byte) : Out :=
  let f := finOf l
  (List.range (h2 l 10)).map fun c =>
    ((h2 l 6 + c * h2 l 14) * 32, packRaw f 0 ((List.range (h2 l 8)).map fun r => rawAt sc f ((h2 l 4 + r * h2 l 12) * 32) c))

/-- The exact value of a SCALE element after BIAS and RELU (R310). -/
def scaleVal (sc : Scr) (l : List Byte) (r c : Nat) : Num :=
  let s := subopOf l
  let v := (numAt sc (finOf l) ((h2 l 4 + r * h2 l 16) * 32) c).mul (numAt sc 7 (h2 l 8 * 32) c)
  let v := if bit s 1 then v.add (numAt sc 7 (h2 l 10 * 32) c) else v.add (.fin false 0 0)
  if bit s 0 then v.relu else v

/-- SCALE's rows (R310, R328); fr are the open halves of last bytes that hold one INT4 element. -/
def scaleRows (sc : Scr) (fr : Nat → Nat) (l : List Byte) : Out :=
  let b := foutOf l
  (List.range (h2 l 12)).map fun r =>
    let vs := (List.range (h2 l 14)).map (scaleVal sc l r)
    let raw := if bit (subopOf l) 2 then
        (List.range (h2 l 14 / 32)).flatMap fun g =>
          let grp := (vs.drop (32 * g)).take 32
          grp.map (blockElem b (blockScale b grp))
      else vs.map (roundTo b)
    ((h2 l 6 + r * h2 l 18) * 32, packRaw b (fr r) raw)

/-- SCALE's block scales (R310, R328). -/
def scaleScales (sc : Scr) (l : List Byte) : Out :=
  if !bit (subopOf l) 2 then []
  else (List.range (h2 l 12)).map fun r =>
    let vs := (List.range (h2 l 14)).map (scaleVal sc l r)
    (h2 l 20 * 32 + r * (h2 l 14 / 32), (List.range (h2 l 14 / 32)).map fun g =>
      BitVec.ofNat 8 (blockScale (foutOf l) ((vs.drop (32 * g)).take 32)))

/-- SIG's value (R311). -/
def sigVal (sc : Scr) (l : List Byte) : Nat :=
  let seed := if bit (subopOf l) 0 then h4 l 12 else 0
  Nat.xor ((sc (h2 l 4 * 32) (h4 l 8)).foldl (fun c b => crcShift 0x82F63B78 8 (Nat.xor c b.toNat)) (Nat.xor seed 0xFFFFFFFF)) 0xFFFFFFFF

/-- What a computing command writes. The order of SCALE's two outputs is left open where they meet. -/
def computeOut (sc : Scr) (fr : Nat → Nat) (first : Bool) (l : List Byte) : Out :=
  let o := opcodeOf l
  if o == tcMma then mmaOut sc l
  else if o == tcConv then convOut sc l
  else if o == tcEwise then ewiseOut sc (fr 0) l
  else if o == tcAct then actOut sc l
  else if o == tcPool then poolOut sc fr l
  else if o == tcReduce then reduceOut sc (fr 0) l
  else if o == tcTranspose then transposeOut sc l
  else if o == tcScale then
    if first then scaleScales sc l ++ scaleRows sc fr l else scaleRows sc fr l ++ scaleScales sc l
  else [(h2 l 6 * 32, toLE 4 (sigVal sc l))]

/-! ## Fetch (R293, R297) -/

/-- Commands that a core holds prefetched. -/
def storeHeld (s : State) (c : Nat) : Nat :=
  ((s.cantor.ready.filter (·.core == c)).map (·.cmds.length)).sum + (match coreRun s c with | some r => r.w.cmds.length | none => 0)

/-- One more command of a task fetched (R293): up to cap of it, while the core's store of 64 has space. -/
def fetchOne (rr : RegRead) (cap : Nat) (x : Wait × Nat × State) : Wait × Nat × State :=
  let (w, room, s) := x
  if w.fetchErr.isSome || w.task.cmdCount ≤ w.fetched || cap ≤ w.cmds.length || room == 0 then x
  else
    match xRead rr (waitWho s w) accRead (w.task.cmdVa + 32 * w.fetched) 32 s with
    | (.ok l, s) => ({ w with cmds := w.cmds ++ [l], fetched := w.fetched + 1 }, room - 1, s)
    | (.error e, s) => if e.held then (w, 0, x.2.2) else ({ w with fetchErr := some (e.status, e.resource) }, 0, s)

/-- A fetch fault takes effect once its command is next to issue (R293). -/
def fetchFault (c : Nat) (s : State) : State :=
  match coreRun s c with
  | none => s
  | some r =>
    match r.w.cmds, r.w.fetchErr with
    | [], some (st, res) => accessFail r.w.job ⟨st, res, 0⟩ c c r.w.task.idx s
    | _, _ => s

/-- The task that a core runs fetches ahead (R293). -/
def fetchRun (rr : RegRead) (c : Nat) (s : State) : State :=
  match coreRun s c with
  | none => s
  | some r =>
    let (w, _, s) := (List.range 64).foldl (fun x _ => fetchOne rr 64 x) (r.w, 64 - storeHeld s c, s)
    fetchFault c { s with cantor := { s.cantor with runs := kvInsert s.cantor.runs c { r with w := w } } }

/-- The n-th waiting task of a core fetches its first commands (R293). -/
def fetchReady (rr : RegRead) (c n : Nat) (s : State) : State :=
  match (s.cantor.ready.filter (·.core == c))[n]? with
  | none => s
  | some w =>
    let (w2, _, s) := (List.range 16).foldl (fun x _ => fetchOne rr 16 x) (w, 64 - storeHeld s c, s)
    putReady w2 s

/-- A command stream of a core's task has been written while it must not change (R297, UB-1301). -/
def streamHit (s : State) (c : Nat) : Bool := s.cantor.streams.any fun m => m.core == c && m.hit

/-! ## Issue and completion (R294 to R296, R315) -/

/-- Footprints in units of the core's scratch. -/
def absSpans (s : State) (c : Nat) (inv : Bool) (l : List (Nat × Nat)) : List (Nat × Nat) :=
  l.map fun x => (scrBase s c inv + x.1, scrBase s c inv + x.2)

/-- The command may issue beside those outstanding (R294, R295). -/
def mayIssueCmd (r : CoreRun) (l : List Byte) (rd wr : List (Nat × Nat)) : Bool :=
  let u := unitOf (opcodeOf l)
  let clash := fun (a b : List (Nat × Nat)) => a.any fun x => b.any (meets x)
  r.out.length < 8 && !((barrierOf l || opcodeOf l == tcToken) && !r.out.isEmpty)
    && r.out.all fun e => (u == 3 || e.unit != u) && !clash wr (e.rd ++ e.wr) && !clash e.wr (rd ++ wr)

/-- A command error (R315). -/
def cmdError (c : Nat) (r : CoreRun) (cause : Nat) (l : List Byte) (s : State) : State :=
  let b := c * 0x1000
  let s := wr (Rg.CORE_CMD_ERR + b) (w32 (cause + opcodeOf l * 0x100 + r.w.job % 4096 * 0x10000 + b2n r.w.inv * 0x10000000)) s
  let s := wr64 (Rg.CORE_CMD_ERR_STIME_LO + b) (stimeNow s) (wr (Rg.CORE_CMD_ERR_IDX + b) (w32 r.idx) s)
  jobEnd r.w.job 0x0202 0 c r.w.task.idx (setEvt (Pg.CORE + c) 0 s)

/-- A row of LOAD or STORE: virtual address and scratch offset (R300). -/
def memRows (l : List Byte) : List (Nat × Nat) :=
  (List.range (h2 l 18)).flatMap fun (j : Nat) => (List.range (h2 l 16)).map fun (i : Nat) =>
    let va : Int := (leAt l 4 8 : Nat) + (i : Int) * signed 32 (h4 l 20) + (j : Int) * signed 32 (h4 l 24)
    ((va % (2 ^ 64 : Nat)).toNat, (h2 l 12 + i * h2 l 28 + j * h2 l 30) * 32)

/-- A failure within a memory command: it stops there (R230, R300). -/
abbrev MemRun := Option XErr × State

/-- LOAD (R299, R300). -/
def loadRows (rr : RegRead) (c : Nat) (w : Wait) (l : List Byte) (s : State) : MemRun :=
  let acc := if bit (subopOf l) 0 then accNear else accRead
  (memRows l).foldl (fun (x : MemRun) r =>
    match x with
    | (some e, s) => (some e, s)
    | (none, s) =>
      match xRead rr (waitWho s w) acc r.1 (h2 l 14) s with
      | (.ok d, s) => (none, scrWrite c w.inv r.2 d s)
      | (.error e, s) => (some e, s)) (none, s)

/-- The value that an atomic leaves (R301). -/
def atomicVal (max : Bool) (mem v : Nat) : Nat :=
  if max then (if signed 32 mem < signed 32 v then v else mem) else (mem + v) % 0x100000000

/-- STORE, plain or atomic (R299 to R301). -/
def storeRows (c : Nat) (w : Wait) (l : List Byte) (s : State) : MemRun :=
  let n := h2 l 14
  let a := subopOf l % 4
  (memRows l).foldl (fun (x : MemRun) r =>
    match x with
    | (some e, s) => (some e, s)
    | (none, s) =>
      let d := scrView s c w.inv r.2 n
      if a == 0 then xWrite (waitWho s w) accWrite r.1 d s
      else (List.range (n / 4)).foldl (fun (y : MemRun) i =>
        match y with
        | (some e, s) => (some e, s)
        | (none, s) => xAtomic (waitWho s w) (fun m => atomicVal (a == 2) m (leAt d (4 * i) 4)) (r.1 + 4 * i) s) (none, s)) (none, s)

/-- The tokens of a TOKEN command, sent in order (R274, R312). -/
def sendTokens (w : Wait) (l : List Byte) (s : State) : State :=
  let j := jobAt s w.job
  (List.range (subopOf l % 8)).foldl (fun s k =>
    let t := h4 l (4 + 4 * k)
    let tag := if bit (subopOf l) 3 then (bits t 19 16 + w.tag) % 16 else bits t 19 16
    if !w.inv then tokenSend (tokenOf (bits t 12 12) (bits t 11 0) tag) s
    else
      match j with
      | none => s
      | some j =>
        if j.nslot ≤ bits t 11 0 then tokCount Rg.CANTOR_TOK_DROP w.half s
        else tokenSend (tokenOf w.half (j.slotBase + bits t 11 0) tag) s) s

/-- The signature that a SIG with ROUND delivers when it completes (R451). -/
def sigMsg (c : Nat) (w : Wait) (l : List Byte) (v : Nat) : Option SigMsg :=
  if opcodeOf l == tcSig && bit (subopOf l) 1 && !w.inv then some ⟨h2 l 16, c, w.tag, w32 v⟩ else none

/-- The effect of a command that has passed its checks, as it ends when it runs alone (R295): the failure that it meets,
and the signature it delivers. -/
def runCmd (rr : RegRead) (c : Nat) (w : Wait) (l : List Byte) (s : State) : Option XErr × Option SigMsg × State :=
  let o := opcodeOf l
  if o == tcNop then (none, none, s)
  else if o == tcToken then (none, none, sendTokens w l s)
  else
    let (bad, s) := scrErrs c w.inv (inSpans l ++ (if (o == tcMma || o == tcConv) && bit (subopOf l) 0 then accSpan l else [])) s
    if bad then (some ⟨0x0406, true, 0⟩, none, s)
    else if o == tcLoad then
      let (e, s) := loadRows rr c w l s
      (e, none, s)
    else if o == tcStore then
      let (e, s) := storeRows c w l s
      (e, none, s)
    else
      let sc := scrView s c w.inv
      let s0 := s.free
      let out := computeOut sc (fun i => Config.freeNat (s0 + 1 + i)) (Config.freeBool s0) l
      let s := { s with free := s0 + 1 + (if o == tcPool then (poolGeo l).oh * (poolGeo l).ow * h2 l 12 else if o == tcScale then h2 l 12 else 1) }
      let s := out.foldl (fun s x => scrWrite c w.inv x.1 x.2 s) s
      let s := if o == tcSig && bit (subopOf l) 1 && w.inv then bump (Rg.SAFETY_COUNTS + 16) s else s
      (none, sigMsg c w l (sigVal sc l), s)

/-- One command completed (CORE.CMDS). -/
def countCmd (c : Nat) (s : State) : State := bump (Rg.CORE_CMDS + c * 0x1000) s

/-- The next command of a core's task issues, if it is of the row named and R294 lets it (R294, R313). -/
def issueCmd (rr : RegRead) (c : Nat) (row : Nat × Nat) (s : State) : State :=
  match coreRun s c with
  | none => s
  | some r =>
    match r.w.cmds with
    | [] => s
    | l :: rest =>
      if tcmdRow l != row then s
      else
        let cause := tcmdCause s c r.w l
        if cause != 0 then (if r.out.isEmpty then cmdError c r cause l s else s)
        else
          let o := opcodeOf l
          let rd := absSpans s c r.w.inv (inSpans l ++ (if bit (subopOf l) 0 then accSpan l else []))
          let wrs := absSpans s c r.w.inv (outSpans l)
          if !mayIssueCmd r l rd wrs then s
          else
            let r1 := { r with w := { r.w with cmds := rest }, idx := r.idx + 1 }
            let s0 := s
            let s := { s with cantor := { s.cantor with runs := kvInsert s.cantor.runs c r1 } }
            let s := wr (Rg.CORE_CMD_IDX + c * 0x1000) (w32 r1.idx) s
            let (e, sg, s) := runCmd rr c r1.w l s
            match e with
            | some e => if e.held then s0 else accessFail r1.w.job e c c r1.w.task.idx s
            | none =>
              if o == tcNop || o == tcToken then fetchFault c (countCmd c s)
              else
                match coreRun s c with
                | none => s
                | some r2 =>
                  let out := r2.out ++ [⟨unitOf o, rd, wrs, linBeat s, sg⟩]
                  fetchFault c { s with cantor := { s.cantor with runs := kvInsert s.cantor.runs c { r2 with out := out } } }

/-- Beats in which the array was busy, each counted once. -/
def countArray (c start : Nat) (s : State) : State :=
  let lo := max start (kvGet 0 s.ms.arrayBeat c)
  let hi := linBeat s + 1
  let s := (rdN s (Rg.CORE_ARRAY_BEATS + c * 0x1000) + (hi - lo)) |> fun n =>
    wr (Rg.CORE_ARRAY_BEATS + c * 0x1000) (w32 (min n 0xFFFFFFFF)) s
  { s with ms := { s.ms with arrayBeat := kvPut 0 s.ms.arrayBeat c hi } }

/-- The command that a unit of a core runs completes (R294, R451). -/
def completeCmd (c u : Nat) (s : State) : State :=
  match coreRun s c with
  | none => s
  | some r =>
    match r.out.find? (·.unit == u) with
    | none => s
    | some e =>
      let s := { s with cantor := { s.cantor with runs := kvInsert s.cantor.runs c { r with out := r.out.erase e } } }
      let s := if u == 1 then countArray c e.start s else s
      let s := match e.sig with
        | some m => { s with safety := { s.safety with sigs := s.safety.sigs ++ [m] } }
        | none => s
      countCmd c s

/-- A task whose last command has completed ends (R296). -/
def taskEnds (s : State) (c : Nat) : Bool :=
  match coreRun s c with
  | some r => r.w.task.cmdCount ≤ r.idx && r.out.isEmpty
  | none => false

end Sys2Proof.Machine
end

