-- ==== Sys2Proof/Machine/RegRead.lean ====
section
/-! DEFINITION. Register reads (R36, R46, R58, R61, R73, R94): what every register shows to an origin, and the side
effects of the reads that have some. -/
namespace Sys2Proof.Machine

/-- Work in progress of a block (BLK_STAT.BUSY). -/
def blkBusy (s : State) (p : Nat) : Bool :=
  match pageDesc p with
  | none => false
  | some d =>
    let i := p - d.base
    match d.kind with
    | .guard => s.boot.otpProg.isSome
    | .tune => rdB s Rg.TUNE_STAT 3
    | .core => (coreRun s i).isSome
    | .cantor => (s.cantor.jobs.any fun j => keyHalf j.1 == i && j.2.state == 2) || (i == 0 && s.cantor.validating.isSome)
    | .mmu => i == 0 && rdB s Rg.MMU_INV_STAT 0
    | .chafer => (chWin s i).isSome || !(chaferOpens s i).isEmpty
    | .dsi => rdB s Rg.DSI_GEN_STAT 0
    | .choir => !s.choir.voices.isEmpty || !s.choir.queue.isEmpty
    | .eth => (kvFind s.port.sending i).isSome
    | .i3c => i3cBusy s i
    | .spi => spiBusy s 0 || spiBusy s 1
    | .slink => !(linkPort s i).unacked.isEmpty || !(linkPort s i).stalled.isEmpty
    | .hymnal => rdB s Rg.HYMNAL_STAT 0
    | _ => false

/-- READY: enabled and able to accept work; on the pages of R559 from S4 on, whatever ENABLE reads. -/
def blkReady (s : State) (p : Nat) : Bool :=
  present s.member p && !fenced s p && (if r559Page p then 4 ≤ stage s else enabled s p)

/-- BLK_STAT as it reads. -/
def blkStat (s : State) (p : Nat) : Nat :=
  b2n (blkReady s p) + b2n (blkBusy s p) * 2 + rdF s (hdr p Hdr.BLK_STAT) 3 2 * 4

/-! ## The roll as an origin reads it (R94) -/

def cursorOf (s : State) (o : Nat) : Cursor := kvGet Cursor.reset s.roll.cursors o
def putCursor (o : Nat) (c : Cursor) (s : State) : State :=
  { s with roll := { s.roll with cursors := kvPut Cursor.reset s.roll.cursors o c } }

/-- NEXT_SEQ and OLDEST_SEQ before the entries of the present edge. -/
def rollNext (s : State) : Nat := if s.roll.edgeN == 0 then rdN s Rg.ROLL_NEXT_SEQ else s.roll.edgeNext
def rollOldest (s : State) : Nat := if s.roll.edgeN == 0 then rdN s Rg.ROLL_OLDEST_SEQ else s.roll.edgeOldest

/-- A roll entry as its eight words (R86). -/
def rollWords (e : RollEntry) : List W32 :=
  let m := b2n e.refused + b2n e.boot * 2 + b2n e.replay * 4 + b2n e.hw * 8 + b2n e.staged * 16 + e.be * 0x100
    + e.reason * 0x1000
  [w32 e.stime, w32 (e.stime / 0x100000000), w32 (e.origin + e.aux * 0x100 + e.page * 0x10000), w32 (e.off + m * 0x10000),
    e.old, e.new, w32 e.rseq, e.count]

/-- A read of RD_DATA0: the entry at RD_SEQ is copied into the origin's snapshot. -/
def rollSnap (o : Nat) (s : State) : W32 × State :=
  let c := cursorOf s o
  let gone : List W32 := List.replicate 8 0
  let (st, w) :=
    if sub32 c.seq (rollOldest s) < 0x80000000 then
      if sub32 c.seq (rollOldest s) < sub32 (rollNext s) (rollOldest s) then
        match s.roll.entries.find? (·.rseq == c.seq) with
        | some e => (0, rollWords e)
        | none => (1, gone)
      else (2, gone)
    else (1, gone)
  (w.headD 0, putCursor o { c with stat := st, snap := w } s)

/-- A read of RD_DATA7: the last word, and RD_SEQ advances. -/
def rollLast (o : Nat) (s : State) : W32 × State :=
  let c := cursorOf s o
  ((c.snap.drop 7).headD 0, putCursor o { c with seq := (c.seq + 1) % 0x100000000 } s)

/-! ## Registers that are not stored as they read -/

/-- JOB_INFO0 to JOB_INFO3 of the entry that JOB_IDX names. -/
def jobInfo (s : State) (h k : Nat) : Nat :=
  let i := rdF s (Rg.CANTOR_JOB_IDX + h * 0x1000) 11 0
  match (jobAt s (jobKey h i)).or (jobAt s (invKey h i)) with
  | none => 0
  | some j =>
    if k == 0 then j.kind + j.state * 4 + j.failMode * 16 + j.restartMax * 32 + j.restarts * 256 + j.status * 0x10000
    else if k == 1 then j.ring
    else if k == 2 then j.subSeq
    else j.start

/-- JOBS and SLOTS that invocations and score jobs hold in a half. -/
def cantorUsed (s : State) (h : Nat) : Nat :=
  (s.cantor.jobs.filter fun j => keyHalf j.1 == h).length
    + ((slotBlocks s h).foldl (fun n b => n + b.2) 0) * 0x10000

/-- AW_AGE of the selected watch. -/
def awAge (s : State) : Nat :=
  let v := watchOf s (rdF s Rg.AGEWATCH_AW_SEL 7 0)
  min v.count 65535 + b2n v.expired * 0x10000 + b2n v.fed * 0x20000

/-- HALTED bits of the pairs. -/
def haltMask (s : State) : Nat := (List.range 4).foldl (fun m h => m + b2n (pairHalted s h) * 2 ^ h) 0

/-- Target and ramp of the node that XP_IDX names. -/
def xpNodeView (s : State) : W32 :=
  let x := nodeOf s (xpIdx s)
  let (t, r) := x.new.getD (x.t, x.r)
  w32 (unsigned 16 t + r * 0x10000)

/-- The value of a register of a listed page as an origin reads it, without side effects; none where the register file
holds it. Tenant pages and SRIOV.JOBS are readback's own. -/
def viewOf (s : State) (o p off : Nat) : Option W32 :=
  match pageDesc p with
  | none => none
  | some d =>
    let i := p - d.base
    match d.kind with
    | .guard =>
      if off == 0x48 then
        some (w32 (b2n (sbEn s) + fld (otpWord s 49) 3 0 * 2 + otpSvn s * 32))
      else if off == 0x50 then some (otpWord s (rdF s Rg.GUARD_OTP_ADDR 7 0))
      else none
    | .tune =>
      if off == 0x54 then some (mtpWord s (recIdx s))
      else if off == 0x5C then some (kvGet 0 s.boot.buf (bufIdx s))
      else none
    | .roll =>
      let c := cursorOf s o
      if off == 0x44 then some (w32 (rollNext s))
      else if off == 0x48 then some (w32 (rollOldest s))
      else if off == 0x58 then some (w32 (sub32 (rollNext s) (rdN s Rg.ROLL_TAIL_SEQ)))
      else if off == 0x60 then some (w32 c.seq)
      else if off == 0x64 then some (w32 c.stat)
      else if 0x80 ≤ off && off < 0xA0 then some ((c.snap.drop ((off - 0x80) / 4)).headD 0)
      else none
    | .auth => if off == 0x48 then some (w32 o) else none
    | .agewatch => if off == 0x44 then some (w32 (awAge s)) else none
    | .weevil => if off == 0x40 then some (setFld (rd s Rg.WEEVIL_STAT) 1 1 (b2n (wvFused s))) else none
    | .debug =>
      if off == 0x40 then some (w32 (b2n (debugOff s) + b2n (debugAllow s) * 2 + haltMask s * 16))
      else if off == 0x94 then some (w32 (leAt (gmemRead s (0x50050000 + 4 * rdN s Rg.DEBUG_TRACE_IDX) 4) 0 4))
      else none
    | .hart => if off == 0x40 then some (setFld (rd s (Rg.HART_STAT + i * 0x1000)) 2 2 (b2n (pairHalted s i))) else none
    | .stave =>
      if off == 0x40 then some (w32 (stimeNow s))
      else if off == 0x44 then some (w32 (kvGet 0 s.clk.nowHi o))
      else none
    | .timer =>
      if 0x100 ≤ off && off < 0x200 && off % 16 != 0 then some (capLatch s o ((off - 0x100) / 16) (off % 16 / 4 - 1))
      else if 0x100 ≤ off && off < 0x200 then
        some (match kvGet [] s.timer.queues ((off - 0x100) / 16) with
          | e :: _ => w32 e.cnt
          | [] => 0)
      else none
    | .evc => if 0x50 ≤ off && off < 0x60 then some (w32 (evHartStat s ((off - 0x50) / 4))) else none
    | .evcsrc => if 0x40 ≤ off && off < 0x180 || 0xE00 ≤ off then some (w32 (evcsrcView s p off)) else none
    | .pool => if off == 0x64 then some (kvGet 0 s.pool.swRes o) else none
    | .cantor =>
      if off == 0x64 then some (w32 (cantorUsed s i))
      else if 0xB4 ≤ off && off ≤ 0xC0 then some (w32 (jobInfo s i ((off - 0xB4) / 4)))
      else none
    | .wingcase =>
      if off == 0x84 then some (palEntry s i (rdN s (wcReg Rg.WINGCASE_PAL_IDX i) % 1024))
      else if off == 0x8C then some (palEntry s i (rdN s (wcReg Rg.WINGCASE_LT_PAL_IDX i) % 1024))
      else if off == 0xB0 && !enabled s p then some (setFld (rd s (wcReg Rg.WINGCASE_TT_STAT i)) 31 16 0)
      else none
    | .choir => if 0xE00 ≤ off && off < 0xE90 then some (coefWord ((off - 0xE00) / 4)) else none
    | .choirxp => if off == 0x44 then some (xpNodeView s) else if off == 0x48 then some (xpCur s) else none
    | .i3c =>
      if off == 0x54 then some (ibiLatch s o i 0)
      else if off == 0x58 then some (ibiLatch s o i 1)
      else if off == 0x5C then some (ibiLatch s o i 2)
      else none
    | .gpio => if off == 0x48 || off == 0x4C then some (rd s Rg.GPIO_OUT) else none
    | .slink =>
      if off == 0x80 then some (w32 ((rwOf s o).1))
      else if off == 0x84 then some (w32 ((rwOf s o).2))
      else if off == 0x88 then some (w32 ((rwOf s o).2 / 0x100000000))
      else none
    | _ => none

/-- The value that a register of a page shows to an origin. -/
def view (s : State) (o a : Nat) : W32 :=
  let (p, off, isHdr) := locate a
  if !present s.member p then readback s a
  else if isHdr then (if off == Hdr.BLK_STAT then w32 (blkStat s p) else readback s a)
  else if isTenantPage p then
    (if off == 0x54 then w32 (stimeNow s) else readback s a)
  else (viewOf s o p off).getD (readback s a)

/-! ## Reads -/

/-- NOW_LO read by an origin: NOW_HI is latched for it (R36). -/
def readNow (o : Nat) (s : State) : W32 × State :=
  let t := stimeNow s
  (w32 t, { s with clk := { s.clk with nowHi := kvPut 0 s.clk.nowHi o (t / 0x100000000 % 0x100000000) } })

/-- HOST.NP_OUT read: PEAK restarts at NOW (R125). -/
def readNpOut (s : State) : W32 × State := (rd s Rg.HOST_NP_OUT, wrF Rg.HOST_NP_OUT 25 16 (npNow s) s)

/-- A read with side effects, or the plain view. -/
def readPage (o p off : Nat) (s : State) : W32 × State :=
  let plain := (view s o (p * 0x1000 + off), s)
  match pageDesc p with
  | none => plain
  | some d =>
    let i := p - d.base
    match d.kind with
    | .tune => if off == 0x54 then recRead s else plain
    | .roll => if off == 0x80 then rollSnap o s else if off == 0x9C then rollLast o s else plain
    | .fault =>
      if off == 0x48 then
        let (low, s) := faultLow s
        (setFld (rd s Rg.FAULT_PIN) 1 1 (b2n (!low)), s)
      else plain
    | .debug => if off == 0x94 then traceRead s else plain
    | .stave => if off == 0x40 then readNow o s else plain
    | .timer => if 0x100 ≤ off && off < 0x200 && off % 16 == 0 then capPop o ((off - 0x100) / 16) s else plain
    | .evc => if off == 0x44 then evClaim o s else plain
    | .host => if off == 0x4C then readNpOut s else plain
    | .wingcase =>
      if off == 0x84 then palRead i Rg.WINGCASE_PAL_IDX s
      else if off == 0x8C then palRead i Rg.WINGCASE_LT_PAL_IDX s
      else plain
    | .i3c =>
      if off == 0x44 then
        let (v, f, s) := fifoPop (i3cBus s i).fifo s
        (w32 v, putI3c i { i3cBus s i with fifo := f } s)
      else if off == 0x50 then ibiPop o i s
      else plain
    | .spi =>
      if off == 0x48 || off == 0x68 then
        let k := (off - 0x48) / 32
        let (v, f, s) := fifoPop (spiCtl s k).fifo s
        (w32 v, putSpi k { spiCtl s k with fifo := f } s)
      else plain
    | _ => plain

/-- A read that R73 lets through at this time. -/
def readVisible (s : State) (o p off : Nat) (isHdr : Bool) : Bool :=
  !beforeS6 s || o == 0x42 || o == 0 || p == Pg.BOOT || (isHdr && (off == 0 || off == 4) && stage s == 5)

/-- A read of a register-space offset by an origin (R54, R58, R61, R73). -/
def regRead (o off : Nat) (s : State) : W32 × State :=
  let a := off / 4 * 4
  if 0x200000 ≤ a && a < 0x220000 || 0x224000 ≤ a then (0, s)
  else
    let (p, w, isHdr) := locate a
    match pageDesc p with
    | none => (0, s)
    | some _ =>
      if isTenantPage p || !readVisible s o p w isHdr then (0, s)
      else if isHdr || !present s.member p then (view s o a, s)
      else readPage o p w s

/-- What a read returns to its origin. -/
def answer (o : Nat) (x : W32 × State) : State := emit (.readData o x.1.toNat) x.2

end Sys2Proof.Machine
end

