-- ==== Sys2Proof/Machine/WriteChecks.lean ====
section
/-! DEFINITION. The values that each register refuses (reason VALUE of R87), by the chapter that owns it. -/
namespace Sys2Proof.Machine

/-- A main hart or PF0: the origins that the software ports accept (R174, R278). -/
def swOrigin (o : Nat) : Bool := o == 0x41 || isMain o

/-- Register-file key of the shadow of a staged register (R59). -/
def shadow (a : Nat) : Nat := a + 0x200

/-- The ring of a RINGSTATE offset, and its register's offset within the entry (R62). -/
def ringAt (p off : Nat) : Nat × Nat := ((p - 0x100) * 64 + off / 64, off % 64)

/-- Values of header registers (R80, R240, R400). -/
def hdrOk (d : PageDesc) (p off : Nat) (v : W32) (s : State) : Bool :=
  if off == Hdr.PAGE_OWNER then
    let o := fld v 7 0
    isMain o || (!d.guardDie && 1 ≤ o && o ≤ 0x41)
  else if off == Hdr.BLK_CTRL then
    if d.kind == .dramc then !(fbit v 1 && enabled s p)
    else if d.kind == .dsi then !(fbit v 0 && !enabled s p && !dsiRateOk s)
    else true
  else true

/-- A staged timing write, judged with the shadows of the other timing registers. -/
def timingWriteOk (h off : Nat) (v : W32) (s : State) : Bool :=
  let pick := fun (k : Nat) => if off == 0x800 + 4 * k then v else rd s (shadow (wcReg Rg.WINGCASE_TIMING0 h + 4 * k))
  timingOk h (pick 0) (pick 1) (pick 2) (pick 3)

/-- Wingcase registers (R373, R378, R396). -/
def wingOk (o h off : Nat) (v : W32) (s : State) : Bool :=
  if off == 0x88 || off == 0x8C then o == 0
  else if 0x100 ≤ off && off < 0x200 then
    let a := wcReg Rg.WINGCASE_TP_CTRL h + (off - 0x100) / 64 * 64
    (isMain o || !rdB s a 4) && !(off % 64 == 0 && fld v 17 16 == 3)
  else if 0x800 ≤ off && off < 0x810 then timingWriteOk h off v s
  else true

/-- Tenant registers of the SRIOV page: entry n and register k of its block (R141, R142, R144). -/
def sriovOk (n k : Nat) (v : W32) (s : State) : Bool :=
  let meetsIt := fun (m : Nat) => m != n && m != 0 && fbit (tenCfg s m) 31
    && tenBase s m < tenBase s n + tenCount s n && tenBase s n < tenBase s m + tenCount s m
  if k == 0 then
    !fbit (tenCfg s n) 31 && fld v 28 16 ≤ 4096 && fld v 13 0 + fld v 28 16 ≤ nRings s.member
  else if k == 1 then fld v 21 0 ≤ rdF s (Rg.SRIOV_TEN_CEIL + 16 * n) 21 0
  else if k == 2 then rdF s (Rg.SRIOV_TEN_GUAR + 16 * n) 21 0 ≤ fld v 21 0
  else
    n == 0 || !fbit v 31 || fbit (tenCfg s n) 31
      || (tenCount s n != 0 && !((List.range 65).any meetsIt))

/-- Ring registers (R149, R179). -/
def ringOk (r k : Nat) (v : W32) (s : State) : Bool :=
  if k ≤ 0x10 then ringState s r == ringDisabled && inflight s r == 0 && queuedN s r == 0
  else if k == 0x14 then
    !fbit v 0 || rdB s (ringCtrl r) 0 || (ringOrdersOk s r && ringState s r == ringDisabled)
  else if k == 0x18 then 1 ≤ fld v 7 0 && fld v 14 8 ≤ 75
  else true

/-- Choir registers (R408, R410, R411): patch p's registers belong to the harts while its GUARD is 1. -/
def choirOk (o off : Nat) (v : W32) (s : State) : Bool :=
  if off == 0x40 then s.choir.queue.length < 8
  else if off == 0x44 then keyOffOk s o (fld v 3 0)
  else if 0x100 ≤ off && off < 0x500 then
    let p := (off - 0x100) / 32
    isMain o || (!rdB s (Rg.CHOIR_P_CTRL + 32 * p) 8 && !(off % 32 == 0 && fbit v 8))
  else if off == 0x800 then fld v 3 0 ≤ 8
  else true

/-- Weevil's rule registers while a rule's own fields and ARMED allow (R498 to R501, R503, R506). -/
def weevilOk (o off : Nat) (v : W32) (s : State) : Bool :=
  if off == 0x44 then !wvFused s && (isMain o || o == 0x48)
  else if 0x100 ≤ off && off < 0x200 then
    let r := (off - 0x100) / 32
    let k := off % 32
    if rdB s Rg.WEEVIL_STAT 0 then
      k == 0 && fbit (wvCtrl s r) 0 && setFld v 15 15 0 == setFld (wvCtrl s r) 0 0 0
    else if k == 0 then wvCtrlOk s r v.toNat
    else if k == 4 then wvTargOk (fld (wvCtrl s r) 14 12) v.toNat
    else if k == 0x14 then wvArgOk (fld (wvCtrl s r) 3 1) v.toNat
    else true
  else true

/-- LOCK_CTRL (R489): what TAKE needs. CAL and RELEASE have no condition. -/
def lockCtrlOk (v : W32) (s : State) : Bool := !fbit v 1 || takeOk s

/-- Timed tokens of a half that wait (R278). -/
def timedOf (s : State) (h : Nat) : Nat := (s.cantor.timed.filter fun t => bits t.tok 12 12 == h).length

/-- The value is not refused by the register's own chapter. -/
def valueOk (q : Req) (d : PageDesc) (p off : Nat) (v : W32) (s : State) : Bool :=
  let i := p - d.base
  let o := q.origin
  match d.kind with
  | .guard =>
    if off == 0x40 then !(fbit v 0 && rdB s Rg.TUNE_STAT 3) && !(fbit v 2 && !s.boot.everS6)
    else if off == 0x4C then fld v 7 0 ≤ 50
    else if off == 0x54 then otpProgOk s v
    else true
  | .tune => if off == 0x4C then !fbit v 0 || commitOk s else if off == 0x5C then !rdB s Rg.TUNE_STAT 3 else true
  | .roll => if off == 0x4C then between32 v.toNat (rdN s Rg.ROLL_TAIL_SEQ) (rdN s Rg.ROLL_NEXT_SEQ) else true
  | .safety =>
    if off == 0x40 then fenceOk s o (fld v 7 0)
    else if off == 0x84 then between32 v.toNat (rdN s Rg.SAFETY_RLOG_TAIL) (rdN s Rg.SAFETY_RLOG_HEAD)
    else true
  | .agewatch =>
    if 0x400 ≤ off && off < 0x800 then awCfgOk v
    else if 0xE00 ≤ off then fld v 1 0 != 3 && fld v 17 16 != 3
    else true
  | .fault =>
    if off == 0x40 then classMapOk v.toNat && !rdB s Rg.FAULT_CLASS_LOCK 0
    else if off == 0x48 then !fbit v 2 || pinReleaseOk s o
    else if off == 0x4C then fld v 7 0 != 0
    else if off == 0x54 then rdF s Rg.FAULT_WDOG_CFG 15 0 == 0
    else if off == 0xC4 then between32 v.toNat (rdN s Rg.FAULT_FLOG_TAIL) (rdN s Rg.FAULT_FLOG_HEAD)
    else true
  | .weevil => weevilOk o off v s
  | .debug =>
    if off == 0x44 then debugCtrlOk s o v
    else if off == 0x48 then holdCtrlOk s o v
    else if off == 0x4C then fld v 10 0 ≤ 1249
    else true
  | .hart => if off == 0x48 then !fbit v 0 || restartOk s o i else true
  | .stave => if off == 0x58 then !fbit v 0 || !rdB s Rg.SLINK_LOCK_STAT 1 else true
  | .clock => if off == 0x48 then 16 ≤ fld v 7 0 else true
  | .timer => if 0x800 ≤ off && off < 0x900 && off % 16 == 0 then timerCfgOk v
              else if 0x900 ≤ off && off < 0x940 then capCfgOk v else true
  | .evc =>
    if off == 0x40 then doorOk o q.aux (fld v 11 0)
    else if off == 0x48 then evHeldBy s o (fld v 11 0)
    else true
  | .evcsrc =>
    if 0x400 ≤ off && off < 0x800 then
      let src := i * 512 + (off - 0x400) / 2
      evCfgOk s src (fld v 15 0) && evCfgOk s (src + 1) (fld v 31 16)
    else true
  | .sriov => if 0x3F0 ≤ off then sriovOk ((off - 0x3F0) / 16) (off % 16 / 4) v s else true
  | .admission => if off == 0x804 then 1 ≤ fld v 6 0 && fld v 6 0 ≤ 64 else true
  | .pool =>
    if off == 0x40 || off == 0x44 then (List.range 128).all fun k => poolCount s k == 0
    else if off == 0x60 || off == 0x68 then swOrigin o
    else if 0x800 ≤ off then fld v 19 16 ≤ 12
    else true
  | .hymnal =>
    if off == 0x48 then hymnRdOk s v
    else if off == 0xC10 then 10 ≤ fld v 4 0 && fld v 4 0 ≤ 24
    else true
  | .mmu =>
    if off == 0x40 then fld v 9 8 != 3
    else if off == 0x50 then
      !fbit v 0 || !(rdB s Rg.MMU_INV_STAT 0 || (rdF s Rg.MMU_INV_CTX 9 8 == 0 && rdN s Rg.MMU_INV_COUNT == 0)
        || 64 < rdF s Rg.MMU_INV_CTX 6 0)
    else if off == 0x84 then
      between32 v.toNat (rdN s (Rg.MMU_FLOG_TAIL + i * 0x1000)) (rdN s (Rg.MMU_FLOG_HEAD + i * 0x1000))
    else true
  | .core => if off == 0x48 then fld v 5 0 ≤ 32 else true
  | .cantor =>
    if off == 0x48 then !fbit v 0 || !(rdF s Rg.CANTOR_LOAD_STAT 2 0 == 1 || rdF s Rg.CANTOR_LOAD_STAT 2 0 == 2)
    else if off == 0xA0 then swOrigin o
    else if off == 0xA8 then swOrigin o && timedOf s (fld v 12 12) < 1024
      && rdF s (Rg.CANTOR_TOKEN_AT_LINE + i * 0x1000) 10 0 ≤ 1249
    else if off == 0xD4 then
      between32 v.toNat (rdN s (Rg.CANTOR_FLOG_TAIL + i * 0x1000)) (rdN s (Rg.CANTOR_FLOG_HEAD + i * 0x1000))
    else true
  | .wingcase => wingOk o i off v s
  | .dsi => if off == 0x58 then !fbit v 0 || dsiGenOk s else true
  | .cam =>
    if off == 0xC0 then releaseOk s i v.toNat
    else if 0x800 ≤ off && off < 0x840 then
      (off % 16 != 0 || (2 ≤ fld v 20 16 && fld v 20 16 ≤ 16)) && (off % 16 != 4 || (1 ≤ fld v 28 16 && fld v 28 16 ≤ 4096))
    else if off == 0xC00 then phyCfgOk v
    else true
  | .streamgrp =>
    if 0x800 ≤ off && off % 8 == 0 then
      grpMaskOk s ((off - 0x800) / 8) v.toNat fun g => rdN s (shadow (Rg.STREAMGRP_GRP_MASK + 8 * g))
    else true
  | .choir => choirOk o off v s
  | .choirxp => if off == 0x44 then xpNodeOk s o else true
  | .tdm => if off == 0xC00 then tdmCfgOk s i v else true
  | .eth =>
    if off == 0x48 then rxHeadOk s i v
    else if 0x80 ≤ off && off < 0xA0 then txTailOk s i ((off - 0x80) / 4) v
    else if off == 0xC14 || 0xC80 ≤ off then ethOrderOk v
    else true
  | .i3c => if off == 0x48 then !fbit v 0 || i3cGoOk s i else if off == 0xC00 then i3cCfgOk v else true
  | .spi =>
    if off == 0x4C || off == 0x6C then !fbit v 0 || !spiBusy s ((off - 0x4C) / 32)
    else if off == 0xC00 then spiCfgOk v
    else true
  | .slink =>
    if off == 0x8C then destOk s (rwOf s o).1
    else if off == 0x94 then destOk s (rdF s Rg.SLINK_EV_DEST 2 0)
    else if off == 0xA0 then lockCtrlOk v s
    else if off == 0xB4 then
      between32 v.toNat (rdN s (Rg.SLINK_FLOG_TAIL + i * 0x1000)) (rdN s (Rg.SLINK_FLOG_HEAD + i * 0x1000))
    else true
  | .ringstate => let (r, k) := ringAt p off; ringOk r k v s
  | _ => true

/-- Fields that only the harts write (00_scope.md): a register of such fields alone refuses other origins, and one with
other fields refuses a value that would change them. -/
def rhOk (o : Nat) (r : RegDesc) (cur v : W32) : Bool :=
  let rh := r.flds.filter (·.acc == .rh)
  isMain o || rh.isEmpty
    || (r.flds.any (·.acc == .rw) && rh.all fun f => fld v f.hi f.lo == fld cur f.hi f.lo)

end Sys2Proof.Machine
end

