-- ==== Sys2Proof/Machine/WriteFx.lean ====
section
/-! DEFINITION. What an accepted register write does (R59, R63, R68 to R75 and the register's own chapter): the stored
word, the value that the change roll shows (R554), and the effects of each block's registers. -/
namespace Sys2Proof.Machine

/-! ## Words -/

/-- A register word after a write: RW fields take the value, W1C fields clear, the others stay (R63). -/
def storeWord (l : List Fld) (cur v : W32) : W32 :=
  l.foldl (fun w f => match f.acc with
    | .rw | .rh => setFld w f.hi f.lo (fld v f.hi f.lo)
    | .w1c => w &&& ~~~(v &&& maskOf f.hi f.lo)
    | _ => w) cur

/-- OLD of an accepted write's entry (R554). -/
def rollOld (l : List Fld) (cur : W32) : W32 :=
  l.foldl (fun w f => if f.acc == .wo then setFld w f.hi f.lo 0 else w) cur

/-- NEW of an accepted write's entry (R554). -/
def rollNew (l : List Fld) (cur v : W32) : W32 :=
  l.foldl (fun w f => match f.acc with
    | .rw | .rh | .wo => setFld w f.hi f.lo (fld v f.hi f.lo)
    | .w1s => w ||| (v &&& maskOf f.hi f.lo)
    | .w1c => w &&& ~~~(v &&& maskOf f.hi f.lo)
    | _ => w) cur

/-- Some field of the register keeps what is written to it (R63). -/
def regStores (r : RegDesc) : Bool := r.flds.any fun f => f.acc == .rw || f.acc == .rh || f.acc == .w1c

/-- A register whose value another piece of the state holds. -/
def regVirtual (k : Kind) (off : Nat) : Bool :=
  match k with
  | .tune => off == 0x5C
  | .roll => off == 0x60
  | .wingcase => off == 0x84 || off == 0x8C
  | .choirxp => off == 0x44
  | .i3c => off == 0x44
  | .spi => off == 0x48 || off == 0x68
  | .gpio => off == 0x4C
  | .slink => off == 0x80 || off == 0x84 || off == 0x88
  | .evcsrc => off < 0x80
  | _ => false

/-! ## Header registers (R69, R70, R74, R75) -/

/-- ENABLE of a block changed. -/
def enableFx (k : Kind) (i : Nat) (old new : Bool) (s : State) : State :=
  match k with
  | .dramc => stalledRun (selfRefresh i s)
  | .dsi => if new == old then s else dsiEnable new s
  | .lvds => lvdsCheck s
  | .choir => if new then s else choirDisable s
  | .tdm => if new == old then s else tdmEnable i new s
  | .slink => linkEnable i old new s
  | .hymnal => hymnEnable old new s
  | _ => s

/-- The page goes into block reset (R75, R104). -/
def startReset (p : Nat) (s : State) : State :=
  if s.resetting.any (·.1 == p) then s else { s with resetting := s.resetting ++ [(p, [])] }

/-- BLK_CTRL written. -/
def ctrlFx (d : PageDesc) (p : Nat) (v : W32) (s : State) : State :=
  let old := enabled s p
  let a := hdr p Hdr.BLK_CTRL
  let t := wrB a 0 (fbit v 0) s
  if fbit v 1 then startReset p (wrB a 1 true t)
  else enableFx d.kind (p - d.base) old (fbit v 0) t

/-- DISCARD: every staged register's shadow takes the value in force (R70). -/
def stageDiscard (d : PageDesc) (p : Nat) (s : State) : State :=
  let offs := (List.range 128).map (0x800 + 4 * ·)
  let s := offs.foldl (fun s o => if (findReg (p - d.base) d.regs o).isSome
    then wr (shadow (p * 0x1000 + o)) (rd s (p * 0x1000 + o)) s else s) s
  wrB (hdr p Hdr.PAGE_STAGE) 0 false s

/-- An accepted write of a header register. -/
def headerFx (d : PageDesc) (p off : Nat) (r : RegDesc) (v : W32) (s : State) : State :=
  if off == Hdr.BLK_CTRL then ctrlFx d p v s
  else if off == Hdr.EVT_EN then putEvtEn p v s
  else if off == Hdr.EVT_SET then setEvts p v.toNat s
  else if off == Hdr.PAGE_STAGE then (if fbit v 1 then stageDiscard d p s else s)
  else wr (hdr p off) (storeWord r.flds (rd s (hdr p off)) v) s

/-! ## Effects of the blocks' registers -/

def tuneFx (off : Nat) (v : W32) (s : State) : State :=
  if off == 0x48 then tuneKey v.toNat s
  else if off == 0x4C then (if fbit v 0 then commitGo s else tuneLock s)
  else if off == 0x5C then bufWrite v s
  else s

/-- ROLL: the origin's cursor is its own (R94). -/
def rollFx (o off : Nat) (v : W32) (s : State) : State :=
  if off == 0x60 then putCursor o { cursorOf s o with seq := v.toNat }
    s
  else if off == 0x4C then
    let s := rollFillSync s
    if rdN s Rg.ROLL_FILL < 16128 then { s with roll := { s.roll with holding := false } } else s
  else s

/-- Pages that entries between two tails of the fault log name (R465). -/
def flogPages (s : State) (lo : Nat) (hi : Nat) : List Nat :=
  (List.range (min 16 (sub32 hi lo))).map fun i => rdF s (Rg.FAULT_FLOG + 32 * ((lo + i) % 16) + 8) 31 16

def faultFx (o off : Nat) (old v : W32) (s : State) : State :=
  if off == 0x44 then wr Rg.FAULT_CLASS_LOCK (w32 (b2n (fbit old 0 || fbit v 0))) s
  else if off == 0x48 then (if fbit v 2 then pinReleaseWrite s else s)
  else if off == 0x50 then raiseFault 14 Pg.FAULT (fld v 15 0) o s
  else if off == 0x58 then wdogKick o (fld v 15 0) s
  else if off == 0xC4 then faultStatSync (flogPages s old.toNat v.toNat) s
  else s

/-- KEY1 of Weevil holds. -/
def wvKeyed (s : State) : Bool := rdB s Rg.WEEVIL_STAT 3 && decide (linSub s < s.weevil.keyEnd)

/-- An accepted write of ARM (R499). -/
def armFx (v : W32) (s : State) : State :=
  let k := fld v 15 0
  let keyed := wvKeyed s
  let s := wrB Rg.WEEVIL_STAT 3 false s
  if k == 0x5745 then wrB Rg.WEEVIL_STAT 3 true { s with weevil := { s.weevil with keyEnd := linSub s + lines75 } }
  else if k == 0x564C && keyed then wvArm s
  else if k == 0 || !keyed then wrB Rg.WEEVIL_STAT 0 false s
  else s

/-- Weevil (R499, R506, R507): EN set clears the rule's record. -/
def weevilFx (off : Nat) (old v : W32) (s : State) : State :=
  if off == 0x44 then armFx v s
  else
    let s := wrB Rg.WEEVIL_STAT 3 false s
    if off == 0x48 then wvFire (fld v 7 0) s
    else if 0x100 ≤ off && off < 0x200 && off % 32 == 0 && fbit v 0 && !fbit old 0 then
      let r := (off - 0x100) / 32
      putWvRule r WvRule.reset (wr (Rg.WEEVIL_WV_HITS + 32 * r) 0 s)
    else s

def debugFx (o off : Nat) (v : W32) (s : State) : State :=
  if off == 0x44 then allowSet v s
  else if off == 0x48 then holdCtrl v s
  else if off == 0x80 then traceCtrl v s
  else if off == 0x8C then traceEvt 9 o v.toNat s
  else s

def timerFx (off : Nat) (v : W32) (s : State) : State :=
  if 0xC0 ≤ off && off < 0x100 then
    let c := (off - 0xC0) / 4
    let s := if fbit v 0 then timerSwReset c s else s
    if fbit v 1 then capture c false true s else s
  else if off == 0x200 then (if fbit v 0 then timerSnap s else s)
  else if 0x800 ≤ off && off < 0x940 then timerWritten off s
  else s

/-- The bits of a word, in ascending order, from a first number. -/
def bitsFrom (first : Nat) (v : W32) : List Nat := (List.range 32).filterMap fun i => if fbit v i then some (first + i) else none

def evcFx (o off : Nat) (v : W32) (s : State) : State :=
  if off == 0x40 then evTake (fld v 11 0) s
  else if off == 0x48 then (if evHeldBy s o (fld v 11 0) then evDone (fld v 11 0) s else s)
  else s

def evcsrcFx (i off : Nat) (old v : W32) (s : State) : State :=
  if 0x40 ≤ off && off < 0x80 then (bitsFrom (i * 512 + (off - 0x40) * 8) v).foldl (fun s n => evClear n s) s
  else if 0x80 ≤ off && off < 0xC0 then (bitsFrom (i * 512 + (off - 0x80) * 8) v).foldl (fun s n => evTake n s) s
  else if 0x400 ≤ off && off < 0x800 then
    let src := i * 512 + (off - 0x400) / 2
    wakeHarts (evCfgAfter (src + 1) (fld old 31 16) (evCfgAfter src (fld old 15 0) s))
  else s

/-- TEN_CFG: TEN_STAT.ENABLED follows ENABLE; entry 0 keeps ENABLE (R142, R143). -/
def sriovFx (off : Nat) (v : W32) (s : State) : State :=
  if 0x200 ≤ off && off < 0x304 then s
  else if 0x3F0 ≤ off && off % 16 == 12 then
    let n := (off - 0x3F0) / 16
    if n == 0 then wrB Rg.SRIOV_TEN_CFG 31 true s else wrB (Rg.SRIOV_TEN_STAT + 4 * n) 1 (fbit v 31) s
  else s

def poolFx (o off : Nat) (v : W32) (s : State) : State :=
  if off == 0x60 then swReq o (fld v 6 0) s
  else if off == 0x68 then freeBuf (fld v 22 16) (fld v 15 0) s
  else s

/-- INV_GO (R227). -/
def invGo (s : State) : State :=
  let va := rdN s Rg.MMU_INV_VA_LO / 0x1000 * 0x1000 + rdF s Rg.MMU_INV_VA_HI 15 0 * 0x100000000
  let s := markDying (rdF s Rg.MMU_INV_CTX 9 8) (rdF s Rg.MMU_INV_CTX 6 0) va (rdN s Rg.MMU_INV_COUNT) s
  wr Rg.MMU_INV_STAT 1 (bumpWrap Rg.MMU_INV_ISSUED s)

/-- LOAD.GO and LOAD.CANCEL (R267). -/
def loadFx (v : W32) (s : State) : State :=
  let s :=
    if fbit v 0 then
      let addr := rdN s Rg.CANTOR_SCORE_PA_LO + rdF s Rg.CANTOR_SCORE_PA_HI 15 0 * 0x100000000
      setLoadState 1 0 0 0 { s with cantor := { s.cantor with validating := some addr } }
    else s
  if fbit v 1 && rdF s Rg.CANTOR_LOAD_STAT 2 0 == 2 then
    setLoadState 0 0 0 0 { s with cantor := { s.cantor with armed := none } }
  else s

/-- A token queued for the start of a line (R278). -/
def tokenAt (i : Nat) (v : W32) (s : State) : State :=
  let l := rdF s (Rg.CANTOR_TOKEN_AT_LINE + i * 0x1000) 10 0
  let lin := (if l ≤ s.clk.line then s.clk.snum + 1 else s.clk.snum) * 1250 + l
  { s with cantor := { s.cantor with timed := s.cantor.timed ++ [⟨lin, v.toNat⟩] } }

def cantorFx (i off : Nat) (v : W32) (s : State) : State :=
  if off == 0x48 then loadFx v s
  else if off == 0xA0 then tokenAct v.toNat s
  else if off == 0xA8 then tokenAt i v s
  else s

def wingFx (h off : Nat) (v : W32) (s : State) : State :=
  if off == 0x84 then palWrite h Rg.WINGCASE_PAL_IDX v s
  else if off == 0x8C then palWrite h Rg.WINGCASE_LT_PAL_IDX v s
  else s

def camFx (p off : Nat) (v : W32) (s : State) : State :=
  if off == 0xC0 then freeSlot (4 * p + fld v 1 0) (fld v 7 4) s
  else if off == 0xC4 then outsSync s
  else s

def choirFx (o off : Nat) (v : W32) (s : State) : State :=
  if off == 0x40 then keyQueue o (fld v 4 0) s
  else if off == 0x44 then keyOff (fld v 3 0) s
  else s

def i3cFx (b off : Nat) (v : W32) (s : State) : State :=
  if off == 0x44 then putI3c b { i3cBus s b with fifo := fifoPush (i3cBus s b).fifo v } s
  else if off == 0x48 then (if fbit v 0 then i3cGo b s else s)
  else s

def spiFx (off : Nat) (v : W32) (s : State) : State :=
  if off == 0x48 || off == 0x68 then
    let k := (off - 0x48) / 32
    putSpi k { spiCtl s k with fifo := fifoPush (spiCtl s k).fifo v } s
  else if off == 0x4C || off == 0x6C then (if fbit v 0 then spiGo ((off - 0x4C) / 32) s else s)
  else if off == 0xC0 then (if fbit v 1 then { s with port := { s.port with publish := true } } else s)
  else s

def gpioFx (off : Nat) (v : W32) (s : State) : State :=
  if off == 0x48 then gpioSet v s
  else if off == 0x4C then gpioClr v s
  else pinsSync s

/-- LOCK_CTRL (R487, R489, R491). -/
def lockFx (v : W32) (s : State) : State :=
  let s := if fbit v 0 then lockCal s else s
  let s := if fbit v 1 then { s with link := { s.link with take := .armed } } else s
  if fbit v 2 then lockLoss 4 s else s

def slinkFx (o off : Nat) (v : W32) (s : State) : State :=
  let (d, a) := rwOf s o
  if off == 0x80 then putRw o (fld v 2 0, a) s
  else if off == 0x84 then putRw o (d, setBits a 31 0 v.toNat) s
  else if off == 0x88 then putRw o (d, setBits a 47 32 (fld v 15 0)) s
  else if off == 0x8C then rwSend o v s
  else if off == 0x94 then evSend (fld v 6 0) s
  else if off == 0xA0 then lockFx v s
  else s

/-- Ring registers: a write of MOD or a new VECTOR fires an open window first (R177 to R179). -/
def ringFx (r k : Nat) (old v : W32) (s : State) : State :=
  if k == 0x14 then
    let s := if fbit v 0 && !fbit old 0 then ringEnable r s
      else if !fbit v 0 && fbit old 0 then ringDisable r s
      else s
    if fbit v 1 then ringReset r s else s
  else s

/-- Effects that come before the register takes the value. -/
def beforeFx (d : PageDesc) (p off : Nat) (old v : W32) (s : State) : State :=
  match d.kind with
  | .ringstate =>
    let (r, k) := ringAt p off
    if k == 0x18 || (k == 0x14 && fld v 16 8 != fld old 16 8) then
      (if (modOf s r).p == 0 then s else fire r s)
    else s
  | _ => s

/-- Effects once the register's writable fields hold the value; old is what it held before. -/
def pageFx (q : Req) (d : PageDesc) (p off : Nat) (old v : W32) (s : State) : State :=
  let i := p - d.base
  let o := q.origin
  match d.kind with
  | .guard =>
    if off == 0x40 then guardReset v s
    else if off == 0x54 then otpStart v s
    else s
  | .tune => tuneFx off v s
  | .roll => rollFx o off v s
  | .auth => if off == 0x40 then wr Rg.AUTH_LOCK (old ||| (v &&& 3)) s else s
  | .safety => if off == 0x40 then fenceUnit (fld v 7 0) s else s
  | .agewatch =>
    if off == 0x48 then (if fld (rd s (Rg.AGEWATCH_AW_CFG + 4 * fld v 7 0)) 2 0 == 4 then feedWatch (fld v 7 0) s else s)
    else if 0x400 ≤ off && off < 0x800 then awCfgAfter ((off - 0x400) / 4) s
    else s
  | .fault => faultFx o off old v s
  | .weevil => weevilFx off old v s
  | .debug => debugFx o off v s
  | .hart => if off == 0x48 then (if fbit v 0 then unisonRestart i s else s) else s
  | .stave => if off == 0x58 then (if fbit v 0 then wrB Rg.STAVE_STAT 2 true s else s) else s
  | .clock => if off == 0x48 then { s with clk := { s.clk with head1Due := true } } else s
  | .timer => timerFx off v s
  | .evc => evcFx o off v s
  | .evcsrc => evcsrcFx i off old v s
  | .sriov => sriovFx off v s
  | .pool => poolFx o off v s
  | .hymnal => if off == 0xC04 then wrB Rg.HYMNAL_REC_MASK 0 true s else s
  | .mmu => if off == 0x50 then (if fbit v 0 then invGo s else s) else s
  | .cantor => cantorFx i off v s
  | .llc => if off == 0x40 then wr (Rg.LLC_NRC_INV + i * 0x1000) (old ||| (v &&& 0xFFFF)) s else s
  | .dramc => if off == 0x64 then putScrub i s.clk.staves false s else s
  | .wingcase => wingFx i off v s
  | .dsi => if off == 0x58 then (if fbit v 0 then dsiGenGo s else s) else if off == 0xC00 then dsiRateCheck s else s
  | .lvds => lvdsCheck s
  | .cam => camFx i off v s
  | .choir => choirFx o off v s
  | .choirxp => if off == 0x44 then xpNode v s else s
  | .i3c => i3cFx i off v s
  | .spi => spiFx off v s
  | .gpio => gpioFx off v s
  | .slink => slinkFx o off v s
  | .ringstate => let (r, k) := ringAt p off; ringFx r k old v s
  | .tenant => if off == 0x5C && 0x400 < p then raiseSrc (0x800 + 4 * (p - 0x401) + fld v 1 0) s else s
  | _ => s

/-- An accepted write to TUNE breaks the unlock sequence, but for its own steps and the data ports (R120). -/
def tuneBreak (d : PageDesc) (isHdr : Bool) (off : Nat) (dp : Bool) (s : State) : State :=
  if d.kind == .tune && (isHdr || !(dp || off == 0x48 || off == 0x4C)) then tuneLock s else s

/-- An accepted write to Weevil's page clears KEY1 (R499). -/
def keyBreak (d : PageDesc) (isHdr : Bool) (s : State) : State :=
  if d.kind == .weevil && isHdr then wrB Rg.WEEVIL_STAT 3 false s else s

/-- An accepted write takes effect: q at key a, a register r of page p. -/
def writeFx (q : Req) (d : PageDesc) (p off : Nat) (isHdr : Bool) (r : RegDesc) (v : W32) (s : State) : State :=
  let s := keyBreak d isHdr (tuneBreak d isHdr off r.dp s)
  if isHdr then headerFx d p off r v s
  else
    let a := p * 0x1000 + off
    if d.staged && 0x800 ≤ off && off < 0xA00 then
      let s := wr (shadow a) (storeWord r.flds (rd s (shadow a)) v) s
      pageFx q d p off 0 v (wrB (hdr p Hdr.PAGE_STAGE) 0 true s)
    else
      let old := rd s a
      let s := beforeFx d p off old v s
      let s := if regVirtual d.kind off || !regStores r then s else wr a (storeWord r.flds old v) s
      pageFx q d p off old v s

end Sys2Proof.Machine
end

