-- ==== Sys2Proof/Machine/Write.lean ====
section
/-! DEFINITION. A register write from its arrival to its end (R54 to R58, R61 to R66, R76 to R92, R104, R150 to R152): the
place it names, the verdict, the change-roll entry, places on an edge, writes held, and writes of the host. -/
namespace Sys2Proof.Machine

/-! ## Where a write lands -/

/-- What a write reaches: a register of a listed page or of an unlisted one, a doorbell, the reserved space, or a part
of VF BAR0 that refuses it with a reason. -/
inductive WTarget where
  | page (p off : Nat) (isHdr : Bool)
  | unlisted (p off : Nat)
  | door (r off : Nat)
  | hole
  | vfBad (reason : Nat)
  deriving DecidableEq, Repr

/-- A write's target, and what its roll entry names it by: PAGE, OFFSET, and the page whose PAGE_WDROP counts its
refusal (R57, R61, R86). -/
structure Dest where
  tgt : WTarget
  page : Nat
  off : Nat
  drop : Option Nat
  deriving DecidableEq, Repr

/-- A register-space offset (R54, R62). -/
def spaceDest (a : Nat) : Dest :=
  let a := a / 4 * 4
  if a < 0x200000 then
    let p := a / 0x1000
    let off := a % 0x1000
    if (pageDesc p).isNone then ⟨.unlisted p off, p, off, none⟩
    else ⟨.page p off (!isRingPage p && off < 0x40), p, off, some p⟩
  else if a < 0x220000 then ⟨.door ((a - 0x200000) / 8) (a % 8), 0x200, a % 0x1000, none⟩
  else if a < 0x224000 then
    let p := 0x100 + (a - 0x220000) / 64
    ⟨.page p (a % 64) true, 0x201, a % 0x1000, some p⟩
  else ⟨.hole, 0x202, a % 0x1000, none⟩

/-- An offset of VF n's BAR0 (R56, R57). -/
def vfDest (s : State) (n a : Nat) : Dest :=
  let a := a / 4 * 4
  let p := 0x400 + n
  let t :=
    if a < 0x1000 then WTarget.page p a (a < 0x40)
    else if a < 0x9000 then
      let i := (a - 0x1000) / 8
      if i < tenAssigned s n then .door (tenBase s n + i) (a % 8) else .vfBad 11
    else if 0x40000 ≤ a && a < 0x80000 then (if (a - 0x40000) / 64 < tenAssigned s n then .vfBad 7 else .vfBad 11)
    else .vfBad 11
  ⟨t, 0x021, a % 0x1000, some p⟩

def destOf (s : State) : Place → Dest
  | .space off => spaceDest off
  | .dev off => spaceDest off
  | .vfBar n off => vfDest s n off
  | .cfg _ _ => ⟨.hole, 0x202, 0, none⟩
  | .msix _ _ => ⟨.hole, 0x202, 0, none⟩

/-- The page that a write holds, or is held by. -/
def Dest.pageKey (d : Dest) : Option Nat :=
  match d.tgt with
  | .page p _ _ => some p
  | .unlisted p _ => some p
  | _ => none

/-! ## Authority (R76 to R82, R109) -/

/-- AUX of a write (R76). -/
def auxOf (q : Req) : Nat := if q.origin == 0x49 || q.origin == 0x4A then q.aux % 256 else 0

/-- PAGE_WMASK and PAGE_OWNER of a page allow an origin (R78). -/
def classOk (s : State) (p o : Nat) : Bool :=
  let m := rdN s (hdr p Hdr.PAGE_WMASK)
  if o == 0 then true
  else if o ≤ 0x40 then bit m 6 && rdF s (hdr p Hdr.PAGE_OWNER) 7 0 == o
  else if o == 0x41 then bit m 0
  else if isMain o then bit m 1
  else if o == 0x48 then bit m 2
  else if o == 0x49 then bit m 3
  else if o == 0x4B then bit m 5
  else false

/-- PAGE_OWNER or PAGE_WMASK. -/
def ownerReg (isHdr : Bool) (off : Nat) : Bool := isHdr && (off == Hdr.PAGE_OWNER || off == Hdr.PAGE_WMASK)

/-- Offsets of its own control page that R81 withholds from a tenant: registers marked read only. -/
def tenantClosed (off : Nat) : Bool :=
  match findReg 0 regsTenant off with
  | some r => r.flds.all (fun f => f.acc == .ro)
  | none => false

/-- The origin may write the register (R78, R79, R81, R109). -/
def authorised (s : State) (q : Req) (p off : Nat) (isHdr : Bool) : Bool :=
  let o := q.origin
  if ownerReg isHdr off && !isTenantPage p then
    let w := rdF s (hdr p Hdr.PAGE_OWNER) 7 0
    isMain o || (o == 0x41 && 1 ≤ w && w ≤ 0x41)
  else if isTenantPage p then o == p - 0x400 && !isHdr && !tenantClosed off
  else if o == 0x42 then beforeS6 s
  else if o == 0x4A then rdB s (hdr p Hdr.PAGE_WMASK) 4 && classOk s p (auxOf q)
  else classOk s p o

/-! ## The register named -/

/-- The register at an offset of a page. -/
def regNamed (d : PageDesc) (p off : Nat) (isHdr : Bool) : Option RegDesc :=
  if isHdr then
    match findReg 0 regsHeader off with
    | some r => some r
    | none => if d.staged then findReg 0 regsHeaderStaged off else none
  else findReg (p - d.base) d.regs off

/-- The offset lies in the shadow readback window and a staged register stands behind it (R59). -/
def isShadow (d : PageDesc) (p off : Nat) (isHdr : Bool) : Bool :=
  !isHdr && d.staged && 0xA00 ≤ off && off < 0xC00 && (findReg (p - d.base) d.regs (off - 0x200)).isSome

/-- The offset lies in the staged window of a page that uses it. -/
def inStaged (d : PageDesc) (off : Nat) (isHdr : Bool) : Bool := !isHdr && d.staged && 0x800 ≤ off && off < 0xA00

/-- Some field of the register is writable (R63), but for what R141, R374 and R495 make read only here. -/
def regWritable (s : State) (d : PageDesc) (p off : Nat) (isHdr : Bool) (r : RegDesc) : Bool :=
  r.flds.any (fun f => f.acc != .ro && f.acc != .rc && f.acc != .rl)
    && (isHdr || match d.kind with
      | .sriov => off != 0x3F0
      | .wingcase => !(off == 0x80C && p == d.base)
      | .hymnal => !(off == 0x44 && !rdB s Rg.HYMNAL_CFG 0) && !(off == 0x48 && rdB s Rg.HYMNAL_CFG 0)
      | _ => true)

/-- R448's data ports, which the register tables do not mark. -/
def sidePort (d : PageDesc) (off : Nat) : Bool :=
  match d.kind with
  | .gpio => off == 0x44 || off == 0x48 || off == 0x4C
  | .eth => off == 0x48 || (0x80 ≤ off && off < 0xA0)
  | .i3c => off == 0x44 || off == 0x48
  | .spi => off == 0x48 || off == 0x4C || off == 0x68 || off == 0x6C || (0x180 ≤ off && off < 0x200)
  | _ => false

/-- An accepted write of the register is a configuration change (R85). -/
def isConfig (o : Nat) (d : PageDesc) (off : Nat) (isHdr : Bool) (r : RegDesc) : Bool :=
  o != 0 && !r.dp && (isHdr || !sidePort d off)
    && r.flds.any (fun f => f.acc == .rw || f.acc == .rh || f.acc == .wo || f.acc == .w1s)

/-! ## The verdict (R63, R87) -/

/-- HOLD mode refuses configuration changes (R91). -/
def rollHolds (s : State) : Bool :=
  rdB s Rg.ROLL_CTRL 0 && 16128 ≤ sub32 (rdN s Rg.ROLL_NEXT_SEQ) (rdN s Rg.ROLL_TAIL_SEQ)

/-- A header that R84 locks. -/
def hdrLocked (s : State) (d : PageDesc) : Bool := rdB s Rg.AUTH_LOCK 1 || (rdB s Rg.AUTH_LOCK 0 && d.guardDie)

/-- The reason for which a register write is refused, by the first row of R63 that applies, then VALUE, HOLD, LOCKED. -/
def pageVerdict (s : State) (q : Req) (p off : Nat) (isHdr : Bool) (v : W32) : Option Nat :=
  match pageDesc p with
  | none => some 2
  | some d =>
    if !present s.member p then some 1
    else if beforeS6 s && !(q.origin == 0x42 || q.origin == 0 || p == Pg.BOOT) then some 3
    else if q.be % 16 != 15 then some 4
    else if !authorised s q p off isHdr then some 5
    else if isShadow d p off isHdr then some 7
    else match regNamed d p off isHdr with
      | none => some 6
      | some r =>
        let a := if isHdr then hdr p off else p * 0x1000 + off
        let cur := if inStaged d off isHdr then rd s (shadow a) else view s q.origin a
        if !regWritable s d p off isHdr r then some 7
        else if !isHdr && d.fixed && 0xC00 ≤ off && off < 0xE00 && (enabled s p || blkBusy s p) then some 8
        else if !(if isHdr then hdrOk d p off v s else valueOk q d p off v s && rhOk q.origin r cur v) then some 9
        else if isConfig q.origin d off isHdr r && rollHolds s && !(p == Pg.ROLL && isMain q.origin) then some 10
        else if ownerReg isHdr off && hdrLocked s d then some 12
        else none

/-- Doorbell window origins (R152). -/
def doorOrigin (o : Nat) : Bool := o == 0x41 || isMain o || o == 0x4A

/-- The reason for which a doorbell is refused, and the half that it names (R58, R150 to R152); vf says that it came
through a VF BAR0. The write carries a tail, a head, or both. -/
def doorVerdict (s : State) (q : Req) (vf : Bool) (r : Nat) (tail head : Option W32) : Option (Nat × Bool) :=
  let both := tail.isSome && head.isSome
  let hiOnly := tail.isNone
  let full := if both then q.be == 255 else q.be == 15
  if beforeS6 s then some (3, hiOnly)
  else if !vf && nRings s.member ≤ r then some (1, hiOnly)
  else if !full then some (4, hiOnly || (both && q.be % 16 == 15))
  else if !vf && !doorOrigin q.origin then some (5, hiOnly)
  else if !ringOpen s r then some (9, hiOnly)
  else
    let bad1 := match tail with
      | some v => !doorTailOk s r v
      | none => false
    let bad2 := match head with
      | some v => !doorHeadOk s r v
      | none => false
    if bad1 then some (9, false) else if bad2 then some (9, true) else none

/-- The reason for which a write is refused, doorbells taken as 32-bit ones. -/
def verdict (s : State) (q : Req) (d : Dest) (v : W32) : Option Nat :=
  match d.tgt with
  | .page p off isHdr => pageVerdict s q p off isHdr v
  | .unlisted _ _ => some 2
  | .hole => if beforeS6 s then some 3 else some 6
  | .vfBad r => if beforeS6 s then some 3 else if q.be % 16 != 15 then some 4 else some r
  | .door r off =>
    (doorVerdict s q d.drop.isSome r (if off == 0 then some v else none) (if off == 0 then none else some v)).map (·.1)

/-! ## Entries -/

/-- The value that a refused write's entry shows as OLD (R86). -/
def refusedOld (s : State) (q : Req) (d : Dest) : W32 :=
  match d.tgt with
  | .page p off isHdr =>
    match pageDesc p with
    | none => 0
    | some x =>
      if !present s.member p then 0
      else
        let a := if isHdr then hdr p off else p * 0x1000 + off
        if (regNamed x p off isHdr).isNone && !isShadow x p off isHdr then 0
        else if inStaged x off isHdr then rd s (shadow a)
        else view s q.origin a
  | .door r off => if nRings s.member ≤ r then 0 else if off == 0 then rd s (ringSqTail r) else rd s (ringCqHead r)
  | _ => 0

/-- The entry names a staged register (R86). -/
def destStaged (d : Dest) : Bool :=
  match d.tgt with
  | .page p off isHdr => (match pageDesc p with | some x => inStaged x off isHdr | none => false)
  | _ => false

/-- A refusal counted and entered in the roll, and shown by AUTH (R57, R61, R63, R65, R86, R87). -/
def refuse (q : Req) (d : Dest) (reason : Nat) (old v : W32) (s : State) : State :=
  let early := beforeS6 s
  let s := if early then bump Rg.BOOT_DROPS s else
    match d.drop with
    | some p => bump (hdr p Hdr.PAGE_WDROP) s
    | none => s
  let count := if early then rd s Rg.BOOT_DROPS
    else if 0x200 ≤ d.page && d.page ≤ 0x202 then 0
    else match d.drop with
      | some p => rd s (hdr p Hdr.PAGE_WDROP)
      | none => 0
  let s := rollPut { stime := stimePer s, origin := q.origin, aux := auxOf q, page := d.page, off := d.off, refused := true,
                     boot := early, replay := q.origin == 0x4A, hw := q.origin == 0, staged := destStaged d,
                     be := q.be % 16, reason := reason, old := old, new := v, rseq := 0, count := count } s
  let s := wr Rg.AUTH_LAST_REFUSED (w32 (q.origin + reason * 0x100 + d.page * 0x1000)) s
  let s := if reason == 5 then setEvt Pg.AUTH 0 s else if reason == 12 then setEvt Pg.AUTH 1 s else s
  if reason == 10 && !s.roll.holding then
    setEvt Pg.ROLL 1 { s with roll := { s.roll with holding := true } }
  else s

/-- What a refusal for its VALUE leaves behind, where a chapter says so (R120, R205, R413). -/
def refusedFx (q : Req) (d : Dest) (reason : Nat) (s : State) : State :=
  match d.tgt with
  | .page p off false =>
    if reason != 9 then s
    else if p == Pg.TUNE && off == 0x4C then tuneLock s
    else if p == Pg.EVC && off == 0x48 && isMain q.origin then setEvt Pg.EVC 1 s
    else if p == Pg.CHOIRXP && off == 0x44 then xpNext s
    else s
  | _ => s

/-- The effect comes before the entry where it may itself make entries on its page, or governs the entry (R88, R93). -/
def fxFirst (k : Kind) : Bool :=
  match k with
  | .roll | .slink | .eth | .cam | .streamgrp => true
  | _ => false

/-- The value that an accepted write gives a register: PF0's TEN_CFG keeps ENABLE (R143). -/
def acceptVal (p off : Nat) (isHdr : Bool) (v : W32) : W32 :=
  if p * 0x1000 + off == Rg.SRIOV_TEN_CFG && !isHdr then v ||| 0x80000000 else v

/-- The entry of an accepted write, but for its place and count (R85, R86, R554). -/
def acceptEntry (q : Req) (d : Dest) (x : PageDesc) (p off : Nat) (isHdr : Bool) (r : RegDesc) (v : W32) (s : State) : RollEntry :=
  let a := if isHdr then hdr p off else p * 0x1000 + off
  let cur := if inStaged x off isHdr then rd s (shadow a) else view s q.origin a
  let e : RollEntry :=
    { stime := stimePer s, origin := q.origin, aux := auxOf q, page := d.page, off := d.off, refused := false,
      boot := beforeS6 s, replay := q.origin == 0x4A, hw := false, staged := inStaged x off isHdr, be := q.be % 16,
      reason := 0, old := rollOld r.flds cur, new := rollNew r.flds cur v, rseq := 0, count := 0 }
  if a == Rg.GUARD_OTP_PROG then { e with old := view s q.origin Rg.GUARD_OTP_DATA, new := view s q.origin Rg.GUARD_OTP_DATA ||| v } else e

/-- An accepted write counted by its page and entered in the roll (R65, R85). -/
def enterRoll (d : Dest) (p : Nat) (e : RollEntry) (s : State) : State :=
  let s := bumpWrap (hdr p Hdr.PAGE_WSEQ) s
  rollPut { e with count := if d.page == 0x201 then 0 else rd s (hdr p Hdr.PAGE_WSEQ) } s

/-- An accepted write of a register (R63, R64, R85, R554). -/
def acceptReg (q : Req) (d : Dest) (x : PageDesc) (p off : Nat) (isHdr : Bool) (r : RegDesc) (w : W32) (s : State) : State :=
  let v := acceptVal p off isHdr w
  if !isConfig q.origin x off isHdr r then writeFx q x p off isHdr r v s
  else
    let e := acceptEntry q d x p off isHdr r v s
    if fxFirst x.kind then enterRoll d p e (writeFx q x p off isHdr r v s)
    else writeFx q x p off isHdr r v (enterRoll d p e s)

/-- A write that has reached its page is accepted or refused. -/
def writeNow (q : Req) (d : Dest) (v : W32) (s : State) : Bool × State :=
  match verdict s q d v with
  | some reason => (false, refusedFx q d reason (refuse q d reason (refusedOld s q d) v s))
  | none =>
    match d.tgt with
    | .page p off isHdr =>
      match pageDesc p with
      | none => (false, s)
      | some x =>
        match regNamed x p off isHdr with
        | none => (false, s)
        | some r => (true, acceptReg q d x p off isHdr r v s)
    | .door r off => (true, if off == 0 then doorTail r v s else doorHead r v s)
    | _ => (false, s)

/-! ## Places on an edge, and held writes (R66, R88, R104) -/

/-- The write's outcome makes a roll entry. -/
def makesEntry (s : State) (q : Req) (d : Dest) (v : W32) : Bool :=
  (verdict s q d v).isSome ||
    match d.tgt with
    | .page p off isHdr =>
      (match pageDesc p with
        | none => true
        | some x =>
          match regNamed x p off isHdr with
          | none => true
          | some r => isConfig q.origin x off isHdr r)
    | _ => false

/-- An accepted write of the host or of the debugger, as the Hymnal records it (R492): PF0 BAR0, a VF BAR0, or the
register space. -/
def inputRec (q : Req) (p : Place) (l : List Byte) (s : State) : State :=
  match p with
  | .space off =>
    if q.origin == 0x41 then hymnRec hyHostWrite 0 off l s
    else if q.origin == 0x48 then hymnRec hyDebug 0 off l s
    else s
  | .vfBar n off => if q.origin == n then hymnRec hyHostWrite n off l s else s
  | _ => s

/-- A held write of the same page comes before this one. -/
def pageHeld (s : State) (k : Option Nat) : Bool :=
  k.isSome && s.roll.held.any fun h => (destOf s h.place).pageKey == k

/-- A write arrives at its page: held behind a block reset, or for a place on a later edge, or performed. -/
def writePlace (q : Req) (p : Place) (v : W32) (s : State) : State :=
  let d := destOf s p
  let h : HeldWrite := ⟨q, p, v⟩
  match s.resetting.find? fun x => some x.1 == d.pageKey with
  | some x =>
    { s with resetting := s.resetting.map fun y => if y.1 == x.1 then (y.1, y.2 ++ [h]) else y }
  | none =>
    if pageHeld s d.pageKey || (8 ≤ s.roll.edgeN && d.pageKey.isSome && makesEntry s q d v) then
      { s with roll := { s.roll with held := s.roll.held ++ [h] } }
    else
      let (ok, s) := writeNow q d v s
      if ok then inputRec q p (toLE 4 v.toNat) s else s

/-- A later PERCLK and FABCLK edge: the roll as readers see it, and room for entries, raises and trace entries. -/
def edgeBegin (s : State) : State :=
  let s := fabEdge s
  { s with roll := { s.roll with edgeN := 0, edgeNext := rdN s Rg.ROLL_NEXT_SEQ, edgeOldest := rdN s Rg.ROLL_OLDEST_SEQ } }

/-- Held writes take places in their order (R88). -/
def heldRun (s : State) : State :=
  let l := s.roll.held
  l.foldl (fun s h => writePlace h.req h.place h.val s) { s with roll := { s.roll with held := [] } }

/-- A new edge: held writes take their places first. -/
def newEdge (s : State) : State := heldRun (edgeBegin s)

/-- The edge of a command: a new one unless the command shares the edge of the one before it. -/
def edgeOf (same : Bool) (s : State) : State := if same then s else newEdge s

/-- A 64-bit doorbell (R58, R151). -/
def doorBoth (q : Req) (p : Place) (tail head : W32) (s : State) : State :=
  let d := destOf s p
  match d.tgt with
  | .door r _ =>
    match doorVerdict s q d.drop.isSome r (some tail) (some head) with
    | some (reason, hi) =>
      let d2 : Dest := { d with off := d.off / 8 * 8 + (if hi then 4 else 0), tgt := .door r (if hi then 4 else 0) }
      let be := if hi then q.be / 16 else q.be
      refuse { q with be := be } d2 reason (refusedOld s q d2) (if hi then head else tail) s
    | none => inputRec q p (toLE 4 tail.toNat ++ toLE 4 head.toNat) (doorHead r head (doorTail r tail s))
  | _ => writePlace { q with be := q.be / 16 } (match p with
      | .vfBar n off => .vfBar n (off + 4)
      | .space off => .space (off + 4)
      | .dev off => .dev (off + 4)
      | x => x) head (writePlace { q with be := q.be % 16 } p tail s)

/-! ## Writes of the device itself -/

/-- Register writes that units have issued through register-space mappings reach their pages, each on an edge of its
own (R55, R222). -/
def drainOne (s : State) (w : RegWr) : State :=
  let s := newEdge { s with link := { s.link with curJob := w.job } }
  let s := writePlace { origin := w.origin, aux := w.aux, be := w.be } (.dev w.off) w.val s
  { s with link := { s.link with curJob := none } }

def drainRegs (s : State) : State := s.regq.foldl drainOne { s with regq := [] }

/-- Values that mirror others: FILL, the boot record's defaults, the clock, the hold and the lock (R28, R95, R106,
R118, R491, R519). -/
def mirrors (s : State) : State :=
  let s := rollFillSync s
  let s := wrB Rg.BOOT_STAT 19 (rdB s Rg.TUNE_STAT 1) s
  let s := wrB Rg.STAVE_STAT 0 s.clk.running s
  let s := wrB Rg.STAVE_STAT 1 (rdB s Rg.SLINK_LOCK_STAT 1) s
  wrB Rg.STAVE_STAT 3 (rdB s Rg.DEBUG_HOLD_STAT 1) s

/-- The end of every command: records are written in order, issued register writes land, the host's answer is used up,
and mirrored values agree. -/
def finish (s : State) : State :=
  let s := settle (drainRegs (settle s))
  mirrors { s with host := { s.host with answer := [], answerFail := false } }

/-! ## Writes of the host (R77, R127, R180, R492, R496, R501) -/

/-- A function of the host answers memory requests: the link is up, the function exists and is in D0. -/
def fnAnswers (s : State) (f : Nat) : Bool := dlUp s && tenExists s f && !(fnCfg s f).d3

/-- A function of the host in D3hot, behind a link that is up: what reaches its BARs is discarded or reads 0 (R136). -/
def fnAsleep (s : State) (f : Nat) : Bool := dlUp s && tenExists s f && (fnCfg s f).d3

/-- What the link does for an access that its function discards (R136). -/
def fnDrops (f : Nat) (s : State) : State := if fnAsleep s f then linkToL0 s else s

/-- A host write to a BAR0 meets PCIE_RX, then its page; its data may change on the way. -/
def hostWrite (q : Req) (p : Place) (v : W32) (s : State) : State :=
  pcieRx (toLE 4 v.toNat) (fun l => some (.reg q p (w32 (leAt l 0 4))))
    (fun l s => liveInput hyHostWrite (writePlace q p (w32 (leAt l 0 4))) s) s

/-- A register write of any origin, by the way that its place and origin give it. -/
def anyWrite (q : Req) (p : Place) (v : W32) (s : State) : State :=
  match p with
  | .cfg f off => cfgArrive (.write f off v) s
  | .msix f off => cfgArrive (.msix f off v) s
  | .vfBar n _ =>
    if q.origin == n then (if 1 ≤ n && fnAnswers s n then hostWrite q p v s else fnDrops n s) else writePlace q p v s
  | .space _ =>
    if q.origin == 0x41 then (if fnAnswers s 0 then hostWrite q p v s else fnDrops 0 s)
    else if q.origin == 0x48 then liveInput hyDebug (writePlace q p v) s
    else writePlace q p v s
  | .dev _ => writePlace q p v s

/-- Origins that occur in a command: not the device itself, 0x43, or one above 0x4B (R76). -/
def cmdOrigin (o : Nat) : Bool := 1 ≤ o && o ≤ 0x4B && o != 0x43

/-- A register-write command, from its edge to its end. -/
def writeCmd (q : Req) (p : Place) (v : W32) (s : State) : State :=
  if cmdOrigin q.origin then finish (anyWrite q p v (edgeOf q.same s)) else s

/-- A write command of a register-space offset. -/
def regCmd (q : Req) (off : Nat) (v : W32) (s : State) : State := writeCmd q (.space off) v s

/-- A register-space read reaches its page: PF0 answers the host's (R77, R136); a VF has no way there (R56). -/
def readReaches (s : State) (o : Nat) : Bool := if o == 0x41 then fnAnswers s 0 else cmdOrigin o && 0x41 < o

/-- A register-read command; a function in D3hot answers 0 (R136). -/
def readCmd (o off : Nat) (same : Bool) (s : State) : State :=
  let s := edgeOf same s
  finish (if readReaches s o then answer o (regRead o off (if o == 0x41 then linkToL0 s else s))
    else if o == 0x41 && fnAsleep s 0 then answer o (0, linkToL0 s)
    else s)

/-- A read of NOW_LO of VF n's tenant control page (R36, R56). -/
def tenantNowRead (n : Nat) (s : State) : State :=
  let s := newEdge s
  finish (if 1 ≤ n && n ≤ 64 && fnAnswers s n then
      let s := linkToL0 s
      answer n (if readVisible s n (0x400 + n) 0x54 false then readNow n s else (0, s))
    else if 1 ≤ n && fnAsleep s n then answer n (0, linkToL0 s)
    else s)

end Sys2Proof.Machine
end

