-- ==== Sys2Proof/Machine/BlockReset.lean ====
section
/-! DEFINITION. Block reset (R70, R75, R104 and the chapters that say what a reset of their block does). -/
namespace Sys2Proof.Machine

/-- What a block reset leaves of a stored register of a page; none means its reset value (R104). -/
def resetWord (k : Kind) (i off : Nat) (v : W32) : Option W32 :=
  match k with
  | .guard => if off == 0x44 then some (v &&& 7) else none
  | .boot => if off < 0x50 then some v else none
  | .tune => if off == 0x40 then some (setFld (setFld v 7 7 0) 5 4 0) else if off == 0x44 then some v else none
  | .roll => some v
  | .auth => if off == 0x40 then some v else none
  | .fault =>
    if off == 0x40 || off == 0x44 || off == 0x54 then some v
    else if off == 0x48 then some (v &&& 1)
    else none
  | .weevil => if off == 0x40 then some (v &&& 7) else none
  | .debug => if off == 0x50 then some (v &&& 2) else none
  | .hart => if off == 0x40 then some v else none
  | .stave => if off == 0x4C then some (setFld v 2 2 0) else none
  | .clock => if off == 0x44 || off == 0x4C then some v else none
  | .evc => if 0x50 ≤ off && off < 0x60 then some v else none
  | .host => if off == 0x40 then some v else if off == 0x4C then some (w32 (fld v 9 0 * 0x10001)) else none
  | .sriov =>
    if off == 0x40 then some v
    else if 0x200 ≤ off && off < 0x304 then some (setFld (setFld v 4 4 0) 1 1 (b2n (off == 0x200)))
    else none
  | .cantor => if off == 0x54 || off == 0x58 || off == 0x60 then some v else none
  | .bridge => if off == 0x40 then some v else none
  | .dramc =>
    if off == 0x40 then some (setFld v 2 2 1) else if off == 0x48 || off == 0x4C then some v else none
  | .chafer => if off == 0x44 then some v else none
  | .wingcase => if off == 0x40 then some v else none
  | .gpio => if off == 0x40 then some v else none
  | .eth => if off == 0x40 then some v else none
  | .cam => if off == 0x40 || (i ≤ 7 && 0x60 ≤ off && off < 0x70) then some (w32 (b2n (fbit v 0))) else none
  | _ => none

/-- The registers of a page take their reset values, but for what is kept. -/
def resetRegs (d : PageDesc) (p : Nat) (s : State) : State :=
  let lo := p * 0x1000 + (if isRingPage p then 0 else 0x40)
  let hi := p * 0x1000 + 0x1000
  let mine := s.regs.filter fun x => lo ≤ x.1 && x.1 < hi
  let kept := mine.filterMap fun x => (resetWord d.kind (p - d.base) (x.1 - p * 0x1000) x.2).map fun v => (x.1, v)
  let s := { s with regs := s.regs.filter fun x => !(lo ≤ x.1 && x.1 < hi) }
  kept.foldl (fun s x => wr x.1 x.2 s) s

/-- The header registers that a block reset changes (R75). -/
def resetHdr (p : Nat) (s : State) : State :=
  let s := wr (hdr p Hdr.EVT_STAT) 0 (wr (hdr p Hdr.BLK_CTRL) 0 s)
  let s := wrB (hdr p Hdr.PAGE_STAGE) 0 false s
  wrB (hdr p Hdr.BLK_STAT) 1 false s

/-- Invocations of the rings of a RINGSTATE page end, and the rings hold nothing any more. -/
def ringPageStop (p : Nat) (s : State) : State :=
  let mine := fun (r : Nat) => (p - 0x100) * 64 ≤ r && r < (p - 0x100) * 64 + 64
  let ks := (s.cantor.jobs.filter fun j => match j.2.inv with | some v => mine v.ring | none => false).map (·.1)
  let s := settle (ks.foldl (fun s k => jobEnd k 0x0601 0 0xFF 0 s) s)
  { s with adm := { s.adm with
      queued := s.adm.queued.filter (fun x => !mine x.1), mods := s.adm.mods.filter (fun x => !mine x.1)
      fetches := s.adm.fetches.filter (fun f => !mine f.ring), marks := s.adm.marks.filter (fun m => !mine m.ring)
      disabling := s.adm.disabling.filter (fun r => !mine r), fires := s.adm.fires.filter (fun r => !mine r)
      held := s.adm.held.filter (fun c => !mine c.ring) } }

/-- Jobs of a half end; instance 0's load is abandoned. -/
def cantorStop (h : Nat) (s : State) : State :=
  let ks := (s.cantor.jobs.filter fun j => keyHalf j.1 == h).map (·.1)
  let s := ks.foldl (fun s k => jobEnd k 0x0601 0 0xFF 0 s) s
  let c := s.cantor
  let s := { s with cantor := { c with
    ready := c.ready.filter (·.half != h), delay1 := c.delay1.filter (·.half != h)
    timed := c.timed.filter (fun t => bits t.tok 12 12 != h), tokens := c.tokens.filter (fun t => bits t 12 12 != h)
    slots := c.slots.filter (fun x => x.1 / 4096 != h) } }
  if h == 0 then { s with cantor := { s.cantor with validating := none, armed := none } } else s

/-- What a block abandons or returns to its reset state beside its registers. -/
def blockStop (k : Kind) (i : Nat) (s : State) : State :=
  match k with
  | .guard => otpDone { s with cantor := { s.cantor with resetDue := false } }
  | .tune => tuneLock s
  | .safety => { s with safety := { s.safety with sigs := [] } }
  | .agewatch => { s with safety := { s.safety with watch := [] } }
  | .weevil => { s with weevil := { s.weevil with rules := [], stop := [] } }
  | .debug => { s with dbg := { s.dbg with holdLine := none }, trace := TraceSt.reset }
  | .evcsrc => wakeHarts (evcsrcReset (Pg.EVCSRC + i) s)
  | .timer => timerReset s
  | .pool => { s with pool := PoolSt.reset }
  | .hymnal => { s with hymn := HymnSt.reset }
  | .mmu => if i == 0 then dropDying (dropEntries none s) else s
  | .core =>
    (match coreRun s i with
    | some r => jobEnd r.w.job 0x0601 0 i r.w.task.idx s
    | none => s)
  | .cantor => cantorStop i s
  | .llc => { s with ms := { s.ms with stave := s.ms.stave.filter fun x => x.1 / 0x1000 != Pg.LLC + i } }
  | .chafer => chaferStop i 0x0601 s
  | .wingcase => headReset i s
  | .dsi => { s with wing := { s.wing with gen := none } }
  | .cam =>
    { s with cam := { s.cam with streams := s.cam.streams.map fun x =>
      if x.1 / 4 == i then (x.1, { CamStream.reset with seq := x.2.seq }) else x } }
  | .streamgrp => { s with cam := { s.cam with groups := [] } }
  | .choir => choirReset s
  | .choirxp => xpReset s
  | .tdm => tdmEnable i false s
  | .eth => ethReset i s
  | .i3c => i3cReset i s
  | .spi => spiReset s
  | .slink => linkDown i s
  | .ringstate => ringPageStop (Pg.RINGSTATE + i) s
  | _ => s

/-- What follows the registers' return to reset. -/
def blockAfter (k : Kind) (i : Nat) (s : State) : State :=
  match k with
  | .debug =>
    let s := wrB Rg.DEBUG_CTRL 0 (!sbEn s && !debugOff s) s
    wrB Rg.DEBUG_STAT 1 (debugAllow s) s
  | .fault => faultStatSync (allPages s.member) s
  | .timer => outsSync s
  | .gpio => pinsSync s
  | .cam => pinsSync s
  | .dramc => densitySync s
  | .lvds => lvdsCheck s
  | .slink => if i == 0 then { s with link := { s.link with rw := [], calOn := false, rtts := [], take := .none } } else s
  | .sriov => wrB Rg.SRIOV_TEN_CFG 31 true s
  | _ => s

/-- A block reset completes: its effects, then the writes held for the page, each on an edge of its own (R104). -/
def blockReset (p : Nat) (s : State) : State :=
  match kvFind s.resetting p, pageDesc p with
  | some held, some d =>
    let i := p - d.base
    let s := blockAfter d.kind i (resetHdr p (resetRegs d p (blockStop d.kind i s)))
    let s := { s with resetting := kvErase s.resetting p }
    held.foldl (fun s h => writePlace h.req h.place h.val (newEdge s)) s
  | _, _ => s

end Sys2Proof.Machine
end

