-- ==== Sys2Proof/Machine/Link.lean ====
section
/-! DEFINITION. What a Stave Link port does with a flit that arrives (R473 to R485, R487, R488). -/
namespace Sys2Proof.Machine

/-- A NAK with the FSEQ expected (R475). -/
def sendNak (p : Nat) (s : State) : State := launch p (linkFlit s p 8 (toLE 2 (linkPort s p).rxSeq)) s

/-- a comes before b in the order of 12-bit sequence numbers, or is it. -/
def seqUpTo (a b : Nat) : Bool := (b + 4096 - a) % 4096 < 2048

/-- CREDITS and ACK of a good flit (R473, R475). -/
def flitReturns (p : Nat) (l : List Byte) (s : State) : State :=
  let x := linkPort s p
  let un := if flitAckValid l then x.unacked.filter fun f => !seqUpTo f.fseq (flitAck l) else x.unacked
  let s := unackedSync p (putLink p { x with credits := min 64 (x.credits + flitCredits l), unacked := un } s)
  pump p x.stalled.length s

/-- A resend of one flit, counted; 32 within a line retrain the port (R472, R475). -/
def resend (p : Nat) (s : State) (f : SentFlit) : State :=
  let x := linkPort s p
  if !x.trained then s
  else
    let n := if x.replayLine == linLine s then x.replayN + 1 else 1
    let s := slCount 1 p (launch p f.body (putLink p { x with replayLine := linLine s, replayN := n } s))
    if 32 ≤ n then linkRetrain p s else s

/-- A NAK: what it does not expect any more is acknowledged, the rest is sent again (R475). -/
def nakRecv (p : Nat) (l : List Byte) (s : State) : State :=
  let e := leAt l 6 2 % 4096
  let x := linkPort s p
  let un := x.unacked.filter fun f => seqUpTo e f.fseq
  un.foldl (resend p) (unackedSync p (putLink p { x with unacked := un } s))

/-- A register write for a peer: performed, or refused and reported (R480, R482). -/
def peerWrite (p : Nat) (l : List Byte) (s : State) : State :=
  let q : Req := { origin := 0x49, aux := flitSrc l }
  let d := spaceDest (leAt l 6 6 - 0x3000000000)
  let v := w32 (leAt l 12 4)
  let why := verdict s q d v
  let s := (writeNow q d v s).2
  match why with
  | some r => refuseWrite p l r s
  | none => s

/-- The buffer of a performed flit is freed (R476). -/
def freeRx (p : Nat) (h : Option Nat) (s : State) : State :=
  match h with
  | some h => freeBuf (rdF s (slReg Rg.SLINK_RX_CFG p) 6 0) h s
  | none => s

/-- A WRITE for this device (R480): its buffer is freed once it has been performed (R476). -/
def writeRecv (p : Nat) (h : Option Nat) (l : List Byte) (s : State) : State :=
  let addr := leAt l 6 6
  match targetOf s.member addr with
  | .regs =>
    match (spaceDest (addr - 0x3000000000)).pageKey with
    | some k =>
      if s.resetting.any (·.1 == k) then { s with link := { s.link with heldW := s.link.heldW ++ [(k, p, h, l)] } }
      else freeRx p h (peerWrite p l s)
    | none => freeRx p h (peerWrite p l s)
  | .dram =>
    freeRx p h (if rdB s (slReg Rg.SLINK_RX_CFG p) 8 then devWrite (Config.cacheClass 3 % 8) addr ((l.drop 12).take 4) s
      else refuseWrite p l 0xD s)
  | _ => freeRx p h (refuseWrite p l 0xE s)

/-- WRITE flits held for a page whose reset is over. -/
def heldWrites (s : State) : State :=
  let ready := s.link.heldW.filter fun w => !s.resetting.any (·.1 == w.1)
  let s := { s with link := { s.link with heldW := s.link.heldW.filter fun w => s.resetting.any (·.1 == w.1) } }
  ready.foldl (fun s w => writeRecv w.2.1 w.2.2.1 w.2.2.2 (newEdge s)) s

/-- A sequenced flit for this device is performed (R480, R481, R483), and recorded as an input (R492). -/
def flitPerform (p : Nat) (h : Option Nat) (l : List Byte) (s : State) : State :=
  let t := flitType l
  if isolated s hySlink then
    let s := bump Rg.HYMNAL_ISOLATED s
    if t == 4 then s else freeRx p h s
  else
    let s := hymnRec hySlink p p (l.take 30) s
    if t == 2 then writeRecv p h l s
    else if t == 3 then freeRx p h (raiseSrc (0xC00 + 128 * flitSrc l + leAt l 6 1 % 128) s)
    else
      let s := setEvt (slPg p) 2 (farFail p (leAt l 6 4) (leAt l 10 1) (leAt l 11 1) (flitSrc l) (leAt l 12 6) (leAt l 18 8) s)
      linkCause p 2 (some (leAt l 6 4)) s

/-- A flit for another device: forwarded, or discarded (R476, R478). -/
def flitForward (p : Nat) (l : List Byte) (s : State) : State :=
  let out := routeOf s (flitDst l)
  if out == p || 6 ≤ flitHops l then
    let s := slErr 2 p s
    if flitType l == 2 then refuseWrite p l 0xE s else s
  else
    let body := flitBody (flitType l) (flitDst l) (flitSrc l) 0 (flitHops l + 1) ((l.drop 6).take 24)
    sendSeq out body none s

/-- A sequenced flit in good order: counted, and its buffer and acknowledgement returned by an IDLE (R475). -/
def flitTaken (p : Nat) (s : State) : State :=
  let x := linkPort s p
  putLink p { x with rxSeq := (x.rxSeq + 1) % 4096, rxAny := true, toReturn := x.toReturn + 1 } s

def sendIdle (p : Nat) (s : State) : State := launch p (linkFlit s p 0 []) s

/-- A sequenced flit arrives (R475, R476). -/
def seqRecv (p : Nat) (l : List Byte) (s : State) : State :=
  if flitSeq l != (linkPort s p).rxSeq then sendNak p s
  else if flitDst l != devNum s then sendIdle p (flitForward p l (flitTaken p s))
  else if flitType l == 4 then sendIdle p (flitPerform p none l (flitTaken p s))
  else
    match allocBuf (13 + p) (rdF s (slReg Rg.SLINK_RX_CFG p) 6 0) s with
    | (none, s) => sendNak p s
    | (some h, s) => sendIdle p (flitPerform p (some h) l (flitTaken p s))

/-- A barrier arrives: at a follower, from upstream (R488). -/
def barrierArrive (p : Nat) (l : List Byte) (root : Nat) (s : State) : State :=
  if devNum s == 0 || p != upstream s then s
  else barrierRecv p l root { s with link := { s.link with fwd := s.link.fwd ++ [(p, l)] } }

/-- A CAL_ECHO arrives with the round trip that it closes, in ROOTCLK (R487). -/
def echoRecv (p : Nat) (l : List Byte) (rtt : Nat) (s : State) : State :=
  if s.link.calOn && p == upstream s then
    { s with link := { s.link with rtts := s.link.rtts ++ [rtt], calPeer := leAt l 6 2 } }
  else s

/-- A flit leaves the receive crossing of a port: root is what a barrier or an echo needs beside it. -/
def flitRecv (p : Nat) (l : List Byte) (root : Nat) (s : State) : State :=
  if !(linkPort s p).trained then s
  else if !flitGood l then sendNak p (slErr 0 p s)
  else
    let t := flitType l
    if 9 ≤ t then slErr 2 p s
    else
      let s := flitReturns p l s
      if t == 1 then idRecv p l s
      else if flitSequenced t then seqRecv p l s
      else if t == 5 then barrierArrive p l root s
      else if t == 6 then { s with link := { s.link with echoes := s.link.echoes ++ [(p, l)] } }
      else if t == 7 then echoRecv p l root s
      else if t == 8 then nakRecv p l s
      else s

/-- A flit arrives at a port's SLINK_RX (R501). -/
def flitArrive (p : Nat) (l : List Byte) (root : Nat) (s : State) : State :=
  match wvPass (0x30 + p) 0 l (fun l => some (.slinkRx p l root)) s with
  | (.pass l _, s) => flitRecv p l root s
  | (_, s) => s

/-- A flit of a type arrives in good order of its CRC, at a port whose page is present. -/
def flitIs (s : State) (p : Nat) (l : List Byte) (ok : Nat → Bool) : Bool :=
  present s.member (slPg p) && p < 2 && (linkPort s p).trained && flitGood l && ok (flitType l)

/-- The echo that waits first is launched (R487). -/
def calEcho (s : State) : State :=
  match s.link.echoes with
  | [] => s
  | (p, _) :: r =>
    let s := { s with link := { s.link with echoes := r } }
    launch p (linkFlit s p 7 (toLE 2 (rdN s (slReg Rg.SLINK_RX_LAT p)))) s

/-- The barrier that waits first is forwarded, if the other port is UP (R488). -/
def forwardFirst (s : State) : State :=
  match s.link.fwd with
  | [] => s
  | (p, l) :: r =>
    let s := { s with link := { s.link with fwd := r } }
    if slUp s (1 - p) then barrierForward p l s else s

/-- A block reset completes, and with it the remote writes held for the page. -/
def blockResetAll (p : Nat) (s : State) : State := heldWrites (blockReset p s)

end Sys2Proof.Machine
end

