-- ==== Sys2Proof/Machine/Replay.lean ====
section
/-! DEFINITION. The Hymnal's replay (R495, R496): the entry at RD_SEQ is issued at its time, as a write, as a completion
or as an input at its crossing. -/
namespace Sys2Proof.Machine

/-- The kind of a class whose number is n, among the first m. -/
def kindOf (src n m : Nat) : Option Nat := (List.range m).find? fun k => hymnKind src k == n % 256

/-- A replay diverges at an entry (R496). -/
def diverge (e : List Byte) (s : State) : State := replayStop (some (leAt e 12 4)) s

/-- A recorded write of the host, through the original BAR decode with origin 0x4A (R492, R495). -/
def replayHostWrite (fn addr : Nat) (d : List Byte) (s : State) : State :=
  let off := addr % 0x1000000000000
  let bar := bits addr 50 48
  let q : Req := { origin := 0x4A, aux := if fn == 0 then 0x41 else fn }
  if bar == 0 then
    let p := if fn == 0 then Place.space off else .vfBar fn off
    if d.length == 8 then doorBoth { q with be := 255 } p (w32 (leAt d 0 4)) (w32 (leAt d 4 4)) s
    else writePlace q p (w32 (leAt d 0 4)) s
  else if fn == 0 && bar == 2 then winAccess off 0 (some d) s
  else cfgDo (.msix fn off (w32 (leAt d 0 4))) s

/-- A recorded completion: of the oldest read that waits at the address (R495). -/
def replayCompletion (e : List Byte) (addr : Nat) (d : List Byte) (s : State) : State :=
  let hseq := leAt e 12 4
  if s.hymn.taken.contains hseq then { s with hymn := { s.hymn with taken := s.hymn.taken.filter (· != hseq) } }
  else
    let here : Fetch → Bool := fun f =>
      match f.res with
      | .waiting pa _ => pa == addr
      | _ => false
    match s.adm.fetches.find? here with
    | some f =>
      let ok := 64 ≤ d.length
      let res := if ok then FetchRes.got (d.take 64) else .bad 0x0406
      let fs := s.adm.fetches.map fun g => if g == f then { g with res := res } else g
      let s := npSet (npNow s - 1) { s with adm := { s.adm with fetches := fs } }
      if ok then s else cplErr s
    | none =>
      match (List.range s.ms.accesses.length).find? fun k =>
          match s.ms.accesses[k]? with
          | some a => a.host && a.kind != 1 && a.pa == addr
          | none => false with
      | some k => accessDone k 0 0 (some d) s
      | none => diverge e s

/-- A recorded event of the host; the vector of a mask change, and the link's speed and width, are not recorded and so
left open. -/
def replayEvent (fn code : Nat) (s : State) : State :=
  let (f, s) := freeVal s
  let (b, s) := freeBit s
  match kindOf hyHostEvent code 7 with
  | some 0 => if fn == 0 then pf0Flr s else if tenExists s fn then vfFlr fn s else s
  | some 1 => linkLost 2 s
  | some 2 => linkLost 1 s
  | some 3 => if linkMay s then pcieUp (1 + f % 5) (2 ^ (f / 5 % 5)) s else s
  | some 4 => toD3hot fn s
  | some 5 => toD0 fn s
  | some 6 => if b then unmaskVec fn (f % msixSize fn) s else maskVec fn (f % msixSize fn) s
  | _ => s

/-- A recorded camera packet. -/
def replayCamera (p addr : Nat) (d : List Byte) (s : State) : State :=
  match kindOf hyCamera addr 1024 with
  | some k =>
    let dt := k % 64
    let x : CamPkt := { vc := k / 64, dt := dt, data := if dt ≤ 1 then leAt d 0 2 else d.length,
                        payload := if dt ≤ 1 then [] else d, ecc := 0, crcOk := !bit addr 8 }
    if p < 8 && camReceives s p then camTake p x s else s
  | none => s

/-- A recorded input of a side port. -/
def replaySide (i addr : Nat) (d : List Byte) (s : State) : State :=
  match kindOf hySide addr 4 with
  | some 0 => tgtWrite (leAt d 0 1 % 128) (d.drop 1) s
  | some 1 => if i < 2 then spiDone i d s else s
  | some 2 => if i < 4 then i3cDone i 0 d.length d s else s
  | some 3 => if i < 4 then i3cIbi i (leAt d 0 1) (d.drop 1) s else s
  | _ => s

/-- A recorded flit is performed; without bytes it is a change of lock, whose reason is not recorded. -/
def replayFlit (p : Nat) (d : List Byte) (s : State) : State :=
  if d.isEmpty then
    let (f, s) := freeVal s
    lockLoss (1 + f % 5) s
  else if flitSequenced (flitType d) then flitPerform p none d s
  else s

/-- A recorded value of IN. -/
def replayGpio (v : Nat) (s : State) : State := (List.range 32).foldl (fun s i => gpioEdge i (bit v i) s) s

/-- Values of a byte string in groups of 4 bytes. -/
def quads (d : List Byte) : List Nat := (List.range (d.length / 4)).map fun i => leAt d (4 * i) 4

/-- A sensor's raw reading as the sensor RAM holds it (R543). -/
def sensorStore (k v : Nat) (s : State) : State := gmemWrite (0x50060000 + 4 * k) (toLE 4 (v % 0x10000)) s

/-- A recorded sensor value: MR4 of a channel, a thermal sensor, REF_PPM. -/
def replaySensor (i addr : Nat) (d : List Byte) (s : State) : State :=
  let v := leAt d 0 4
  match kindOf hySensor addr 3 with
  | some 0 => if (channels s.member).contains i then mr4Read i (v % 8) s else s
  | some 1 => if i < 8 then sensorStore i v s else s
  | some 2 => refCheck (signed 32 v) s
  | _ => s

/-- One entry issued by its class. -/
def replayEntry (e : List Byte) (d : List Byte) (s : State) : State :=
  let src := leAt e 8 1
  let i := leAt e 9 1
  let a := leAt e 24 8
  if src == hyHostWrite then replayHostWrite i a d s
  else if src == hyHostCpl then replayCompletion e a d s
  else if src == hyHostEvent then replayEvent i a s
  else if src == hyCamera then replayCamera i a d s
  else if src == hyEth then (if i < 2 && present s.member (ethPg i) then ethTake i d s else s)
  else if src == hySlink then (if i < 2 && present s.member (slPg i) then replayFlit i d s else s)
  else if src == hySide then replaySide i a d s
  else if src == hyGpio then replayGpio a s
  else if src == hyAudio then (if i < 4 && tdmRuns s i then tdmTake i (quads d) false s else s)
  else if src == hyDebug then writePlace { origin := 0x4A, aux := 0x48 } (.space a) (w32 (leAt d 0 4)) s
  else if src == hySensor then replaySensor i a d s
  else s

/-- The stave time at which an entry is issued (R495). -/
def replayTime (s : State) (e : List Byte) : Int := (leAt e 0 8 : Int) + s.hymn.delta * 0x400000

/-- The effect of an entry whose input is due now (R495). -/
def replayInput (e : List Byte) (s : State) : State :=
  let s := replayEntry e (hymnData e s) { s with hymn := { s.hymn with injecting := true } }
  { s with hymn := { s.hymn with injecting := false } }

/-- After an entry is issued: RD_SEQ steps, and the replay of the last entry ends (R495). -/
def replayNext (s : State) : State :=
  if !replaying s then s
  else
    let s := bumpWrap Rg.HYMNAL_RD_SEQ s
    if hymnFill s == 0 then replayStop none s else s

/-- An entry that has been read, for a time t: one whose time is past was not fetched in time (R496). -/
def replayOne (t : Int) (x : List Byte × Bool × State) : State :=
  if x.2.1 || t < (stimeNow x.2.2 : Int) then diverge x.1 x.2.2 else replayNext (replayInput x.1 x.2.2)

/-- The entry at RD_SEQ is issued, if its time has come (R495). -/
def replayIssue (s : State) : State :=
  if !replaying s then s
  else
    let a := hymnAddr s (rdN s Rg.HYMNAL_RD_SEQ)
    let t := replayTime s (memRead s a 64)
    if (stimeNow s : Int) < t then s else replayOne t (devRead clsHymnal a 64 s)

/-- A device read of the host has waited 75 lines for its entry (R496). -/
def replayTimeout (s : State) : State :=
  let late : Fetch → Bool := fun f =>
    match f.res with
    | .waiting _ l => l + 75 ≤ linLine s
    | _ => false
  if replayed s hyHostCpl && s.adm.fetches.any late then
    let (f, s) := freeVal s
    replayStop (some (f % 0x100000000)) s
  else s

end Sys2Proof.Machine
end

