-- ==== Sys2Proof/Machine/Boundary.lean ====
section
/-! DEFINITION. Line and stave boundaries (R34, R37, R38, R69, R105, R145, R256, R269, R290), and the sub-beat by which the
counter moves while nothing is commanded. -/
namespace Sys2Proof.Machine

/-! ## The staged window -/

/-- The offsets of a page's staged registers. -/
def stagedOffs (d : PageDesc) (p : Nat) : List Nat :=
  ((List.range 128).map (0x800 + 4 * ·)).filter fun o => (findReg (p - d.base) d.regs o).isSome

/-- The pages that apply at the next stave boundary (R69). -/
def stagedPages (s : State) : List (Nat × PageDesc) :=
  (allPages s.member).filterMap fun p => match pageDesc p with
    | some d => if d.staged && rdB s (hdr p Hdr.PAGE_STAGE) 0 then some (p, d) else none
    | none => none

/-- A staged register's value waits to differ from the one in force. -/
def stagedDiff (s : State) (a : Nat) : Bool := rd s a != rd s (shadow a)

/-- The streams of a camera port that a staged application changes (R334). -/
def changedStreams (s : State) (i : Nat) : List Nat :=
  ((List.range 4).filter fun k => (List.range 4).any fun w => stagedDiff s (Rg.CAM_SCFG0 + i * 0x1000 + 16 * k + 4 * w)).map (4 * i + ·)

/-- The entries of a register array that a staged application changes: n entries, step bytes apart, w words each. -/
def changedEnts (s : State) (a n step w : Nat) : List Nat :=
  (List.range n).filter fun k => (List.range w).any fun j => stagedDiff s (a + step * k + 4 * j)

/-- What a page does with its old settings before the new ones apply (R334, R348). -/
def beforeApply (k : Kind) (i : Nat) (s : State) : State :=
  match k with
  | .cam => (changedStreams s i).foldl (fun s st => streamApply st s) s
  | .streamgrp => (changedEnts s Rg.STREAMGRP_GRP_MASK 4 8 2).foldl (fun s g => groupRelease g s) s
  | _ => s

/-- The entries of a page that its application changes, for what follows it (R171, R334, R414). -/
def changedOf (k : Kind) (i : Nat) (s : State) : List Nat :=
  match k with
  | .cam => changedStreams s i
  | .pool => changedEnts s Rg.POOL_POOL_CFG 128 4 1
  | .choirxp => changedEnts s Rg.CHOIRXP_OUT_GAIN 16 4 1
  | _ => []

/-- What follows a page's application (R171, R334, R373, R402, R410, R414). -/
def afterApply (k : Kind) (l : List Nat) (guardOld : Nat) (s : State) : State :=
  match k with
  | .cam => l.foldl (fun s st => streamCheck st s) (l.foldl (fun s st => wrB (camStat st) 2 true s) s)
  | .pool => l.foldl (fun s p => poolGeometry p s) s
  | .choirxp => l.foldl (fun s o => outRamp o s) s
  | .choir => guardResApply guardOld (guardRes s) s
  | .wingcase => lvdsCheck (dsiRateCheck s)
  | _ => s

/-- One page takes its shadow registers into force (R69). -/
def applyPage (s : State) (x : Nat × PageDesc) : State :=
  let p := x.1
  let d := x.2
  let i := p - d.base
  let old := guardRes s
  let l := changedOf d.kind i s
  let s := beforeApply d.kind i s
  let s := (stagedOffs d p).foldl (fun s o => wr (p * 0x1000 + o) (rd s (shadow (p * 0x1000 + o))) s) s
  let s := wrB (hdr p Hdr.PAGE_STAGE) 2 true (wrB (hdr p Hdr.PAGE_STAGE) 0 false s)
  let s := setEvt p 31 (wr (hdr p Hdr.PAGE_STAGE_SNUM) (w32 s.clk.snum) s)
  afterApply d.kind l old s

/-- The channels whose staged registers apply at this boundary (R422). -/
def timerApplied (s : State) : List Nat :=
  if rdB s (hdr Pg.TIMER Hdr.PAGE_STAGE) 0 then s.timer.written else []

/-- Step 2 of R34: every pending page applies, on one edge. -/
def stagedApply (s : State) : State := (stagedPages s).foldl applyPage s

/-! ## What a stave boundary brings into use -/

/-- Tenant budgets of the new stave (R145), with nothing placed yet. -/
def tenantBudgets (s : State) : State :=
  (List.range 65).foldl (fun s n =>
    let g := rdF s (Rg.SRIOV_TEN_GUAR + 16 * n) 21 0
    let c := rdF s (Rg.SRIOV_TEN_CEIL + 16 * n) 21 0
    let u : TenUse := ⟨g, c, fld (tenCfg s n) 2 0, 0⟩
    { s with adm := { s.adm with tens := kvPut TenUse.reset s.adm.tens n u } }) s

/-- The scratch split written comes into force on every core (R290). -/
def scratchSplits (s : State) : State :=
  (coresOf s.member).foldl (fun s c =>
    let a := Rg.CORE_SCRATCH_SPLIT + c * 0x1000
    wrF a 13 8 (rdF s a 5 0) s) s

/-- The near-read caches armed for a boundary are invalidated (R249). -/
def nrcFlush (s : State) : State :=
  let cores := (halves s.member).flatMap fun h =>
    (List.range 16).filterMap fun j =>
      if rdB s (Rg.LLC_NRC_INV + h * 0x1000) j || rdB s (Rg.LLC_NRC_CTRL + h * 0x1000) 0 then some (16 * h + j) else none
  let s := { s with ms := { s.ms with nrc := s.ms.nrc.filter fun e => !cores.contains (e.1 / nrcKey 1 0) } }
  (halves s.member).foldl (fun s h => wr (Rg.LLC_NRC_INV + h * 0x1000) 0 s) s

/-- The counts of the stave that ends are latched (R250, R256). -/
def staveCounts (s : State) : State :=
  let s := (halves s.member).foldl (fun s h =>
    (List.range 16).foldl (fun s k =>
      wr (Rg.LLC_LAST + h * 0x1000 + 4 * k) (w32 (kvGet 0 s.ms.stave (Rg.LLC_CUM + h * 0x1000 + 4 * k))) s) s) s
  let s := [Rg.BRIDGE_FLITS_WE, Rg.BRIDGE_FLITS_EW].foldl (fun s a => wr a (w32 (kvGet 0 s.ms.stave a)) s) s
  { s with ms := { s.ms with stave := [] } }

/-- The HEAD1_DIV value written last applies (R38). -/
def head1Apply (s : State) : State :=
  let n := rdF s Rg.CLOCK_HEAD1_DIV 7 0
  if !s.clk.head1Due && n == s.clk.head1Div then s
  else lvdsCheck (headRestart 1 { s with clk := { s.clk with head1Div := n, head1Due := false } })

/-! ## The counter -/

/-- The counter at the next line (R22). -/
def nextLine (s : State) : State := { s with clk := { s.clk with line := s.clk.line + 1, beat := 0, sub := 0 } }

/-- The stave number that follows: an armed load (R37), the conductor's (R490), or the next one (R22). -/
def nextSnum (s : State) : Nat :=
  if rdB s Rg.STAVE_STAT 2 then rdN s Rg.STAVE_SNUM_LOAD_LO + rdF s Rg.STAVE_SNUM_LOAD_HI 9 0 * 0x100000000
  else s.link.adopt.getD ((s.clk.snum + 1) % 2 ^ 42)

/-- The counter at the next stave (R22, R37, R490). -/
def nextStave (s : State) : State :=
  let loaded := rdB s Rg.STAVE_STAT 2 || s.link.adopt.isSome
  let s := { s with clk := { s.clk with snum := nextSnum s, line := 0, beat := 0, sub := 0, staves := s.clk.staves + 1 }
                    link := { s.link with adopt := none } }
  let s := wrB Rg.STAVE_STAT 2 false s
  if loaded then setEvt Pg.STAVE 2 s else s

/-! ## Line boundaries -/

/-- Thermal sensor k reads v: a changed reading is an input (R542, R494). Sensors that the member lacks read 0x8000. -/
def sensorRead (s : State) (x : Nat × Nat) : State :=
  let v := x.2 % 0x10000
  if (s.member == .zs804q && 2 ≤ x.1 && x.1 ≤ 4) || leAt (gmemRead s (0x50060000 + 4 * x.1) 2) 0 2 == v then s
  else inputOf hySensor x.1 (hymnKind hySensor 1) (toLE 4 v) (sensorStore x.1 v) s

/-- What every line boundary does once the counter shows its line and staged values and scores are in force: delay lists
(R277), admission (R163), the counts of lines, and the boundary's own events (R34 steps 4 to 6). -/
def lineWork (temps : List Nat) (s : State) : State :=
  let s := ((temps.take 8).mapIdx fun k v => (k, v)).foldl sensorRead (sensorUpdate [] s)
  let s := flrLine (avsLine (refreshLine s))
  let s := holdTake s
  let s := if held s then s else delayTick s
  let s := if held s then s else gateEvents s
  let s := admission (applyDisabling (restartRelease s))
  let s := pinTick (wdogTick (watchTick s))
  let s := wvNone (wvLine s)
  if rdF s Rg.STAVE_MARK_LINE 10 0 == s.clk.line then setEvt Pg.STAVE 1 s else s

/-- A line boundary within a stave (R34). -/
def lineBoundary (temps : List Nat) (s : State) : State :=
  let s := timerRun (edgesLeft s) s
  let s := timerBoundary false [] (nextLine s)
  lineWork temps s

/-- Step 3 of R34: a hold ends (R521), a stave reset (R105), the score of S6 (R107) or a new score takes effect, and the
placement is selected (R269). -/
def staveScore (s : State) : State :=
  let s := if held s && rdB s Rg.DEBUG_HOLD_STAT 2 then holdEnd (holdCut s) else s
  let s := if s.cantor.resetDue then wrB Rg.GUARD_RESET_CAUSE 6 true (staveReset s) else s
  let s := if s.boot.s5done then enterS6 s else s
  let old := rd s Rg.CANTOR_SCORE_STAT
  let s := densitySync (scoreSwitch s)
  creditsClear (selectPlacement old s)

/-- A stave boundary (R34), in the order of its six steps. -/
def staveBoundary (temps : List Nat) (s : State) : State :=
  let s := timerRun (edgesLeft s) s
  let s := nextStave s
  let applied := timerApplied s
  let s := stagedApply s
  let s := timerBoundary true applied s
  let s := { s with timer := { s.timer with written := if applied.isEmpty then s.timer.written else [] } }
  let s := head1Apply (staveCounts (nrcFlush (scratchSplits (tenantBudgets (gateBase s)))))
  let s := staveScore s
  let s := lineWork temps s
  let s := peakReport (silentTick s)
  let s := barrierSend (barrierTick s)
  let s := setEvt Pg.STAVE 0 (hymnStart s)
  lockRealign s

/-! ## The passing of time -/

/-- One sub-beat passes within the line; PERCLK rises on the even ones (R20, R22). At the last sub-beat of a line the
counter waits for the boundary's own command. -/
def tick (s : State) : State :=
  if !s.clk.running || (s.clk.beat == 63 && s.clk.sub == 31) then s
  else
    let p := s.clk.beat * 32 + s.clk.sub + 1
    let s := { s with clk := { s.clk with beat := p / 32, sub := p % 32 } }
    finish (if p % 2 == 0 then timerEdge false false [] s else s)

/-! ## Events -/

/-- An event of its own FABCLK edge: held writes of the edge first (R66), then the event, then what it leaves at the
edge's end. -/
def event (f : State → State) (s : State) : State := finish (f (newEdge s))

/-- An event that occurs only where its condition holds; elsewhere nothing happens but the edge. -/
def eventIf (c : State → Bool) (f : State → State) (s : State) : State :=
  event (fun s => if c s then f s else s) s

end Sys2Proof.Machine
end

