-- ==== Sys2Proof/Machine/HostCmds.lean ====
section
/-! DEFINITION. The commands of the host link and of tenants (R122 to R146, R180 to R184, R538). -/
namespace Sys2Proof.Machine

/-! ## The link -/

/-- PCIE_LINK_UP (R140): the link trains to a speed and a width. -/
def execPcieLinkUp (speed width : Nat) (s : State) : Host.Outcome State Fault Refusal :=
  .next (eventIf linkMay (hostEvent 3 0 (pcieUp speed width)) s)

/-- PCIE_LINK_DOWN (R140). -/
def execPcieLinkDown (s : State) : Host.Outcome State Fault Refusal :=
  .next (eventIf dlUp (hostEvent 2 0 (linkLost 1)) s)

/-- PCIE_HOT_RESET (R140). -/
def execPcieHotReset (s : State) : Host.Outcome State Fault Refusal :=
  .next (eventIf dlUp (hostEvent 1 0 (linkLost 2)) s)

/-- PCIE_PERST_N takes a level (R538); the link going down with it is an input of the Hymnal (R494). -/
def perstInput (level : Bool) (s : State) : State :=
  if !level && dlUp s then hostEvent 2 0 (perst level) s else perst level s

/-- PCIE_PERST (R538): the level that PCIE_PERST_N takes. -/
def execPciePerst (level : Bool) (s : State) : Host.Outcome State Fault Refusal :=
  .next (event (perstInput level) s)

/-- The link shows another speed or width (R122). -/
def speedChange (speed width : Nat) (s : State) : State :=
  setEvt Pg.HOST 3 (wrF Rg.HOST_LINK_STAT 9 4 width (wrF Rg.HOST_LINK_STAT 3 0 speed s))

/-- PCIE_SPEED_CHANGE (R122). -/
def execPcieSpeedChange (speed width : Nat) (s : State) : Host.Outcome State Fault Refusal :=
  .next (eventIf (fun s => dlUp s && (rdF s Rg.HOST_LINK_STAT 3 0 != speed % 16 || rdF s Rg.HOST_LINK_STAT 9 4 != width % 64))
    (speedChange speed width) s)

/-- ASPM_L0S_ENTRY (R135). -/
def execAspmL0sEntry (s : State) : Host.Outcome State Fault Refusal := .next (event aspmL0s s)

/-- ASPM_L1_ENTRY (R135). -/
def execAspmL1Entry (s : State) : Host.Outcome State Fault Refusal := .next (event aspmL1 s)

/-- PME_TURN_OFF (R180). -/
def execPmeTurnOff (s : State) : Host.Outcome State Fault Refusal := .next (eventIf dlUp pmeTurnOff s)

/-- MSIX_AFTER_L0 (R182). -/
def execMsixAfterL0 (s : State) : Host.Outcome State Fault Refusal := .next (event linkToL0 s)

/-! ## Functions -/

/-- VF_FLR (R137). -/
def execVfFlr (n : Nat) (s : State) : Host.Outcome State Fault Refusal := .next (event (cfgArrive (.vfFlr n)) s)

/-- VF_ENABLE_CLEAR (R138). -/
def execVfEnableClear (s : State) : Host.Outcome State Fault Refusal := .next (event (cfgArrive (.vfEnable false)) s)

/-- VF_ENABLE_SET (R131). -/
def execVfEnableSet (s : State) : Host.Outcome State Fault Refusal := .next (event (cfgArrive (.vfEnable true)) s)

/-- NUMVFS_WRITE (R131). -/
def execNumvfsWrite (v : Nat) (s : State) : Host.Outcome State Fault Refusal := .next (event (cfgArrive (.numVfs v)) s)

/-- PF0_FLR (R139). -/
def execPf0Flr (s : State) : Host.Outcome State Fault Refusal := .next (event (cfgArrive .pf0Flr) s)

/-- PMCSR_D3HOT (R180). -/
def execPmcsrD3hot (fn : Nat) (s : State) : Host.Outcome State Fault Refusal := .next (event (cfgArrive (.d3hot fn)) s)

/-- PMCSR_D0 (R184). -/
def execPmcsrD0 (fn : Nat) (s : State) : Host.Outcome State Fault Refusal := .next (event (cfgArrive (.d0 fn)) s)

/-- BME_CLEAR (R183). -/
def execBmeClear (fn : Nat) (s : State) : Host.Outcome State Fault Refusal := .next (event (cfgArrive (.bme fn false)) s)

/-- BME_SET (R184). -/
def execBmeSet (fn : Nat) (s : State) : Host.Outcome State Fault Refusal := .next (event (cfgArrive (.bme fn true)) s)

/-- MSIX_UNMASK (R181). -/
def execMsixUnmask (fn vec : Nat) (s : State) : Host.Outcome State Fault Refusal :=
  .next (event (cfgArrive (.unmask fn vec)) s)

/-! ## Data -/

/-- HOST_READ_FAILURE (R126): of the n-th host read under way. -/
def execHostReadFailure (n : Nat) (s : State) : Host.Outcome State Fault Refusal := .next (event (hostReadFail n) s)

/-- POISONED_WRITE_DROP (R127). -/
def execPoisonedWriteDrop (s : State) : Host.Outcome State Fault Refusal := .next (eventIf dlUp poisonDrop s)

/-- A write through PF0 BAR2 (R133): an input of the Hymnal at the BAR offset, with the BAR's number above it (R494). -/
def winWrite (off : Nat) (l : List Byte) (s : State) : State :=
  pcieRx l (fun l => some (.win off l))
    (fun l s => inputOf hyHostWrite 0 (off + 0x2000000000000) l (winAccess off 0 (some l)) s) s

/-- An access through PF0 BAR2 (R133). -/
def winTake (off len : Nat) (data : Option (List Byte)) (s : State) : State :=
  match data with
  | some l => winWrite off l s
  | none => winAccess off len none (linkToL0 s)

/-- WINDOW_ACCESS (R133): a read of len bytes, or a write of data. -/
def execWindowAccess (off len : Nat) (data : Option (List Byte)) (s : State) : Host.Outcome State Fault Refusal :=
  .next (eventIf (fun s => dlUp s && decide (off < 0x10000000)) (winTake off len data) s)

/-- HOST_NP_OUT_READ (R125). -/
def execHostNpOutRead (o : Nat) (s : State) : Host.Outcome State Fault Refusal := .next (readCmd o Rg.HOST_NP_OUT false s)

/-! ## Tenants -/

/-- A write of an entry of a register array, where the array has that entry. -/
def entryCmd (n count : Nat) (q : Req) (off : Nat) (v : W32) (s : State) : State :=
  if n < count then regCmd q off v s else s

/-- TEN_RINGS_WRITE (R141). -/
def execTenRingsWrite (q : Req) (n : Nat) (v : W32) (s : State) : Host.Outcome State Fault Refusal :=
  .next (entryCmd n 65 q (Rg.SRIOV_TEN_RINGS + 16 * n) v s)

/-- TEN_ENABLE (R142). -/
def execTenEnable (q : Req) (n : Nat) (v : W32) (s : State) : Host.Outcome State Fault Refusal :=
  .next (entryCmd n 65 q (Rg.SRIOV_TEN_CFG + 16 * n) (v ||| 0x80000000) s)

/-- TEN_DISABLE (R143). -/
def execTenDisable (q : Req) (n : Nat) (v : W32) (s : State) : Host.Outcome State Fault Refusal :=
  .next (entryCmd n 65 q (Rg.SRIOV_TEN_CFG + 16 * n) (v &&& 0x7FFFFFFF) s)

/-- TEN_GUAR_WRITE (R144). -/
def execTenGuarWrite (q : Req) (n : Nat) (v : W32) (s : State) : Host.Outcome State Fault Refusal :=
  .next (entryCmd n 65 q (Rg.SRIOV_TEN_GUAR + 16 * n) v s)

/-- TEN_CEIL_WRITE (R144). -/
def execTenCeilWrite (q : Req) (n : Nat) (v : W32) (s : State) : Host.Outcome State Fault Refusal :=
  .next (entryCmd n 65 q (Rg.SRIOV_TEN_CEIL + 16 * n) v s)

/-- TEN_PRIO_WRITE (R145). -/
def execTenPrioWrite (q : Req) (n : Nat) (v : W32) (s : State) : Host.Outcome State Fault Refusal :=
  .next (entryCmd n 65 q (Rg.SRIOV_TEN_CFG + 16 * n) v s)

/-- JOB_QUOTA_WRITE (R145). -/
def execJobQuotaWrite (q : Req) (n : Nat) (v : W32) (s : State) : Host.Outcome State Fault Refusal :=
  .next (entryCmd n 65 q (Rg.SRIOV_TEN_CFG + 16 * n) v s)

/-- TENANT_MBOX (R146): by the tenant through its BAR0, or by another origin. -/
def execTenantMbox (q : Req) (n : Nat) (v : W32) (s : State) : Host.Outcome State Fault Refusal :=
  .next (if n < 65 then
    writeCmd q (if q.origin == n then .vfBar n 0x5C else .space (Rg.TENANT_MBOX + n * 0x1000)) v s
  else s)

end Sys2Proof.Machine
end

