-- ==== Sys2Proof/Machine/RingCmds.lean ====
section
/-! DEFINITION. The commands of rings and buffer pools (R149 to R155, R169 to R179). -/
namespace Sys2Proof.Machine

/-- A write of a register of ring r's entry. -/
def ringCmd (r : Nat) (q : Req) (a : Nat) (v : W32) (s : State) : State := entryCmd r 16384 q (a + 64 * r) v s

/-- RING_ENABLE (R149). -/
def execRingEnable (q : Req) (r : Nat) (v : W32) (s : State) : Host.Outcome State Fault Refusal :=
  .next (ringCmd r q Rg.RINGSTATE_CTRL (v ||| 1) s)

/-- RING_DISABLE (R150). -/
def execRingDisable (q : Req) (r : Nat) (v : W32) (s : State) : Host.Outcome State Fault Refusal :=
  .next (ringCmd r q Rg.RINGSTATE_CTRL (v &&& 0xFFFFFFFE) s)

/-- RING_RESET (R150). -/
def execRingReset (q : Req) (r : Nat) (v : W32) (s : State) : Host.Outcome State Fault Refusal :=
  .next (ringCmd r q Rg.RINGSTATE_CTRL (v ||| 2) s)

/-- RING_RESET_DONE (R150). -/
def execRingResetDone (r : Nat) (s : State) : Host.Outcome State Fault Refusal := .next (event (ringResetDone r) s)

/-- A doorbell of both words on its way in: from the host (R61, R494), or from a unit of the device. -/
def doorArrive (q : Req) (p : Place) (tail head : W32) (s : State) : State :=
  let host := match p with
    | .vfBar n _ => q.origin == n
    | .space _ => q.origin == 0x41
    | _ => false
  let f := match p with
    | .vfBar n _ => n
    | _ => 0
  if !host then doorBoth q p tail head s
  else if !fnAnswers s f then fnDrops f s
  else pcieRx (toLE 4 tail.toNat ++ toLE 4 head.toNat)
    (fun l => some (.door q p (w32 (leAt l 0 4)) (w32 (leAt l 4 4))))
    (fun l s => liveInput hyHostWrite (doorBoth q p (w32 (leAt l 0 4)) (w32 (leAt l 4 4))) s) s

/-- A doorbell write of SQ_TAIL, with the head of the same 64-bit write where it has one (R151). -/
def tailCmd (q : Req) (p : Place) (tail : W32) (head : Option W32) (s : State) : State :=
  match head with
  | none => writeCmd q p tail s
  | some h => if cmdOrigin q.origin then finish (doorArrive q p tail h (edgeOf q.same s)) else s

/-- SQ_TAIL_DOORBELL (R151). -/
def execSqTailDoorbell (q : Req) (p : Place) (tail : W32) (head : Option W32) (s : State) : Host.Outcome State Fault Refusal :=
  .next (tailCmd q p tail head s)

/-- CQ_HEAD_DOORBELL (R151). -/
def execCqHeadDoorbell (q : Req) (p : Place) (head : W32) (s : State) : Host.Outcome State Fault Refusal :=
  .next (writeCmd q p head s)

/-- An event that reads host pages, with what the host answers (R126); an answer from another endpoint's BAR is
undefined (R124, UB-0601). -/
def answered (data : HostData) (f : State → State) (s : State) : Host.Outcome State Fault Refusal :=
  match data with
  | .peer => .fault .peerAccess
  | .bytes l => .next (event f { s with host := { s.host with answer := l, answerFail := false } })
  | .failed => .next (event f { s with host := { s.host with answer := [], answerFail := true } })

/-- What arrives for a read that a ring waits for: the bytes asked for, or the failure of the read (R126). -/
def arrived (n : Nat) (s : State) : Option (List Byte) :=
  if s.host.answerFail || s.host.answer.length < n then none else some (s.host.answer.take n)

/-- DESCRIPTOR_FETCH (R153). -/
def execDescriptorFetch (r : Nat) (s : State) : Host.Outcome State Fault Refusal := .next (event (fetchStart regRead r) s)

/-- DESCRIPTOR_ARRIVAL (R153). -/
def execDescriptorArrival (r : Nat) (data : HostData) (s : State) : Host.Outcome State Fault Refusal :=
  answered data (fun s => descArrive r (arrived 64 s) s) s

/-- FRAGMENT_HEADER_ARRIVAL (R154). -/
def execFragmentHeaderArrival (r sub : Nat) (data : HostData) (s : State) : Host.Outcome State Fault Refusal :=
  answered data (headerArrive regRead r sub) s

/-- The ring's window ends at the boundary that begins line E (R178). -/
def modDue (s : State) (r : Nat) : Bool := (modOf s r).open_ && decide ((modOf s r).e ≤ linLine s)

/-- MOD_EXPIRY (R178). -/
def execModExpiry (r : Nat) (s : State) : Host.Outcome State Fault Refusal :=
  .next (eventIf (fun s => modDue s r) (fire r) s)

/-- MOD_WRITE (R179). -/
def execModWrite (q : Req) (r : Nat) (v : W32) (s : State) : Host.Outcome State Fault Refusal :=
  .next (ringCmd r q Rg.RINGSTATE_MOD v s)

/-- RING_VECTOR_WRITE (R179). -/
def execRingVectorWrite (q : Req) (r : Nat) (v : W32) (s : State) : Host.Outcome State Fault Refusal :=
  .next (ringCmd r q Rg.RINGSTATE_CTRL v s)

/-! ## Pools -/

/-- A unit's request for a buffer, and what it receives (R169). -/
def poolAlloc (port p : Nat) (s : State) : State :=
  let (h, s) := allocBuf port p s
  emit (.handle port h) s

/-- POOL_ALLOC (R169). -/
def execPoolAlloc (port pool : Nat) (s : State) : Host.Outcome State Fault Refusal :=
  .next (eventIf (fun _ => decide (pool < 128) && decide (port < 32)) (poolAlloc port pool) s)

/-- POOL_FREE (R170). -/
def execPoolFree (pool handle : Nat) (s : State) : Host.Outcome State Fault Refusal :=
  .next (eventIf (fun _ => decide (pool < 128)) (freeBuf pool handle) s)

/-- POOL_SW_REQ (R174). -/
def execPoolSwReq (q : Req) (v : W32) (s : State) : Host.Outcome State Fault Refusal := .next (regCmd q Rg.POOL_SW_REQ v s)

/-- POOL_SW_FREE (R174). -/
def execPoolSwFree (q : Req) (v : W32) (s : State) : Host.Outcome State Fault Refusal :=
  .next (regCmd q Rg.POOL_SW_FREE v s)

end Sys2Proof.Machine
end

