-- ==== Sys2Proof/Machine/CameraCmds.lean ====
section
/-! DEFINITION. The commands of camera intake and of Chafer (R329 to R367). -/
namespace Sys2Proof.Machine

/-! ## Camera ports -/

/-- A packet leaves a port's FIFO (R330): nothing is received while the port is off or its link is down. -/
def camEvent (p : Nat) (k : CamPkt) (s : State) : Host.Outcome State Fault Refusal :=
  .next (eventIf (fun s => camReceives s p) (camRx p k) s)

/-- CAMERA_FS (R336). -/
def execCameraFs (port vc num ecc : Nat) (s : State) : Host.Outcome State Fault Refusal :=
  camEvent port ⟨vc % 16, 0, num % 0x10000, [], ecc, true⟩ s

/-- CAMERA_FE (R336). -/
def execCameraFe (port vc num ecc : Nat) (s : State) : Host.Outcome State Fault Refusal :=
  camEvent port ⟨vc % 16, 1, num % 0x10000, [], ecc, true⟩ s

/-- CAMERA_LONG_PACKET (R337). -/
def execCameraLongPacket (port vc dt wc ecc : Nat) (crcOk : Bool) (payload : List Byte) (s : State) :
    Host.Outcome State Fault Refusal :=
  .next (eventIf (fun s => camReceives s port && decide (0x10 ≤ dt) && decide (dt < 0x40))
    (camRx port ⟨vc % 16, dt, wc % 0x10000, payload, ecc, crcOk⟩) s)

/-- CAMERA_OTHER_SHORT_PACKET (R330). -/
def execCameraOtherShortPacket (port vc dt data ecc : Nat) (s : State) : Host.Outcome State Fault Refusal :=
  .next (eventIf (fun s => camReceives s port && decide (2 ≤ dt) && decide (dt < 0x10))
    (camRx port ⟨vc % 16, dt, data % 0x10000, [], ecc, true⟩) s)

/-- CAMERA_DETACH (R341). -/
def execCameraDetach (stream : Nat) (s : State) : Host.Outcome State Fault Refusal :=
  .next (eventIf (fun s => decide (stream < 32) && present s.member (camPg stream) && detachDue s stream)
    (attachSet stream false) s)

/-- GROUP_HOLD_EXPIRY (R345). -/
def execGroupHoldExpiry (g : Nat) (s : State) : Host.Outcome State Fault Refusal :=
  .next (eventIf (fun s => decide (g < 4) && holdDue s g) (groupRelease g) s)

/-- CAM_RELEASE (R339). -/
def execCamRelease (q : Req) (port : Nat) (v : W32) (s : State) : Host.Outcome State Fault Refusal :=
  .next (if port < 8 then regCmd q (portReg Rg.CAM_RELEASE port) v s else s)

/-- PHY_UP_CHANGE (R329): CAM.PORT_STAT.PHY_UP follows the receiver's lock. -/
def execPhyUpChange (port : Nat) (up : Bool) (s : State) : Host.Outcome State Fault Refusal :=
  .next (eventIf (fun s => decide (port < 8) && present s.member (camPort port))
    (wrB (portReg Rg.CAM_PORT_STAT port) 0 up) s)

/-! ## Chafer windows -/

/-- The window event of the line, for one instance (R265, R350). -/
def windowEvent (s : State) (h : Nat) : Option UnitEv := s.cantor.events.find? fun e => e.unit == 1 && e.inst == h

/-- The window event of the line starts its window. -/
def windowStart (h : Nat) (s : State) : State :=
  match windowEvent s h with
  | none => s
  | some e => winStart regRead h e.arg { s with cantor := { s.cantor with events := s.cantor.events.erase e } }

/-- CHAFER_WINDOW_START (R350). -/
def execChaferWindowStart (h : Nat) (data : HostData) (s : State) : Host.Outcome State Fault Refusal :=
  answered data (windowStart h) s

/-- A step of a window of instance h, where its window is in the state for it. -/
def windowIf (h : Nat) (c : ChWin → State → Bool) (f : ChWin → State → State) (s : State) : State :=
  match chWin s h with
  | some w => if c w s then f w s else s
  | none => s

/-- CHAFER_OPEN_TAKE (R367): at the end of window line 0. -/
def execChaferOpenTake (h : Nat) (data : HostData) (s : State) : Host.Outcome State Fault Refusal :=
  answered data (windowIf h (fun w s => !w.took && decide (w.lin + 1 ≤ linLine s)) (openTake regRead h)) s

/-- CHAFER_SETUP_DONE (R361). -/
def execChaferSetupDone (h : Nat) (data : HostData) (s : State) : Host.Outcome State Fault Refusal :=
  answered data (windowIf h (fun w _ => w.phase == 1 && w.took) (setupDone regRead h)) s

/-- CHAFER_EVAL_END (R350): at window line 72, with the CORECLK for which evaluation stood still. -/
def execChaferEvalEnd (h stall : Nat) (data : HostData) (s : State) : Host.Outcome State Fault Refusal :=
  answered data (windowIf h (fun w s => w.phase == 2 && decide (w.lin + 72 ≤ linLine s)) (evalEnd h stall)) s

/-- CHAFER_SURVEY_TOKEN (R364). -/
def execChaferSurveyToken (h : Nat) (s : State) : Host.Outcome State Fault Refusal :=
  .next (event (windowIf h (fun w _ => w.phase == 3) (surveyToken h)) s)

/-- CHAFER_LATE (R366): at the end of window line 74, with writes or tokens not done. -/
def execChaferLate (h : Nat) (s : State) : Host.Outcome State Fault Refusal :=
  .next (event (windowIf h (fun w s => w.phase == 3 && decide (w.lin + 75 ≤ linLine s)) (fun _ => winLate h)) s)

end Sys2Proof.Machine
end

