-- ==== Sys2Proof/Machine/DebugCmds.lean ====
section
/-! DEFINITION. The commands of Weevil (R499 to R507), of the debug port and the TAP (R510 to R515), of the stave hold
(R518, R519) and of the trace (R516). -/
namespace Sys2Proof.Machine

/-! ## Weevil -/

/-- WEEVIL_ARM_KEY1 (R499). -/
def execWeevilArmKey1 (q : Req) (s : State) : Host.Outcome State Fault Refusal := .next (regCmd q Rg.WEEVIL_ARM 0x5745 s)

/-- WEEVIL_ARM_KEY2 (R499). -/
def execWeevilArmKey2 (q : Req) (s : State) : Host.Outcome State Fault Refusal := .next (regCmd q Rg.WEEVIL_ARM 0x564C s)

/-- WEEVIL_DISARM (R499): a write of 0, or of another value while KEY1 is 0. -/
def execWeevilDisarm (q : Req) (v : W32) (s : State) : Host.Outcome State Fault Refusal := .next (regCmd q Rg.WEEVIL_ARM v s)

/-- WEEVIL_KEY1_EXPIRY (R499). -/
def execWeevilKey1Expiry (s : State) : Host.Outcome State Fault Refusal :=
  .next (eventIf (fun s => rdB s Rg.WEEVIL_STAT 3 && decide (s.weevil.keyEnd ≤ linSub s)) (wrB Rg.WEEVIL_STAT 3 false) s)

/-- WEEVIL_FIRE (R506). -/
def execWeevilFire (q : Req) (v : W32) (s : State) : Host.Outcome State Fault Refusal := .next (regCmd q Rg.WEEVIL_FIRE v s)

/-- A unit passes its point (R503): it is taken on from there as one that was never held. -/
def unitPasses (u : WvUnit) (s : State) : State :=
  match u with
  | .reg q p v => liveInput hyHostWrite (writePlace q p v) s
  | .door q p tail head => liveInput hyHostWrite (doorBoth q p tail head) s
  | .cfg op => cfgDo op s
  | .win off data => inputOf hyHostWrite 0 (off + 0x2000000000000) data (winAccess off 0 (some data)) s
  | .msg m => emit m s
  | .cam port k => camTake port k s
  | .ethRx m f => ethTake m f s
  | .ethTx m f => emit (.frame m f) s
  | .slinkRx i f root => flitRecv i f root s
  | .slinkTx i f => emit (.flit i f) s

/-- The next unit of a point's store is released, where one is due. -/
def unitRelease (pt : Nat) (s : State) : State :=
  match wvDue s pt with
  | some h => unitPasses h.unit (wvTake h s)
  | none => s

/-- WEEVIL_UNIT_RELEASE (R503). -/
def execWeevilUnitRelease (point : Nat) (s : State) : Host.Outcome State Fault Refusal := .next (event (unitRelease point) s)

/-! ## Run control -/

/-- DEBUG_ALLOW_WRITE (R510). -/
def execDebugAllowWrite (q : Req) (v : W32) (s : State) : Host.Outcome State Fault Refusal := .next (regCmd q Rg.DEBUG_CTRL v s)

/-- DEBUG_HALT (R514, R515): of pair h at a pc, by a trigger or by a halt request. -/
def execDebugHalt (h pc : Nat) (trigger : Bool) (s : State) : Host.Outcome State Fault Refusal :=
  .next (event (pairHalt h pc trigger) s)

/-- DEBUG_RESUME (R512). -/
def execDebugResume (h : Nat) (s : State) : Host.Outcome State Fault Refusal :=
  .next (eventIf (fun s => decide (h < 4) && debugAllow s && resumeReq s h) (pairResume h) s)

/-- DEBUG_STEP (R512). -/
def execDebugStep (h : Nat) (s : State) : Host.Outcome State Fault Refusal := .next (event (pairStep h) s)

/-- ACCESS_REGISTER (R512). -/
def execAccessRegister (h n : Nat) (write : Option W32) (s : State) : Host.Outcome State Fault Refusal :=
  .next (event (accessRegister h n write) s)

/-! ## System Bus Access -/

/-- The error field of sbcs (R512). -/
def sbaError (e : Nat) (s : State) : State := putDm 0x38 (setFld (dmReg s 0x38) 14 12 e) s

/-- What a System Bus Access reads goes to sbdata0 and to the debugger. -/
def sbaData (v : Nat) (s : State) : State := emit (.readData 0x48 v) (putDm 0x3C (w32 v) s)

/-- A System Bus Access of the register space: bytes of one word (R55, R513). -/
def sbaReg (off size : Nat) (write : Option W32) (s : State) : State :=
  let sh := 8 * (off % 4)
  match write with
  | some v =>
    let q : Req := { origin := 0x48, be := (2 ^ size - 1) * 2 ^ (off % 4) }
    anyWrite q (.space (off / 4 * 4)) (w32 (v.toNat % 2 ^ (8 * size) * 2 ^ sh)) s
  | none =>
    let (w, s) := regRead 0x48 (off / 4 * 4) s
    sbaData (w.toNat / 2 ^ sh % 2 ^ (8 * size)) s

/-- A System Bus Access of the guard memories (R513); an uncorrectable error in one raises GUARD_ECC (R463). -/
def sbaGuard (a size : Nat) (write : Option W32) (err : Bool) (s : State) : State :=
  match write with
  | some v => guardWrite a (toLE size v.toNat) s
  | none =>
    let (v, s) := guardRead a size s
    sbaData v (if err then raiseFault 12 Pg.GUARD (a % 0x100000000) 0 s else s)

/-- A System Bus Access (R513). -/
def sbaRun (a size : Nat) (write : Option W32) (err : Bool) (s : State) : State :=
  if !debugAllow s then s
  else if !(size == 1 || size == 2 || size == 4) then sbaError 4 s
  else if a % size != 0 then sbaError 3 s
  else if 0x40000000 ≤ a && a < 0x50000000 then sbaReg (a - 0x40000000) size write s
  else sbaGuard a size write err s

/-- SYSTEM_BUS_ACCESS (R513). -/
def execSystemBusAccess (addr size : Nat) (write : Option W32) (err : Bool) (s : State) : Host.Outcome State Fault Refusal :=
  .next (event (sbaRun addr size write err) s)

/-! ## The TAP -/

/-- An event of the TAP, which runs whenever it is powered (R511). -/
def tapEvent (f : State → State) (s : State) : Host.Outcome State Fault Refusal :=
  .next (eventIf (fun s => s.boot.powered) f s)

/-- IDCODE (R511). -/
def execIdcode (s : State) : Host.Outcome State Fault Refusal :=
  tapEvent (fun s => emit (.tdo 1 (idcode s)) (tapSelect 1 s)) s

/-- EXTEST (R511). -/
def execExtest (data : Nat) (s : State) : Host.Outcome State Fault Refusal := tapEvent (tapBoundary 0 data) s

/-- SAMPLE_PRELOAD (R511). -/
def execSamplePreload (data : Nat) (s : State) : Host.Outcome State Fault Refusal := tapEvent (tapBoundary 2 data) s

/-- CLAMP (R511). -/
def execClamp (s : State) : Host.Outcome State Fault Refusal := tapEvent (tapBypass 3) s

/-- HIGHZ (R511). -/
def execHighz (s : State) : Host.Outcome State Fault Refusal := tapEvent (tapBypass 4) s

/-- BYPASS (R511): any instruction that is not available. -/
def execBypass (ir : Nat) (s : State) : Host.Outcome State Fault Refusal :=
  tapEvent (fun s => tapBypass (if tapAvail s ir then 0x1F else ir) s) s

/-- DTMCS (R512). -/
def execDtmcs (v : Nat) (s : State) : Host.Outcome State Fault Refusal := tapEvent (tapDtmcs v) s

/-- DMI (R512). -/
def execDmi (op addr data : Nat) (s : State) : Host.Outcome State Fault Refusal := tapEvent (tapDmi op addr data) s

/-- TAP_RESET (R511). -/
def execTapReset (s : State) : Host.Outcome State Fault Refusal := tapEvent (tapSelect 1) s

/-! ## The hold and the trace -/

/-- HOLD_REQ (R518). -/
def execHoldReq (q : Req) (v : W32) (s : State) : Host.Outcome State Fault Refusal :=
  .next (regCmd q Rg.DEBUG_HOLD_CTRL (v ||| 1) s)

/-- HOLD_RELEASE (R519). -/
def execHoldRelease (q : Req) (v : W32) (s : State) : Host.Outcome State Fault Refusal :=
  .next (regCmd q Rg.DEBUG_HOLD_CTRL (v ||| 2) s)

/-- TRACE_MARK (R516). -/
def execTraceMark (q : Req) (v : W32) (s : State) : Host.Outcome State Fault Refusal := .next (regCmd q Rg.DEBUG_TRACE_MARK v s)

/-- TRACE_DATA_READ (R516). -/
def execTraceDataRead (o : Nat) (s : State) : Host.Outcome State Fault Refusal := .next (readCmd o Rg.DEBUG_TRACE_DATA false s)

end Sys2Proof.Machine
end

