-- ==== Sys2Proof/Machine/DisplayCmds.lean ====
section
/-! DEFINITION. The commands of Wingcase and DSI (R375 to R401), and of Choir and its ports (R404 to R420). -/
namespace Sys2Proof.Machine

/-! ## Display heads -/

/-- A line-table entry is written with origin 0 and AUX 0 (R76, R390). -/
def tableWrite (p off : Nat) (v : W32) (s : State) : State := writePlace { origin := 0 } (.dev (p * 0x1000 + off)) v s

/-- The set of a head's next display line is not latched yet (R375). -/
def setDue (s : State) (h : Nat) : Bool :=
  s.clk.running && decide (h < 2) && (match (wHead s h).set with
    | some w => w.line != (wHead s h).next
    | none => true)

/-- SET_BOUNDARY (R375, R390): of the head's next display line, with the byte addresses whose reads come back poisoned. -/
def execSetBoundary (h : Nat) (bad : List Nat) (s : State) : Host.Outcome State Fault Refusal :=
  .next (eventIf (fun s => setDue s h)
    (fun s => setLatch h (wHead s h).next bad (tableApply tableWrite h (wHead s h).next s)) s)

/-- DISPLAY_LINE_START (R387): with the pixels of layers that arrive late. -/
def execDisplayLineStart (h : Nat) (late : List (Nat × Nat × Nat)) (s : State) : Host.Outcome State Fault Refusal :=
  .next (eventIf (fun s => lineDue s h) (lineStart h late) s)

/-- SPRITE_TABLE_FETCH (R383). -/
def execSpriteTableFetch (h : Nat) (late : Bool) (s : State) : Host.Outcome State Fault Refusal :=
  .next (eventIf (fun s => s.clk.running && decide (h < 2)) (spriteFetch h late) s)

/-- Head 0 fetches for a unit event of its line and beat (R389); head 1 by its own display line (R391). -/
def tableFetch (h : Nat) (s : State) : State :=
  if h == 0 then
    match s.cantor.events.find? fun e => e.unit == 2 && e.beat ≤ s.clk.beat with
    | none => s
    | some e => segFetch 0 e.arg none { s with cantor := { s.cantor with events := s.cantor.events.erase e } }
  else
    match lt1Due s with
    | none => s
    | some k => segFetch 1 (rd64 s (Rg.WINGCASE_LT1_BASE_LO + 0x1000) + 2112 * k) (some (32 * k)) s

/-- LINE_TABLE_FETCH (R389, R391). -/
def execLineTableFetch (h : Nat) (s : State) : Host.Outcome State Fault Refusal :=
  .next (eventIf (fun s => s.clk.running && decide (h < 2)) (tableFetch h) s)

/-- LINE_TABLE_LOADED (R389). -/
def execLineTableLoaded (h : Nat) (s : State) : Host.Outcome State Fault Refusal :=
  .next (eventIf (fun _ => decide (h < 2)) (segLoaded h) s)

/-- PAL_DATA_WRITE (R378). -/
def execPalDataWrite (q : Req) (h : Nat) (v : W32) (s : State) : Host.Outcome State Fault Refusal :=
  .next (if h < 2 then regCmd q (wcReg Rg.WINGCASE_PAL_DATA h) v s else s)

/-- PAL_DATA_READ (R378). -/
def execPalDataRead (o h : Nat) (s : State) : Host.Outcome State Fault Refusal :=
  .next (if h < 2 then readCmd o (wcReg Rg.WINGCASE_PAL_DATA h) false s else s)

/-- SAFE_ONLY_WRITE (R397). -/
def execSafeOnlyWrite (q : Req) (h : Nat) (v : W32) (s : State) : Host.Outcome State Fault Refusal :=
  .next (if h < 2 then regCmd q (wcReg Rg.WINGCASE_HEAD_CTRL h) v s else s)

/-- DSI_GEN_GO (R401). -/
def execDsiGenGo (q : Req) (v : W32) (s : State) : Host.Outcome State Fault Refusal := .next (regCmd q Rg.DSI_GEN_GO (v ||| 1) s)

/-- DSI_GEN_SEND (R401). -/
def execDsiGenSend (s : State) : Host.Outcome State Fault Refusal := .next (event dsiGenSend s)

/-! ## Choir -/

/-- CHOIR_KEY_ON_WRITE (R408). -/
def execChoirKeyOnWrite (q : Req) (v : W32) (s : State) : Host.Outcome State Fault Refusal := .next (regCmd q Rg.CHOIR_KEY_ON v s)

/-- KEY_ON_ALLOCATE (R409). -/
def execKeyOnAllocate (s : State) : Host.Outcome State Fault Refusal :=
  .next (eventIf (fun s => s.clk.running) keyAllocate s)

/-- KEY_OFF (R411). -/
def execKeyOff (q : Req) (v : W32) (s : State) : Host.Outcome State Fault Refusal := .next (regCmd q Rg.CHOIR_KEY_OFF v s)

/-- AUDIO_SAMPLE (R404): with the voices whose data is late, and the addresses whose reads come back poisoned. -/
def execAudioSample (late bad : List Nat) (s : State) : Host.Outcome State Fault Refusal :=
  .next (event (audioSample late bad) s)

/-- XP_NODE_WRITE (R413). -/
def execXpNodeWrite (q : Req) (v : W32) (s : State) : Host.Outcome State Fault Refusal := .next (regCmd q Rg.CHOIRXP_XP_NODE v s)

/-- DOMAIN_C_SAMPLE (R416). -/
def execDomainCSample (s : State) : Host.Outcome State Fault Refusal := .next (event domainCSample s)

/-- ASRC_LOCK (R418). -/
def execAsrcLock (p : Nat) (s : State) : Host.Outcome State Fault Refusal := .next (event (asrcLock p) s)

/-- ASRC_UNLOCK (R418). -/
def execAsrcUnlock (p : Nat) (s : State) : Host.Outcome State Fault Refusal := .next (event (asrcUnlock p) s)

/-- TDM_FRAME_RECEIVE (R420): the raw slots of a port's frame, or a frame sync that comes early. -/
def execTdmFrameReceive (p : Nat) (raw : List Nat) (early : Bool) (s : State) : Host.Outcome State Fault Refusal :=
  .next (event (tdmReceive p raw early) s)

end Sys2Proof.Machine
end

