-- ==== Sys2Proof/Machine/EvcCmds.lean ====
section
/-! DEFINITION. The commands of the event controller (R194 to R211). -/
namespace Sys2Proof.Machine

/-- EVC_DOORBELL (R196). -/
def execEvcDoorbell (q : Req) (v : W32) (s : State) : Host.Outcome State Fault Refusal := .next (regCmd q Rg.EVC_DOORBELL v s)

/-- The k-th raise message under way arrives (R194). -/
def raiseArrive (k : Nat) (s : State) : State :=
  match s.evc.inflight[k]? with
  | none => s
  | some src => evTake src { s with evc := { s.evc with inflight := dropAt s.evc.inflight k } }

/-- EVC_RAISE (R194): on an edge of its own, or on the edge of the command before it. -/
def execEvcRaise (k : Nat) (same : Bool) (s : State) : Host.Outcome State Fault Refusal :=
  .next (finish (raiseArrive k (edgeOf same s)))

/-- The held raise with the lowest source number (R194). -/
def heldRaise (s : State) : State :=
  match s.evc.held with
  | [] => s
  | x :: l =>
    let src := l.foldl min x
    evTake src { s with evc := { s.evc with held := s.evc.held.erase src } }

/-- EVC_RAISE_HELD (R194). -/
def execEvcRaiseHeld (s : State) : Host.Outcome State Fault Refusal := .next (event heldRaise s)

/-- FWD_COMMIT (R211). -/
def execFwdCommit (k : Nat) (s : State) : Host.Outcome State Fault Refusal :=
  .next (eventIf (fun _ => decide (k < 64)) (fwdCommit k) s)

/-- EVC_CLAIM (R204). -/
def execEvcClaim (o : Nat) (s : State) : Host.Outcome State Fault Refusal := .next (readCmd o Rg.EVC_CLAIM false s)

/-- EVC_COMPLETE (R205). -/
def execEvcComplete (q : Req) (v : W32) (s : State) : Host.Outcome State Fault Refusal := .next (regCmd q Rg.EVC_COMPLETE v s)

/-- EVC_PEND_SET (R210): the i-th word of 32 sources. -/
def execEvcPendSet (q : Req) (i : Nat) (v : W32) (s : State) : Host.Outcome State Fault Refusal :=
  .next (if i < 128 then regCmd q (Rg.EVCSRC_PEND_SET + i / 16 * 0x1000 + 4 * (i % 16)) v s else s)

/-- EVC_PEND_CLEAR (R210): the i-th word of 32 sources. -/
def execEvcPendClear (q : Req) (i : Nat) (v : W32) (s : State) : Host.Outcome State Fault Refusal :=
  .next (if i < 128 then regCmd q (Rg.EVCSRC_PEND + i / 16 * 0x1000 + 4 * (i % 16)) v s else s)

/-- EVC_CFG_WRITE (R198, R199): the i-th word, the halfwords of two sources; a write covers both (R58). -/
def execEvcCfgWrite (q : Req) (i : Nat) (v : W32) (s : State) : Host.Outcome State Fault Refusal :=
  .next (if i < 2048 then regCmd q (Rg.EVCSRC_CFG + i / 256 * 0x1000 + 4 * (i % 256)) v s else s)

end Sys2Proof.Machine
end

