-- ==== Sys2Proof/Machine/LinkCmds.lean ====
section
/-! DEFINITION. The commands of the Stave Link (R471 to R491) and of the Hymnal (R494 to R496). -/
namespace Sys2Proof.Machine

/-! ## Ports -/

/-- A Stave Link port of the member. -/
def slHere (s : State) (p : Nat) : Bool := decide (p < 2) && present s.member (slPg p)

/-- The port trains (R471). -/
def slTraining (s : State) (p : Nat) : Bool := slHere s p && rdB s (slReg Rg.SLINK_PORT_STAT p) 1

/-- SLINK_ENABLE (R471). -/
def execSlinkEnable (q : Req) (port : Nat) (v : W32) (s : State) : Host.Outcome State Fault Refusal :=
  .next (if port < 2 then regCmd q (hdr (slPg port) Hdr.BLK_CTRL) (v ||| 1) s else s)

/-- SLINK_TRAINED (R471). -/
def execSlinkTrained (port lat : Nat) (s : State) : Host.Outcome State Fault Refusal :=
  .next (eventIf (fun s => slTraining s port) (linkTrained port lat) s)

/-- Training is given up (R471). -/
def trainFail (p : Nat) (s : State) : State := slCount 3 p (wrB (slReg Rg.SLINK_PORT_STAT p) 1 false s)

/-- SLINK_TRAIN_TIMEOUT (R471): after 150 lines. -/
def execSlinkTrainTimeout (port : Nat) (s : State) : Host.Outcome State Fault Refusal :=
  .next (eventIf (fun s => slTraining s port && decide ((linkPort s port).trainLine + 150 ≤ linLine s)) (trainFail port) s)

/-- SLINK_RETRAIN (R472). -/
def execSlinkRetrain (port : Nat) (s : State) : Host.Outcome State Fault Refusal :=
  .next (eventIf (fun s => slHere s port && (linkPort s port).trained) (linkRetrain port) s)

/-- A trained port owes an ID flit: once each line until it has one of its peer (R477). -/
def idDue (s : State) (p : Nat) : Bool :=
  let x := linkPort s p
  slHere s p && x.trained && (!x.idSent || !x.idGot) && decide (x.idLine ≤ linLine s)

/-- SLINK_ID_SEND (R477). -/
def execSlinkIdSend (port : Nat) (s : State) : Host.Outcome State Fault Refusal :=
  .next (eventIf (fun s => idDue s port) (idSend port) s)

/-! ## Flits received -/

/-- A good flit of one kind arrives at a port (R473 to R475); root is the ROOTCLK past the sub-beat's start, or the
round trip that the flit measures. -/
def flitEvent (ok : Nat → Bool) (p : Nat) (l : List Byte) (root : Nat) (s : State) : State :=
  eventIf (fun s => flitIs s p l ok) (flitArrive p l root) s

/-- SLINK_RX_IDLE (R473). -/
def execSlinkRxIdle (port : Nat) (flit : List Byte) (s : State) : Host.Outcome State Fault Refusal :=
  .next (flitEvent (· == 0) port flit 0 s)

/-- SLINK_RX_ID (R477). -/
def execSlinkRxId (port : Nat) (flit : List Byte) (s : State) : Host.Outcome State Fault Refusal :=
  .next (flitEvent (· == 1) port flit 0 s)

/-- SLINK_RX_WRITE (R480). -/
def execSlinkRxWrite (port : Nat) (flit : List Byte) (s : State) : Host.Outcome State Fault Refusal :=
  .next (flitEvent (· == 2) port flit 0 s)

/-- SLINK_RX_EVENT (R481). -/
def execSlinkRxEvent (port : Nat) (flit : List Byte) (s : State) : Host.Outcome State Fault Refusal :=
  .next (flitEvent (· == 3) port flit 0 s)

/-- SLINK_RX_AFTER_FAULT (R483). -/
def execSlinkRxAfterFault (port : Nat) (flit : List Byte) (s : State) : Host.Outcome State Fault Refusal :=
  .next (flitEvent (· == 4) port flit 0 s)

/-- SLINK_RX_BARRIER (R488, R490). -/
def execSlinkRxBarrier (port : Nat) (flit : List Byte) (root : Nat) (s : State) : Host.Outcome State Fault Refusal :=
  .next (flitEvent (· == 5) port flit root s)

/-- SLINK_RX_CAL (R487). -/
def execSlinkRxCal (port : Nat) (flit : List Byte) (s : State) : Host.Outcome State Fault Refusal :=
  .next (flitEvent (· == 6) port flit 0 s)

/-- SLINK_RX_CAL_ECHO (R487). -/
def execSlinkRxCalEcho (port : Nat) (flit : List Byte) (rtt : Nat) (s : State) : Host.Outcome State Fault Refusal :=
  .next (flitEvent (· == 7) port flit rtt s)

/-- SLINK_RX_NAK (R475). -/
def execSlinkRxNak (port : Nat) (flit : List Byte) (s : State) : Host.Outcome State Fault Refusal :=
  .next (flitEvent (· == 8) port flit 0 s)

/-- SLINK_RX_RESERVED (R474). -/
def execSlinkRxReserved (port : Nat) (flit : List Byte) (s : State) : Host.Outcome State Fault Refusal :=
  .next (flitEvent (fun t => decide (9 ≤ t)) port flit 0 s)

/-- SLINK_RX_BAD_CRC (R475). -/
def execSlinkRxBadCrc (port : Nat) (flit : List Byte) (s : State) : Host.Outcome State Fault Refusal :=
  .next (eventIf (fun s => slHere s port && (linkPort s port).trained && !flitGood flit) (flitArrive port flit 0) s)

/-- CAL_ECHO_SEND (R487). -/
def execCalEchoSend (s : State) : Host.Outcome State Fault Refusal := .next (event calEcho s)

/-- BARRIER_FORWARD (R488). -/
def execBarrierForward (s : State) : Host.Outcome State Fault Refusal := .next (event forwardFirst s)

/-! ## Requests -/

/-- SLINK_RW_DATA (R479). -/
def execSlinkRwData (q : Req) (v : W32) (s : State) : Host.Outcome State Fault Refusal := .next (regCmd q Rg.SLINK_RW_DATA v s)

/-- SLINK_EV_SEND (R481). -/
def execSlinkEvSend (q : Req) (v : W32) (s : State) : Host.Outcome State Fault Refusal := .next (regCmd q Rg.SLINK_EV_SEND v s)

/-- LOCK_CAL (R487). -/
def execLockCal (q : Req) (v : W32) (s : State) : Host.Outcome State Fault Refusal :=
  .next (regCmd q Rg.SLINK_LOCK_CTRL (v ||| 1) s)

/-- LOCK_CAL_DONE (R487). -/
def execLockCalDone (s : State) : Host.Outcome State Fault Refusal := .next (event calDone s)

/-- LOCK_TAKE (R489). -/
def execLockTake (q : Req) (v : W32) (s : State) : Host.Outcome State Fault Refusal :=
  .next (regCmd q Rg.SLINK_LOCK_CTRL (v ||| 2) s)

/-- The dividers are released with the conductor's stave, where they stand stopped for it (R489). -/
def lockRelease (s : State) : State :=
  match s.link.take with
  | .stopped n => lockTaken n s
  | _ => s

/-- LOCK_DIVIDER_RELEASE (R489). -/
def execLockDividerRelease (s : State) : Host.Outcome State Fault Refusal := .next (event lockRelease s)

/-- LOCK_RELEASE (R491). -/
def execLockRelease (q : Req) (v : W32) (s : State) : Host.Outcome State Fault Refusal :=
  .next (regCmd q Rg.SLINK_LOCK_CTRL (v ||| 4) s)

/-! ## The Hymnal -/

/-- HYMNAL_ENABLE (R494, R495). -/
def execHymnalEnable (q : Req) (v : W32) (s : State) : Host.Outcome State Fault Refusal :=
  .next (regCmd q (hdr Pg.HYMNAL Hdr.BLK_CTRL) (v ||| 1) s)

/-- HYMNAL_RD_SEQ_WRITE (R494). -/
def execHymnalRdSeqWrite (q : Req) (v : W32) (s : State) : Host.Outcome State Fault Refusal := .next (regCmd q Rg.HYMNAL_RD_SEQ v s)

/-- HYMNAL_WR_SEQ_WRITE (R495). -/
def execHymnalWrSeqWrite (q : Req) (v : W32) (s : State) : Host.Outcome State Fault Refusal := .next (regCmd q Rg.HYMNAL_WR_SEQ v s)

/-- HYMNAL_REPLAY_ISSUE (R495). -/
def execHymnalReplayIssue (s : State) : Host.Outcome State Fault Refusal := .next (event replayIssue s)

/-- HYMNAL_READ_TIMEOUT (R496). -/
def execHymnalReadTimeout (s : State) : Host.Outcome State Fault Refusal := .next (event replayTimeout s)

end Sys2Proof.Machine
end

