-- ==== Sys2Proof/Machine/MemoryCmds.lean ====
section
/-! DEFINITION. The commands of memory, translation, DRAM and the Bridge (R227 to R256). -/
namespace Sys2Proof.Machine

/-- An access of one requester lies within one 64-byte line (R242) and names a half that is there. -/
def accessFits (s : State) (half kind va len : Nat) (data : List Byte) : Bool :=
  let n := if kind == 1 then data.length else len
  decide (0 < n) && decide (va % 64 + n ≤ 64) && (halves s.member).contains half && decide (kind ≤ 3)

/-- MEMORY_ACCESS (R242): kind 0 reads, 1 writes, 2 is an atomic, 3 a near read. -/
def execMemoryAccess (ctx req half job kind va len : Nat) (data : List Byte) (s : State) : Host.Outcome State Fault Refusal :=
  .next (eventIf (fun s => accessFits s half kind va len data)
    (fun s => accessIssue regRead (jobWho s ctx req half job) kind va len data s) s)

/-- What the host answers to the k-th access under way. -/
def accessAnswer (k : Nat) (s : State) : Option (List Byte) :=
  match s.ms.accesses[k]? with
  | some a => arrived a.len s
  | none => none

/-- ACCESS_COMPLETE (R244): the k-th access under way ends, with the error class that it met and where (R251 to R254). -/
def execAccessComplete (k err place : Nat) (data : HostData) (s : State) : Host.Outcome State Fault Refusal :=
  answered data (fun s => accessDone k err place (accessAnswer k s) s) s

/-- Where a page keeps its fault log's tail (R232). -/
def flogTail (page : Nat) : Option Nat :=
  if page == Pg.MMU then some Rg.MMU_FLOG_TAIL
  else if page == Pg.FAULT then some Rg.FAULT_FLOG_TAIL
  else if page == Pg.CANTOR || page == Pg.CANTOR + 1 then some (Rg.CANTOR_FLOG_TAIL + (page - Pg.CANTOR) * 0x1000)
  else if page == Pg.SLINK || page == Pg.SLINK + 1 then some (Rg.SLINK_FLOG_TAIL + (page - Pg.SLINK) * 0x1000)
  else none

/-- FLOG_TAIL_WRITE (R232). -/
def execFlogTailWrite (q : Req) (page : Nat) (v : W32) (s : State) : Host.Outcome State Fault Refusal :=
  .next (match flogTail page with
    | some a => regCmd q a v s
    | none => s)

/-- INV_GO (R227). -/
def execInvGo (q : Req) (v : W32) (s : State) : Host.Outcome State Fault Refusal := .next (regCmd q Rg.MMU_INV_GO v s)

/-- An invalidation runs, and every access that used a removed entry is done (R228). -/
def invMayEnd (s : State) : Bool := rdB s Rg.MMU_INV_STAT 0 && (s.ms.accesses ++ s.ms.stalled).all fun a => !a.dying

/-- INV_DONE (R228). -/
def execInvDone (s : State) : Host.Outcome State Fault Refusal := .next (eventIf invMayEnd invComplete s)

/-- REFRESH_SLOT (R236). -/
def execRefreshSlot (c : Nat) (s : State) : Host.Outcome State Fault Refusal :=
  .next (eventIf (fun s => (channels s.member).contains c && slotDue s c) (refreshSlot c) s)

/-- A poll of MR4 (R237): a changed rate is an input (R494). -/
def mr4Poll (c rate : Nat) (s : State) : State :=
  if rdF s (drReg Rg.DRAMC_STAT c) 6 4 == rate then mr4Read c rate s
  else inputOf hySensor c (hymnKind hySensor 0) (toLE 4 rate) (mr4Read c rate) s

/-- MR4_POLL (R237). -/
def execMr4Poll (c rate : Nat) (s : State) : Host.Outcome State Fault Refusal :=
  .next (eventIf (fun s => (channels s.member).contains c && drTrained s c && decide (rate < 8)) (mr4Poll c rate) s)

/-- DRAMC_ENABLE_WRITE (R240). -/
def execDramcEnableWrite (q : Req) (c : Nat) (v : W32) (s : State) : Host.Outcome State Fault Refusal :=
  .next (if c < 8 then regCmd q (hdr (Pg.DRAMC + c) Hdr.BLK_CTRL) v s else s)

/-- SCRUB_READ (R255): the error class that the read meets in one of its words. -/
def execScrubRead (c word cls : Nat) (s : State) : Host.Outcome State Fault Refusal :=
  .next (eventIf (fun s => (channels s.member).contains c && scrubMay s c && decide (cls ≤ 4)) (scrubRead c word cls) s)

/-- SCRUB_PASS_END (R255). -/
def execScrubPassEnd (c : Nat) (s : State) : Host.Outcome State Fault Refusal :=
  .next (eventIf (fun s => (channels s.member).contains c && scrubBehindDue s c) (scrubBehind c) s)

/-- NRC_INV_ARM (R249). -/
def execNrcInvArm (q : Req) (h : Nat) (v : W32) (s : State) : Host.Outcome State Fault Refusal :=
  .next (if h < 2 then regCmd q (Rg.LLC_NRC_INV + h * 0x1000) v s else s)

/-- BRIDGE_REPLAY (R250). -/
def execBridgeReplay (s : State) : Host.Outcome State Fault Refusal :=
  .next (eventIf bridgeUp (fun s => setEvt Pg.BRIDGE 0 (bridgeAgain s)) s)

/-- BRIDGE_DOWN (R250, R463). -/
def execBridgeDown (s : State) : Host.Outcome State Fault Refusal :=
  .next (eventIf bridgeUp (fun s => raiseFault 10 Pg.BRIDGE 0 0 (setEvt Pg.BRIDGE 1 (bridgeLost s))) s)

end Sys2Proof.Machine
end

