-- ==== Sys2Proof/Machine/PortCmds.lean ====
section
/-! DEFINITION. The commands of the side ports (R435 to R447). -/
namespace Sys2Proof.Machine

/-! ## Ethernet -/

/-- ETH_RX_FRAME (R435): a frame's bytes, its check sequence included. -/
def execEthRxFrame (m : Nat) (frame : List Byte) (s : State) : Host.Outcome State Fault Refusal :=
  .next (eventIf (fun s => decide (m < 2) && ethUp s m) (ethRx m frame) s)

/-- ETH_RX_HEAD_WRITE (R436). -/
def execEthRxHeadWrite (q : Req) (m : Nat) (v : W32) (s : State) : Host.Outcome State Fault Refusal :=
  .next (if m < 2 then regCmd q (ethReg Rg.ETH_RX_HEAD m) v s else s)

/-- ETH_TXQ_TAIL_WRITE (R437): of queue k. -/
def execEthTxqTailWrite (q : Req) (m k : Nat) (v : W32) (s : State) : Host.Outcome State Fault Refusal :=
  .next (if m < 2 && k < 8 then regCmd q (ethReg Rg.ETH_TXQ_TAIL m + 4 * k) v s else s)

/-- ETH_TX_START (R439). -/
def execEthTxStart (m : Nat) (s : State) : Host.Outcome State Fault Refusal :=
  .next (eventIf (fun s => s.clk.running && decide (m < 2)) (txStart m) s)

/-- ETH_TX_DONE (R437). -/
def execEthTxDone (m : Nat) (s : State) : Host.Outcome State Fault Refusal := .next (event (txDone m) s)

/-- ETH_LINK_CHANGE (R441): what LINK_STAT comes to show. -/
def execEthLinkChange (m : Nat) (up : Bool) (speed : Nat) (an : Bool) (s : State) : Host.Outcome State Fault Refusal :=
  .next (event (ethLink m up speed an) s)

/-! ## I3C -/

/-- A write of XFER_GO of bus b, for a transfer of one kind (R443). -/
def xferCmd (ok : Bool) (q : Req) (b : Nat) (v : W32) (s : State) : State :=
  if b < 4 && ok then regCmd q (i3cReg Rg.I3C_XFER_GO b) (v ||| 1) s else s

/-- I3C_PRIVATE_XFER (R443). -/
def execI3cPrivateXfer (q : Req) (b : Nat) (v : W32) (s : State) : Host.Outcome State Fault Refusal :=
  .next (xferCmd (i3cKind s b == 0) q b v s)

/-- I2C_XFER (R443). -/
def execI2cXfer (q : Req) (b : Nat) (v : W32) (s : State) : Host.Outcome State Fault Refusal :=
  .next (xferCmd (i3cKind s b == 1) q b v s)

/-- BROADCAST_CCC (R443). -/
def execBroadcastCcc (q : Req) (b : Nat) (v : W32) (s : State) : Host.Outcome State Fault Refusal :=
  .next (xferCmd (i3cKind s b == 2 && !i3cDaa s b) q b v s)

/-- ENTDAA (R443). -/
def execEntdaa (q : Req) (b : Nat) (v : W32) (s : State) : Host.Outcome State Fault Refusal :=
  .next (xferCmd (i3cDaa s b) q b v s)

/-- DIRECT_CCC (R443). -/
def execDirectCcc (q : Req) (b : Nat) (v : W32) (s : State) : Host.Outcome State Fault Refusal :=
  .next (xferCmd (i3cKind s b == 3) q b v s)

/-- I3C_XFER_DONE (R443): with its result, the bytes moved, and what a read returned. -/
def execI3cXferDone (b result count : Nat) (data : List Byte) (s : State) : Host.Outcome State Fault Refusal :=
  .next (eventIf (fun s => decide (b < 4) && i3cBusy s b) (liveInput hySide (i3cDone b result count data)) s)

/-- I3C_IBI (R444). -/
def execI3cIbi (b addr : Nat) (payload : List Byte) (s : State) : Host.Outcome State Fault Refusal :=
  .next (eventIf (fun s => decide (b < 4) && enabled s (Pg.I3C + b)) (liveInput hySide (i3cIbi b addr payload)) s)

/-- IBI_POP_READ (R444). -/
def execIbiPopRead (o b : Nat) (s : State) : Host.Outcome State Fault Refusal :=
  .next (if b < 4 then readCmd o (i3cReg Rg.I3C_IBI_POP b) false s else s)

/-! ## SPI -/

/-- SPI_CTL_GO (R445). -/
def execSpiCtlGo (q : Req) (k : Nat) (v : W32) (s : State) : Host.Outcome State Fault Refusal :=
  .next (if k < 2 then regCmd q (spiReg Rg.SPI_CTL_GO k) (v ||| 1) s else s)

/-- SPI_TIMED_START (R445). -/
def execSpiTimedStart (k : Nat) (s : State) : Host.Outcome State Fault Refusal :=
  .next (eventIf (fun s => s.clk.running && decide (k < 2)) (spiTimed k) s)

/-- SPI_CTL_DONE (R445). -/
def execSpiCtlDone (k : Nat) (data : List Byte) (s : State) : Host.Outcome State Fault Refusal :=
  .next (eventIf (fun _ => decide (k < 2)) (liveInput hySide (spiDone k data)) s)

/-- SPI_TGT_WRITE (R446). -/
def execSpiTgtWrite (off : Nat) (data : List Byte) (s : State) : Host.Outcome State Fault Refusal :=
  .next (eventIf tgtAnswers (liveInput hySide (tgtWrite (off % 128) data)) s)

/-- SPI_TGT_READ (R446). -/
def execSpiTgtRead (off n : Nat) (s : State) : Host.Outcome State Fault Refusal :=
  .next (eventIf tgtAnswers (tgtRead (off % 128) n) s)

/-- SPI_TGT_STATUS (R446). -/
def execSpiTgtStatus (s : State) : Host.Outcome State Fault Refusal := .next (eventIf tgtAnswers tgtStatus s)

/-- SPI_TGT_BADCMD (R446). -/
def execSpiTgtBadcmd (s : State) : Host.Outcome State Fault Refusal := .next (eventIf tgtAnswers (bumpWrap Rg.SPI_TGT_BADCMD) s)

/-- SPI_PUBLISH (R446). -/
def execSpiPublish (q : Req) (v : W32) (s : State) : Host.Outcome State Fault Refusal :=
  .next (regCmd q Rg.SPI_TGT_CTRL (v ||| 2) s)

/-- SPI_PUBLISH_APPLY (R446). -/
def execSpiPublishApply (s : State) : Host.Outcome State Fault Refusal := .next (event tgtPublish s)

/-- SPI_RX_FULL_CLEAR (R446). -/
def execSpiRxFullClear (q : Req) (v : W32) (s : State) : Host.Outcome State Fault Refusal :=
  .next (regCmd q Rg.SPI_TGT_CTRL (v ||| 1) s)

/-! ## GPIO -/

/-- GPIO_EDGE (R447). -/
def execGpioEdge (pin : Nat) (rising : Bool) (s : State) : Host.Outcome State Fault Refusal :=
  .next (event (liveInput hyGpio (gpioEdge pin rising)) s)

/-- GPIO_OUT_SET (R447). -/
def execGpioOutSet (q : Req) (v : W32) (s : State) : Host.Outcome State Fault Refusal := .next (regCmd q Rg.GPIO_OUT_SET v s)

/-- GPIO_OUT_CLR (R447). -/
def execGpioOutClr (q : Req) (v : W32) (s : State) : Host.Outcome State Fault Refusal := .next (regCmd q Rg.GPIO_OUT_CLR v s)

end Sys2Proof.Machine
end

