-- ==== Sys2Proof/Machine/Registers.lean ====
section
/-! DEFINITION. The commands of register pages, authority and the change roll (R63 to R95, R104). -/
namespace Sys2Proof.Machine

/-- REGISTER_WRITE (R63): a write to a register that has no row of its own. -/
def execRegisterWrite (q : Req) (p : Place) (v : W32) (s : State) : Host.Outcome State Fault Refusal :=
  .next (writeCmd q p v s)

/-- ROLL_HELD_WRITE (R88): the next edge checks the writes held again. -/
def execRollHeldWrite (s : State) : Host.Outcome State Fault Refusal := .next (event (fun s => s) s)

/-- EVT_SET_WRITE (R74). -/
def execEvtSetWrite (q : Req) (page : Nat) (v : W32) (s : State) : Host.Outcome State Fault Refusal :=
  .next (regCmd q (hdr page Hdr.EVT_SET) v s)

/-- STAGE_DISCARD (R70). -/
def execStageDiscard (q : Req) (page : Nat) (v : W32) (s : State) : Host.Outcome State Fault Refusal :=
  .next (regCmd q (hdr page Hdr.PAGE_STAGE) (v ||| 2) s)

/-- SOFT_RESET (R104). -/
def execSoftReset (q : Req) (page : Nat) (v : W32) (s : State) : Host.Outcome State Fault Refusal :=
  .next (regCmd q (hdr page Hdr.BLK_CTRL) (v ||| 2) s)

/-- BLOCK_RESET_DONE (R104). -/
def execBlockResetDone (page : Nat) (s : State) : Host.Outcome State Fault Refusal :=
  .next (eventIf (fun s => (kvFind s.resetting page).isSome) (blockResetAll page) s)

/-- PAGE_OWNER_WRITE (R80). -/
def execPageOwnerWrite (q : Req) (page : Nat) (v : W32) (s : State) : Host.Outcome State Fault Refusal :=
  .next (regCmd q (hdr page Hdr.PAGE_OWNER) v s)

/-- PAGE_WMASK_WRITE (R79). -/
def execPageWmaskWrite (q : Req) (page : Nat) (v : W32) (s : State) : Host.Outcome State Fault Refusal :=
  .next (regCmd q (hdr page Hdr.PAGE_WMASK) v s)

/-- GUARD_HDR_LOCK (R84). -/
def execGuardHdrLock (q : Req) (v : W32) (s : State) : Host.Outcome State Fault Refusal :=
  .next (regCmd q Rg.AUTH_LOCK (v ||| 1) s)

/-- ALL_HDR_LOCK (R84). -/
def execAllHdrLock (q : Req) (v : W32) (s : State) : Host.Outcome State Fault Refusal :=
  .next (regCmd q Rg.AUTH_LOCK (v ||| 2) s)

/-- ROLL_MODE_WRITE (R93). -/
def execRollModeWrite (q : Req) (v : W32) (s : State) : Host.Outcome State Fault Refusal :=
  .next (regCmd q Rg.ROLL_CTRL v s)

/-- ROLL_TAIL_WRITE (R95). -/
def execRollTailWrite (q : Req) (v : W32) (s : State) : Host.Outcome State Fault Refusal :=
  .next (regCmd q Rg.ROLL_TAIL_SEQ v s)

/-- ROLL_RD_SEQ_WRITE (R94). -/
def execRollRdSeqWrite (q : Req) (v : W32) (s : State) : Host.Outcome State Fault Refusal :=
  .next (regCmd q Rg.ROLL_RD_SEQ v s)

/-- ROLL_RD_DATA0_READ (R94). -/
def execRollRdData0Read (o : Nat) (same : Bool) (s : State) : Host.Outcome State Fault Refusal :=
  .next (readCmd o Rg.ROLL_RD_DATA same s)

/-- ROLL_RD_DATA7_READ (R94). -/
def execRollRdData7Read (o : Nat) (s : State) : Host.Outcome State Fault Refusal :=
  .next (readCmd o (Rg.ROLL_RD_DATA + 28) false s)

end Sys2Proof.Machine
end

