-- ==== Sys2Proof/Machine/SafetyCmds.lean ====
section
/-! DEFINITION. The commands of safety (R451 to R468) and of the rail requests (R542). -/
namespace Sys2Proof.Machine

/-- The k-th signature under way arrives (R451). -/
def sigArrive (k : Nat) (s : State) : State :=
  match s.safety.sigs[k]? with
  | none => s
  | some m => roundArrive m { s with safety := { s.safety with sigs := dropAt s.safety.sigs k } }

/-- ROUND_SIGNATURE (R451, R452). -/
def execRoundSignature (k : Nat) (s : State) : Host.Outcome State Fault Refusal := .next (event (sigArrive k) s)

/-- A round's deadline beat has come with fewer than two credits (R452). -/
def roundDeadline (id : Nat) (s : State) : State :=
  match roundOf s id with
  | some e => if deadlineDue s e then roundIncomplete e s else s
  | none => s

/-- ROUND_DEADLINE (R452). -/
def execRoundDeadline (id : Nat) (s : State) : Host.Outcome State Fault Refusal := .next (event (roundDeadline id) s)

/-- UNISON_MISMATCH (R455): of pair h, with the pc at which it stops. -/
def execUnisonMismatch (h pc : Nat) (s : State) : Host.Outcome State Fault Refusal :=
  .next (eventIf (fun s => decide (h < 4) && hartRunning s h) (unisonStop h pc) s)

/-- HART_RESTART (R456). -/
def execHartRestart (q : Req) (h : Nat) (v : W32) (s : State) : Host.Outcome State Fault Refusal :=
  .next (if h < 4 then regCmd q (Rg.HART_CTRL + h * 0x1000) (v ||| 1) s else s)

/-- AW_CFG_WRITE (R457). -/
def execAwCfgWrite (q : Req) (w : Nat) (v : W32) (s : State) : Host.Outcome State Fault Refusal :=
  .next (if w < 256 then regCmd q (Rg.AGEWATCH_AW_CFG + 4 * w) v s else s)

/-- AW_FEED_WRITE (R458). -/
def execAwFeedWrite (q : Req) (v : W32) (s : State) : Host.Outcome State Fault Refusal :=
  .next (regCmd q Rg.AGEWATCH_AW_FEED v s)

/-- AGE_EXPIRY (R459). -/
def execAgeExpiry (w : Nat) (s : State) : Host.Outcome State Fault Refusal :=
  .next (eventIf (fun s => decide (w < 256) && watchDue s w) (watchExpire w) s)

/-- SAFETY_FENCE_WRITE (R462). -/
def execSafetyFenceWrite (q : Req) (v : W32) (s : State) : Host.Outcome State Fault Refusal :=
  .next (regCmd q Rg.SAFETY_FENCE v s)

/-- FAULT_RAISE_WRITE (R463). -/
def execFaultRaiseWrite (q : Req) (v : W32) (s : State) : Host.Outcome State Fault Refusal :=
  .next (regCmd q Rg.FAULT_RAISE v s)

/-- CLASS_MAP_WRITE (R464). -/
def execClassMapWrite (q : Req) (v : W32) (s : State) : Host.Outcome State Fault Refusal :=
  .next (regCmd q Rg.FAULT_CLASS_MAP v s)

/-- CLASS_LOCK_WRITE (R464). -/
def execClassLockWrite (q : Req) (v : W32) (s : State) : Host.Outcome State Fault Refusal :=
  .next (regCmd q Rg.FAULT_CLASS_LOCK (v ||| 1) s)

/-- PIN_RELEASE_WRITE (R467). -/
def execPinReleaseWrite (q : Req) (v : W32) (s : State) : Host.Outcome State Fault Refusal :=
  .next (regCmd q Rg.FAULT_PIN (v ||| 4) s)

/-- FAULT_N_RELEASE (R467). -/
def execFaultNRelease (s : State) : Host.Outcome State Fault Refusal :=
  .next (eventIf (fun s => rdB s Rg.FAULT_PIN 3 && pinWaited s) pinRelease s)

/-- WDOG_CFG_WRITE (R468). -/
def execWdogCfgWrite (q : Req) (v : W32) (s : State) : Host.Outcome State Fault Refusal :=
  .next (regCmd q Rg.FAULT_WDOG_CFG v s)

/-- WDOG_KICK (R468). -/
def execWdogKick (q : Req) (v : W32) (s : State) : Host.Outcome State Fault Refusal :=
  .next (regCmd q Rg.FAULT_WDOG_KICK v s)

/-- WDOG_EXPIRY (R468). -/
def execWdogExpiry (s : State) : Host.Outcome State Fault Refusal := .next (eventIf wdogDue wdogExpire s)

/-- AVS_REQUEST (R542). -/
def execAvsRequest (half : Nat) (s : State) : Host.Outcome State Fault Refusal :=
  .next (eventIf (fun s => avsDue s half) (avsRequest half) s)

/-- AVS_ACK (R542). -/
def execAvsAck (half : Nat) (s : State) : Host.Outcome State Fault Refusal :=
  .next (eventIf (fun s => (avsHalf s half).req.isSome) (avsAck half) s)

/-- AVS_RETRY (R542). -/
def execAvsRetry (half : Nat) (s : State) : Host.Outcome State Fault Refusal :=
  .next (eventIf (fun s => avsRetryDue s half) (avsRetry half) s)

end Sys2Proof.Machine
end

