-- ==== Sys2Proof/Machine/ScoreCmds.lean ====
section
/-! DEFINITION. The commands of Cantor (R267 to R284, R293 to R296). -/
namespace Sys2Proof.Machine

/-- SCORE_LOAD_GO (R267). -/
def execScoreLoadGo (q : Req) (v : W32) (s : State) : Host.Outcome State Fault Refusal :=
  .next (regCmd q Rg.CANTOR_LOAD (v ||| 1) s)

/-- Validation ends, in ARMED or REFUSED (R267). -/
def loadDone (s : State) : State :=
  match s.cantor.validating with
  | none => s
  | some addr =>
    let s := setEvt Pg.CANTOR 2 { s with cantor := { s.cantor with validating := none } }
    match readScore s addr with
    | .ok c => cantorRaise 0 0x83 (setLoadState 2 0 0 0 { s with cantor := { s.cantor with armed := some c } })
    | .error e => cantorRaise 0 0x84 (loadRefused e s)

/-- SCORE_LOAD_DONE (R267). Undefined after a write to the image (R270, UB-1202). -/
def execScoreLoadDone (s : State) : Host.Outcome State Fault Refusal :=
  if s.cantor.imageWritten then .fault .imageWritten else .next (event loadDone s)

/-- SCORE_LOAD_CANCEL (R267). -/
def execScoreLoadCancel (q : Req) (v : W32) (s : State) : Host.Outcome State Fault Refusal :=
  .next (regCmd q Rg.CANTOR_LOAD (v ||| 2) s)

/-- TASK_FIRE (R279). -/
def execTaskFire (core : Nat) (s : State) : Host.Outcome State Fault Refusal :=
  .next (eventIf (fun s => s.clk.running && corePresent s.member core) (tryFire core) s)

/-- The task of a core that is due to slip, slips (R281). -/
def taskSlip (core : Nat) (s : State) : State :=
  match slipDue s core with
  | some w => if fenced s (Pg.CORE + core) then s else slipTask w (slipCause s w) s
  | none => s

/-- TASK_SLIP (R281). -/
def execTaskSlip (core : Nat) (s : State) : Host.Outcome State Fault Refusal :=
  .next (eventIf (fun s => s.clk.running && corePresent s.member core) (taskSlip core) s)

/-- At its planned beat, a task on a fenced core ends its job (R284). -/
def fencedCancel (core : Nat) (s : State) : State :=
  if !fenced s (Pg.CORE + core) then s
  else match begun s core with
    | w :: _ => jobEnd w.job 0x0404 0 core w.task.idx s
    | [] => s

/-- FENCED_TASK_CANCEL (R284). -/
def execFencedTaskCancel (core : Nat) (s : State) : Host.Outcome State Fault Refusal :=
  .next (eventIf (fun s => s.clk.running && corePresent s.member core) (fencedCancel core) s)

/-- TASK_END (R296). Undefined after a write to the task's command stream (R297, UB-1301). -/
def execTaskEnd (core : Nat) (s : State) : Host.Outcome State Fault Refusal :=
  if streamHit s core then .fault .streamWritten
  else .next (eventIf (fun s => taskEnds s core) (taskDone core) s)

/-- SPAN_END (R280). -/
def execSpanEnd (half job : Nat) (s : State) : Host.Outcome State Fault Refusal :=
  .next (event (spanEnd (invKey half (job % 4096))) s)

/-- The k-th token under way reaches its slot (R275). -/
def tokenArrive (k : Nat) (s : State) : State :=
  match s.cantor.tokens[k]? with
  | none => s
  | some t => tokenAct t { s with cantor := { s.cantor with tokens := dropAt s.cantor.tokens k } }

/-- TOKEN_ARRIVAL (R275). -/
def execTokenArrival (k : Nat) (s : State) : Host.Outcome State Fault Refusal := .next (event (tokenArrive k) s)

/-- CANTOR_TOKEN_WRITE (R278). -/
def execCantorTokenWrite (q : Req) (h : Nat) (v : W32) (s : State) : Host.Outcome State Fault Refusal :=
  .next (if h < 2 then regCmd q (Rg.CANTOR_TOKEN + h * 0x1000) v s else s)

/-- CANTOR_TOKEN_AT_WRITE (R278). -/
def execCantorTokenAtWrite (q : Req) (h : Nat) (v : W32) (s : State) : Host.Outcome State Fault Refusal :=
  .next (if h < 2 then regCmd q (Rg.CANTOR_TOKEN_AT + h * 0x1000) v s else s)

/-- COMMAND_FETCH (R293): for the running task of a core, or for the wait-th task of its ready list. Undefined after a
write to the stream (R297, UB-1301). -/
def execCommandFetch (core : Nat) (wait : Option Nat) (data : HostData) (s : State) : Host.Outcome State Fault Refusal :=
  if streamHit s core then .fault .streamWritten
  else answered data (fun s => match wait with
    | some n => fetchReady regRead core n s
    | none => fetchRun regRead core s) s

/-- COMMAND_COMPLETE (R294). -/
def execCommandComplete (core unit : Nat) (s : State) : Host.Outcome State Fault Refusal :=
  .next (event (completeCmd core unit) s)

end Sys2Proof.Machine
end

