-- ==== Sys2Proof/Machine/Startup.lean ====
section
/-! DEFINITION. The commands of power, reset, clocks and boot (R26 to R29, R97, R102 to R121, R538, R548). -/
namespace Sys2Proof.Machine

/-! ## Power and PORST_N -/

/-- The Guard die runs: powered, and out of PORST_N. -/
def guardRuns (s : State) : Bool := s.boot.powered && s.boot.porstN

/-- VDD_GRD rises (R548): S0, with POWER_ON as the cause of the cold reset. -/
def powerOn (s : State) : State :=
  let t := coldReset 0 s
  emit (.faultN false) { t with boot := { t.boot with powered := true, porstN := false } }

/-- VDD_GRD is lost (R102). -/
def powerLost (s : State) : State :=
  let t := coldReset 0 s
  { t with boot := { t.boot with powered := false, porstN := false } }

/-- POWER_ON (R548). -/
def execPowerOn (s : State) : Host.Outcome State Fault Refusal :=
  .next (eventIf (fun s => !s.boot.powered) powerOn s)

/-- VDD_GRD_LOSS (R102). -/
def execVddGrdLoss (s : State) : Host.Outcome State Fault Refusal :=
  .next (eventIf (fun s => s.boot.powered) powerLost s)

/-- PORST_N_RISE (R26). Without power it departs from R97 (UB-0501). -/
def execPorstNRise (straps : Nat) (s : State) : Host.Outcome State Fault Refusal :=
  if !s.boot.powered then .fault .powerSequence
  else .next (eventIf (fun s => !s.boot.porstN) (beginS1 straps) s)

/-- PORST_N_PULSE (R97): PORST_N low for a number of REFCLK, with the straps that its rise samples. -/
def execPorstNPulse (refclk straps : Nat) (s : State) : Host.Outcome State Fault Refusal :=
  .next (eventIf guardRuns (porstPulse refclk straps) s)

/-- WARM_N_PULSE (R102). -/
def execWarmNPulse (refclk : Nat) (s : State) : Host.Outcome State Fault Refusal :=
  .next (eventIf guardRuns (warmPulse refclk) s)

/-- GUARD_RESET_COLD (R121). -/
def execGuardResetCold (q : Req) (v : W32) (s : State) : Host.Outcome State Fault Refusal :=
  .next (regCmd q Rg.GUARD_RESET (v ||| 1) s)

/-- GUARD_RESET_WARM (R103). -/
def execGuardResetWarm (q : Req) (v : W32) (s : State) : Host.Outcome State Fault Refusal :=
  .next (regCmd q Rg.GUARD_RESET (v ||| 2) s)

/-- GUARD_RESET_STAVE (R105). -/
def execGuardResetStave (q : Req) (v : W32) (s : State) : Host.Outcome State Fault Refusal :=
  .next (regCmd q Rg.GUARD_RESET (v ||| 4) s)

/-! ## Clocks -/

/-- XSPI_FIRST_READ (R538). -/
def execXspiFirstRead (s : State) : Host.Outcome State Fault Refusal :=
  .next (eventIf (fun s => inStage s 1 && strapXspi s && s.boot.xspiResetN)
    (fun s => { s with boot := { s.boot with xspiRead := true } }) s)

/-- The root PLL has not locked yet in S1 (R26). -/
def rootAwaited (s : State) : Bool := inStage s 1 && !rdB s Rg.CLOCK_STAT 0 && !s.clk.released

/-- ROOT_LOCK (R26). -/
def execRootLock (s : State) : Host.Outcome State Fault Refusal :=
  .next (eventIf rootAwaited (wrB Rg.CLOCK_STAT 0 true) s)

/-- ROOT_LOCK_TIMEOUT (R26, R108). -/
def execRootLockTimeout (s : State) : Host.Outcome State Fault Refusal :=
  .next (eventIf rootAwaited (bootFail 0x11 0) s)

/-- The dividers are held, and the root PLL is locked (R26). -/
def releaseMay (s : State) : Bool := guardRuns s && rdB s Rg.CLOCK_STAT 0 && !s.clk.released

/-- DIVIDER_RELEASE (R25, R26): the counter and the display heads start. -/
def execDividerRelease (s : State) : Host.Outcome State Fault Refusal :=
  .next (eventIf releaseMay (fun s => headRestart 1 (headRestart 0 (dividerRelease s))) s)

/-- HART_CLOCK_SWITCH (R26): one beat after divider release. -/
def execHartClockSwitch (s : State) : Host.Outcome State Fault Refusal :=
  .next (eventIf (fun s => s.clk.running && s.clk.released && decide (1 ≤ linBeat s))
    (fun s => { s with clk := { s.clk with hartFab := true } }) s)

/-- LOCK_LOST (R28). -/
def execLockLost (s : State) : Host.Outcome State Fault Refusal :=
  .next (eventIf (fun s => rdB s Rg.CLOCK_STAT 0) lockLost s)

/-- XPLL_LOST (R85): bit pll of CLOCK.STAT names the PLL. -/
def execXpllLost (pll : Nat) (s : State) : Host.Outcome State Fault Refusal :=
  .next (eventIf (fun s => decide (2 ≤ pll) && decide (pll ≤ 5) && rdB s Rg.CLOCK_STAT pll) (xpllLost pll) s)

/-- A changed REF_PPM is an input (R494). -/
def refInput (ppm : Int) (s : State) : State :=
  let t := refCheck ppm s
  if rd t Rg.CLOCK_REF_PPM == rd s Rg.CLOCK_REF_PPM then t
  else inputOf hySensor 0 (hymnKind hySensor 2) (toLE 4 (unsigned 32 ppm)) (refCheck ppm) s

/-- REF_CHECK (R29). -/
def execRefCheck (ppm : Int) (s : State) : Host.Outcome State Fault Refusal :=
  .next (eventIf guardRuns (refInput ppm) s)

/-! ## Boot stages -/

/-- IMAGE_SLOT_CHECK (R115). -/
def execImageSlotCheck (img : List Byte) (s : State) : Host.Outcome State Fault Refusal :=
  .next (eventIf slotReads (slotCheck img) s)

/-- FLASH_TIMEOUT (R106). -/
def execFlashTimeout (s : State) : Host.Outcome State Fault Refusal :=
  .next (eventIf slotReads (slotFail 0x14) s)

/-- BOOT_STAGE_TIMEOUT (R108): code names the failure, and info what FAIL_INFO shows of it. -/
def execBootStageTimeout (code info : Nat) (s : State) : Host.Outcome State Fault Refusal :=
  .next (eventIf (fun s => failCodeOk s code) (fun s => bootFail code (failInfo s code info) s) s)

/-- TUNE_LOAD (R117, R118). -/
def execTuneLoad (readError : Bool) (s : State) : Host.Outcome State Fault Refusal :=
  .next (eventIf (fun s => inStage s 2) (tuneLoad readError) s)

/-- DDR_TRAIN_DONE (R106): with the MR4 code that each channel's first poll reads. -/
def execDdrTrainDone (mr4 : List Nat) (s : State) : Host.Outcome State Fault Refusal :=
  .next (eventIf (fun s => inStage s 3) (ddrTrained mr4) s)

/-- FABRIC_INIT_DONE (R106). -/
def execFabricInitDone (s : State) : Host.Outcome State Fault Refusal :=
  .next (eventIf (fun s => inStage s 4) fabricInit s)

/-- S5_COMPLETE (R106): with the speed and width that the link trained to, if it was not up. -/
def execS5Complete (speed width : Nat) (s : State) : Host.Outcome State Fault Refusal :=
  .next (eventIf (fun s => inStage s 5 && s.boot.imageOk && !s.boot.s5done) (s5Complete speed width) s)

/-- DL_GO (R112). -/
def execDlGo (s : State) : Host.Outcome State Fault Refusal := .next (event (cfgArrive (.write 0 0x270 1)) s)

/-- DL_RESTART (R112). -/
def execDlRestart (s : State) : Host.Outcome State Fault Refusal := .next (event (cfgArrive (.write 0 0x270 2)) s)

/-- DL_DATA (R112). -/
def execDlData (w : W32) (s : State) : Host.Outcome State Fault Refusal := .next (event (cfgArrive (.write 0 0x278 w)) s)

/-- DL_VERIFY_DONE (R115). -/
def execDlVerifyDone (s : State) : Host.Outcome State Fault Refusal :=
  .next (eventIf (fun s => inStage s 5 && s.boot.dl.state == 2) dlVerified s)

/-! ## OTP and the tuning record -/

/-- OTP_PROG (R114). -/
def execOtpProg (q : Req) (v : W32) (s : State) : Host.Outcome State Fault Refusal :=
  .next (regCmd q Rg.GUARD_OTP_PROG v s)

/-- OTP_PROG_DONE (R114). -/
def execOtpProgDone (s : State) : Host.Outcome State Fault Refusal := .next (event otpDone s)

/-- TUNE_REC_DATA_READ (R119). -/
def execTuneRecDataRead (o : Nat) (s : State) : Host.Outcome State Fault Refusal :=
  .next (readCmd o Rg.TUNE_REC_DATA false s)

/-- TUNE_BUF_DATA_WRITE (R120). -/
def execTuneBufDataWrite (q : Req) (v : W32) (s : State) : Host.Outcome State Fault Refusal :=
  .next (regCmd q Rg.TUNE_BUF_DATA v s)

/-- TUNE_UNLOCK (R120). -/
def execTuneUnlock (q : Req) (v : W32) (s : State) : Host.Outcome State Fault Refusal :=
  .next (regCmd q Rg.TUNE_UNLOCK v s)

/-- TUNE_UNLOCK_EXPIRY (R120). -/
def execTuneUnlockExpiry (s : State) : Host.Outcome State Fault Refusal :=
  .next (eventIf tuneExpired tuneLock s)

/-- TUNE_COMMIT_GO (R120). -/
def execTuneCommitGo (q : Req) (v : W32) (s : State) : Host.Outcome State Fault Refusal :=
  .next (regCmd q Rg.TUNE_COMMIT (v ||| 1) s)

/-- TUNE_PROG_DONE (R120). -/
def execTuneProgDone (ok : Bool) (s : State) : Host.Outcome State Fault Refusal :=
  .next (eventIf (fun s => rdB s Rg.TUNE_STAT 3) (commitDone ok) s)

end Sys2Proof.Machine
end

