-- ==== Sys2Proof/Machine/Stave.lean ====
section
/-! DEFINITION. The commands of the stave counter (R34 to R38). -/
namespace Sys2Proof.Machine

/-- A write to the memory of the score image armed or in force (UB-1202). -/
def imageBroken (s : State) : Bool := s.cantor.imageWritten

/-- LINE_BOUNDARY (R34): the end of a line other than the stave's last; the readings are those of the thermal sensors
(R542). Undefined after a write to the image in use (R270, UB-1202). -/
def execLineBoundary (temps : List Nat) (s : State) : Host.Outcome State Fault Refusal :=
  if imageBroken s then .fault .imageWritten
  else .next (eventIf (fun s => s.clk.running && s.clk.line != 1249) (lineBoundary temps) s)

/-- STAVE_BOUNDARY (R34): the end of line 1,249. Undefined after a write to the image in use (R270, UB-1202). -/
def execStaveBoundary (temps : List Nat) (s : State) : Host.Outcome State Fault Refusal :=
  if imageBroken s then .fault .imageWritten
  else .next (eventIf (fun s => s.clk.running && s.clk.line == 1249) (staveBoundary temps) s)

/-- NOW_LO_READ (R36): of the STAVE page, or by a VF of its tenant page. -/
def execNowLoRead (o : Nat) (tenantPage : Bool) (s : State) : Host.Outcome State Fault Refusal :=
  .next (if tenantPage then tenantNowRead o s else readCmd o Rg.STAVE_NOW_LO false s)

/-- SNUM_LOAD_ARM (R37). -/
def execSnumLoadArm (q : Req) (v : W32) (s : State) : Host.Outcome State Fault Refusal :=
  .next (regCmd q Rg.STAVE_CTRL (v ||| 1) s)

/-- HEAD1_DIV_WRITE (R38). -/
def execHead1DivWrite (q : Req) (v : W32) (s : State) : Host.Outcome State Fault Refusal :=
  .next (regCmd q Rg.CLOCK_HEAD1_DIV v s)

end Sys2Proof.Machine
end

