-- ==== Sys2Proof/Machine/TensorCmds.lean ====
section
/-! DEFINITION. The commands of the inference cores' streams (R294 to R313): each issues the command at the head of its
core's stream, where that command is of its row and may issue. -/
namespace Sys2Proof.Machine

/-- The command at the head of a core's stream issues, where it is of a row (R294, R295, R313). -/
def issueRow (core : Nat) (row : Nat × Nat) (s : State) : Host.Outcome State Fault Refusal :=
  .next (event (issueCmd regRead core row) s)

/-- The same for a command that may reach host pages, with what the host answers (R126, R300). -/
def issueHost (core : Nat) (row : Nat × Nat) (data : HostData) (s : State) : Host.Outcome State Fault Refusal :=
  answered data (issueCmd regRead core row) s

/-- NOP (R294). -/
def execNop (core : Nat) (s : State) : Host.Outcome State Fault Refusal := issueRow core (tcNop, 0) s

/-- LOAD (R300). -/
def execLoad (core : Nat) (data : HostData) (s : State) : Host.Outcome State Fault Refusal :=
  issueHost core (tcLoad, 0) data s

/-- STORE (R300). -/
def execStore (core : Nat) (data : HostData) (s : State) : Host.Outcome State Fault Refusal :=
  issueHost core (tcStore, 0) data s

/-- ATOMIC_ADD (R301). -/
def execAtomicAdd (core : Nat) (data : HostData) (s : State) : Host.Outcome State Fault Refusal :=
  issueHost core (tcStore, 1) data s

/-- ATOMIC_MAX (R301). -/
def execAtomicMax (core : Nat) (data : HostData) (s : State) : Host.Outcome State Fault Refusal :=
  issueHost core (tcStore, 2) data s

/-- MMA (R302, R303). -/
def execMma (core : Nat) (s : State) : Host.Outcome State Fault Refusal := issueRow core (tcMma, 0) s

/-- CONV (R304). -/
def execConv (core : Nat) (s : State) : Host.Outcome State Fault Refusal := issueRow core (tcConv, 0) s

/-- EWISE_ADD (R305). -/
def execEwiseAdd (core : Nat) (s : State) : Host.Outcome State Fault Refusal := issueRow core (tcEwise, 0) s

/-- EWISE_SUB (R305). -/
def execEwiseSub (core : Nat) (s : State) : Host.Outcome State Fault Refusal := issueRow core (tcEwise, 1) s

/-- EWISE_MUL (R305). -/
def execEwiseMul (core : Nat) (s : State) : Host.Outcome State Fault Refusal := issueRow core (tcEwise, 2) s

/-- EWISE_MAX (R305). -/
def execEwiseMax (core : Nat) (s : State) : Host.Outcome State Fault Refusal := issueRow core (tcEwise, 3) s

/-- EWISE_MIN (R305). -/
def execEwiseMin (core : Nat) (s : State) : Host.Outcome State Fault Refusal := issueRow core (tcEwise, 4) s

/-- EWISE_CVT (R305). -/
def execEwiseCvt (core : Nat) (s : State) : Host.Outcome State Fault Refusal := issueRow core (tcEwise, 5) s

/-- EWISE_ABS (R305). -/
def execEwiseAbs (core : Nat) (s : State) : Host.Outcome State Fault Refusal := issueRow core (tcEwise, 6) s

/-- EWISE_NEG (R305). -/
def execEwiseNeg (core : Nat) (s : State) : Host.Outcome State Fault Refusal := issueRow core (tcEwise, 7) s

/-- ACT (R306). -/
def execAct (core : Nat) (s : State) : Host.Outcome State Fault Refusal := issueRow core (tcAct, 0) s

/-- POOL_MAX (R307). -/
def execPoolMax (core : Nat) (s : State) : Host.Outcome State Fault Refusal := issueRow core (tcPool, 0) s

/-- POOL_AVG (R307). -/
def execPoolAvg (core : Nat) (s : State) : Host.Outcome State Fault Refusal := issueRow core (tcPool, 1) s

/-- REDUCE_SUM (R308). -/
def execReduceSum (core : Nat) (s : State) : Host.Outcome State Fault Refusal := issueRow core (tcReduce, 0) s

/-- REDUCE_MAX (R308). -/
def execReduceMax (core : Nat) (s : State) : Host.Outcome State Fault Refusal := issueRow core (tcReduce, 1) s

/-- REDUCE_MIN (R308). -/
def execReduceMin (core : Nat) (s : State) : Host.Outcome State Fault Refusal := issueRow core (tcReduce, 2) s

/-- REDUCE_ARGMAX (R308). -/
def execReduceArgmax (core : Nat) (s : State) : Host.Outcome State Fault Refusal := issueRow core (tcReduce, 3) s

/-- REDUCE_ARGMIN (R308). -/
def execReduceArgmin (core : Nat) (s : State) : Host.Outcome State Fault Refusal := issueRow core (tcReduce, 4) s

/-- TRANSPOSE (R309). -/
def execTranspose (core : Nat) (s : State) : Host.Outcome State Fault Refusal := issueRow core (tcTranspose, 0) s

/-- SCALE (R310). -/
def execScale (core : Nat) (s : State) : Host.Outcome State Fault Refusal := issueRow core (tcScale, 0) s

/-- SIG (R311). -/
def execSig (core : Nat) (s : State) : Host.Outcome State Fault Refusal := issueRow core (tcSig, 0) s

/-- TOKEN (R312). -/
def execToken (core : Nat) (s : State) : Host.Outcome State Fault Refusal := issueRow core (tcToken, 0) s

end Sys2Proof.Machine
end

