-- ==== Sys2Proof/Machine/TimerCmds.lean ====
section
/-! DEFINITION. The commands of timers and captures (R422 to R432). -/
namespace Sys2Proof.Machine

/-- TIMER_TERMINAL_TICK (R423): of a channel clocked by PERCLK. -/
def execTimerTerminalTick (c : Nat) (s : State) : Host.Outcome State Fault Refusal := .next (event (timerTick c true) s)

/-- TIMER_TICK (R423). -/
def execTimerTick (c : Nat) (s : State) : Host.Outcome State Fault Refusal := .next (event (timerTick c false) s)

/-- TIMER_SW_RESET (R422). -/
def execTimerSwReset (q : Req) (c : Nat) (v : W32) (s : State) : Host.Outcome State Fault Refusal :=
  .next (if c < 16 then regCmd q (Rg.TIMER_CH_CTRL + 4 * c) (v ||| 1) s else s)

/-- TIMER_SW_CAP (R428). -/
def execTimerSwCap (q : Req) (c : Nat) (v : W32) (s : State) : Host.Outcome State Fault Refusal :=
  .next (if c < 16 then regCmd q (Rg.TIMER_CH_CTRL + 4 * c) (v ||| 2) s else s)

/-- TIMER_CAPTURE (R429): an edge, rising or falling, of the channel's source. -/
def execTimerCapture (c : Nat) (rising : Bool) (s : State) : Host.Outcome State Fault Refusal :=
  .next (event (timerCapture c rising) s)

/-- CAP_POP_READ (R431). -/
def execCapPopRead (o c : Nat) (s : State) : Host.Outcome State Fault Refusal :=
  .next (if c < 16 then readCmd o (Rg.TIMER_CAP_POP + 16 * c) false s else s)

/-- TIMER_SNAP (R432). -/
def execTimerSnap (q : Req) (v : W32) (s : State) : Host.Outcome State Fault Refusal := .next (regCmd q Rg.TIMER_SNAP (v ||| 1) s)

end Sys2Proof.Machine
end

