-- ==== Sys2Proof/Machine/Dispatch.lean ====
section
/-! DEFINITION. The dispatch of a command to its meaning, one arm per constructor of Instr. -/
namespace Sys2Proof.Machine

def exec (i : Instr) (s : State) : Host.Outcome State Fault Refusal :=
  match i with
  | .porstNRise straps => Sys2Proof.Machine.execPorstNRise straps s
  | .porstNPulse refclk straps => Sys2Proof.Machine.execPorstNPulse refclk straps s
  | .vddGrdLoss => Sys2Proof.Machine.execVddGrdLoss s
  | .xspiFirstRead => Sys2Proof.Machine.execXspiFirstRead s
  | .guardResetCold q v => Sys2Proof.Machine.execGuardResetCold q v s
  | .warmNPulse refclk => Sys2Proof.Machine.execWarmNPulse refclk s
  | .guardResetWarm q v => Sys2Proof.Machine.execGuardResetWarm q v s
  | .guardResetStave q v => Sys2Proof.Machine.execGuardResetStave q v s
  | .rootLock => Sys2Proof.Machine.execRootLock s
  | .rootLockTimeout => Sys2Proof.Machine.execRootLockTimeout s
  | .dividerRelease => Sys2Proof.Machine.execDividerRelease s
  | .hartClockSwitch => Sys2Proof.Machine.execHartClockSwitch s
  | .lockLost => Sys2Proof.Machine.execLockLost s
  | .xpllLost pll => Sys2Proof.Machine.execXpllLost pll s
  | .refCheck ppm => Sys2Proof.Machine.execRefCheck ppm s
  | .imageSlotCheck img => Sys2Proof.Machine.execImageSlotCheck img s
  | .bootStageTimeout code info => Sys2Proof.Machine.execBootStageTimeout code info s
  | .tuneLoad readError => Sys2Proof.Machine.execTuneLoad readError s
  | .ddrTrainDone mr4 => Sys2Proof.Machine.execDdrTrainDone mr4 s
  | .fabricInitDone => Sys2Proof.Machine.execFabricInitDone s
  | .s5Complete speed width => Sys2Proof.Machine.execS5Complete speed width s
  | .dlGo => Sys2Proof.Machine.execDlGo s
  | .dlRestart => Sys2Proof.Machine.execDlRestart s
  | .dlData w => Sys2Proof.Machine.execDlData w s
  | .dlVerifyDone => Sys2Proof.Machine.execDlVerifyDone s
  | .otpProg q v => Sys2Proof.Machine.execOtpProg q v s
  | .otpProgDone => Sys2Proof.Machine.execOtpProgDone s
  | .tuneRecDataRead o => Sys2Proof.Machine.execTuneRecDataRead o s
  | .tuneBufDataWrite q v => Sys2Proof.Machine.execTuneBufDataWrite q v s
  | .tuneUnlock q v => Sys2Proof.Machine.execTuneUnlock q v s
  | .tuneUnlockExpiry => Sys2Proof.Machine.execTuneUnlockExpiry s
  | .tuneCommitGo q v => Sys2Proof.Machine.execTuneCommitGo q v s
  | .tuneProgDone ok => Sys2Proof.Machine.execTuneProgDone ok s
  | .lineBoundary temps => Sys2Proof.Machine.execLineBoundary temps s
  | .staveBoundary temps => Sys2Proof.Machine.execStaveBoundary temps s
  | .nowLoRead o tenantPage => Sys2Proof.Machine.execNowLoRead o tenantPage s
  | .snumLoadArm q v => Sys2Proof.Machine.execSnumLoadArm q v s
  | .head1DivWrite q v => Sys2Proof.Machine.execHead1DivWrite q v s
  | .registerWrite q p v => Sys2Proof.Machine.execRegisterWrite q p v s
  | .rollHeldWrite => Sys2Proof.Machine.execRollHeldWrite s
  | .evtSetWrite q page v => Sys2Proof.Machine.execEvtSetWrite q page v s
  | .stageDiscard q page v => Sys2Proof.Machine.execStageDiscard q page v s
  | .softReset q page v => Sys2Proof.Machine.execSoftReset q page v s
  | .blockResetDone page => Sys2Proof.Machine.execBlockResetDone page s
  | .pageOwnerWrite q page v => Sys2Proof.Machine.execPageOwnerWrite q page v s
  | .pageWmaskWrite q page v => Sys2Proof.Machine.execPageWmaskWrite q page v s
  | .guardHdrLock q v => Sys2Proof.Machine.execGuardHdrLock q v s
  | .allHdrLock q v => Sys2Proof.Machine.execAllHdrLock q v s
  | .rollModeWrite q v => Sys2Proof.Machine.execRollModeWrite q v s
  | .rollTailWrite q v => Sys2Proof.Machine.execRollTailWrite q v s
  | .rollRdSeqWrite q v => Sys2Proof.Machine.execRollRdSeqWrite q v s
  | .rollRdData0Read o same => Sys2Proof.Machine.execRollRdData0Read o same s
  | .rollRdData7Read o => Sys2Proof.Machine.execRollRdData7Read o s
  | .pcieLinkUp speed width => Sys2Proof.Machine.execPcieLinkUp speed width s
  | .pcieLinkDown => Sys2Proof.Machine.execPcieLinkDown s
  | .pcieHotReset => Sys2Proof.Machine.execPcieHotReset s
  | .pciePerst level => Sys2Proof.Machine.execPciePerst level s
  | .vfFlr n => Sys2Proof.Machine.execVfFlr n s
  | .vfEnableClear => Sys2Proof.Machine.execVfEnableClear s
  | .vfEnableSet => Sys2Proof.Machine.execVfEnableSet s
  | .numvfsWrite v => Sys2Proof.Machine.execNumvfsWrite v s
  | .pf0Flr => Sys2Proof.Machine.execPf0Flr s
  | .pmcsrD3hot fn => Sys2Proof.Machine.execPmcsrD3hot fn s
  | .pmcsrD0 fn => Sys2Proof.Machine.execPmcsrD0 fn s
  | .bmeClear fn => Sys2Proof.Machine.execBmeClear fn s
  | .bmeSet fn => Sys2Proof.Machine.execBmeSet fn s
  | .hostReadFailure n => Sys2Proof.Machine.execHostReadFailure n s
  | .poisonedWriteDrop => Sys2Proof.Machine.execPoisonedWriteDrop s
  | .windowAccess off len data => Sys2Proof.Machine.execWindowAccess off len data s
  | .aspmL0sEntry => Sys2Proof.Machine.execAspmL0sEntry s
  | .aspmL1Entry => Sys2Proof.Machine.execAspmL1Entry s
  | .pmeTurnOff => Sys2Proof.Machine.execPmeTurnOff s
  | .msixUnmask fn vec => Sys2Proof.Machine.execMsixUnmask fn vec s
  | .hostNpOutRead o => Sys2Proof.Machine.execHostNpOutRead o s
  | .tenRingsWrite q n v => Sys2Proof.Machine.execTenRingsWrite q n v s
  | .tenEnable q n v => Sys2Proof.Machine.execTenEnable q n v s
  | .tenDisable q n v => Sys2Proof.Machine.execTenDisable q n v s
  | .tenGuarWrite q n v => Sys2Proof.Machine.execTenGuarWrite q n v s
  | .tenCeilWrite q n v => Sys2Proof.Machine.execTenCeilWrite q n v s
  | .tenPrioWrite q n v => Sys2Proof.Machine.execTenPrioWrite q n v s
  | .jobQuotaWrite q n v => Sys2Proof.Machine.execJobQuotaWrite q n v s
  | .tenantMbox q n v => Sys2Proof.Machine.execTenantMbox q n v s
  | .ringEnable q r v => Sys2Proof.Machine.execRingEnable q r v s
  | .ringDisable q r v => Sys2Proof.Machine.execRingDisable q r v s
  | .ringReset q r v => Sys2Proof.Machine.execRingReset q r v s
  | .ringResetDone r => Sys2Proof.Machine.execRingResetDone r s
  | .sqTailDoorbell q p tail head => Sys2Proof.Machine.execSqTailDoorbell q p tail head s
  | .cqHeadDoorbell q p head => Sys2Proof.Machine.execCqHeadDoorbell q p head s
  | .descriptorFetch r => Sys2Proof.Machine.execDescriptorFetch r s
  | .descriptorArrival r data => Sys2Proof.Machine.execDescriptorArrival r data s
  | .fragmentHeaderArrival r sub data => Sys2Proof.Machine.execFragmentHeaderArrival r sub data s
  | .modExpiry r => Sys2Proof.Machine.execModExpiry r s
  | .modWrite q r v => Sys2Proof.Machine.execModWrite q r v s
  | .ringVectorWrite q r v => Sys2Proof.Machine.execRingVectorWrite q r v s
  | .msixAfterL0 => Sys2Proof.Machine.execMsixAfterL0 s
  | .poolAlloc port pool => Sys2Proof.Machine.execPoolAlloc port pool s
  | .poolFree pool handle => Sys2Proof.Machine.execPoolFree pool handle s
  | .poolSwReq q v => Sys2Proof.Machine.execPoolSwReq q v s
  | .poolSwFree q v => Sys2Proof.Machine.execPoolSwFree q v s
  | .evcDoorbell q v => Sys2Proof.Machine.execEvcDoorbell q v s
  | .evcRaise k same => Sys2Proof.Machine.execEvcRaise k same s
  | .evcRaiseHeld => Sys2Proof.Machine.execEvcRaiseHeld s
  | .fwdCommit k => Sys2Proof.Machine.execFwdCommit k s
  | .evcClaim o => Sys2Proof.Machine.execEvcClaim o s
  | .evcComplete q v => Sys2Proof.Machine.execEvcComplete q v s
  | .evcPendSet q word v => Sys2Proof.Machine.execEvcPendSet q word v s
  | .evcPendClear q word v => Sys2Proof.Machine.execEvcPendClear q word v s
  | .evcCfgWrite q word v => Sys2Proof.Machine.execEvcCfgWrite q word v s
  | .memoryAccess ctx req half job kind va len data => Sys2Proof.Machine.execMemoryAccess ctx req half job kind va len data s
  | .accessComplete k err place data => Sys2Proof.Machine.execAccessComplete k err place data s
  | .flogTailWrite q page v => Sys2Proof.Machine.execFlogTailWrite q page v s
  | .invGo q v => Sys2Proof.Machine.execInvGo q v s
  | .invDone => Sys2Proof.Machine.execInvDone s
  | .refreshSlot c => Sys2Proof.Machine.execRefreshSlot c s
  | .mr4Poll c rate => Sys2Proof.Machine.execMr4Poll c rate s
  | .dramcEnableWrite q c v => Sys2Proof.Machine.execDramcEnableWrite q c v s
  | .scrubRead c word cls => Sys2Proof.Machine.execScrubRead c word cls s
  | .scrubPassEnd c => Sys2Proof.Machine.execScrubPassEnd c s
  | .nrcInvArm q h v => Sys2Proof.Machine.execNrcInvArm q h v s
  | .bridgeReplay => Sys2Proof.Machine.execBridgeReplay s
  | .bridgeDown => Sys2Proof.Machine.execBridgeDown s
  | .scoreLoadGo q v => Sys2Proof.Machine.execScoreLoadGo q v s
  | .scoreLoadDone => Sys2Proof.Machine.execScoreLoadDone s
  | .scoreLoadCancel q v => Sys2Proof.Machine.execScoreLoadCancel q v s
  | .taskFire core => Sys2Proof.Machine.execTaskFire core s
  | .taskSlip core => Sys2Proof.Machine.execTaskSlip core s
  | .fencedTaskCancel core => Sys2Proof.Machine.execFencedTaskCancel core s
  | .taskEnd core => Sys2Proof.Machine.execTaskEnd core s
  | .spanEnd half job => Sys2Proof.Machine.execSpanEnd half job s
  | .tokenArrival k => Sys2Proof.Machine.execTokenArrival k s
  | .cantorTokenWrite q h v => Sys2Proof.Machine.execCantorTokenWrite q h v s
  | .cantorTokenAtWrite q h v => Sys2Proof.Machine.execCantorTokenAtWrite q h v s
  | .commandFetch core wait data => Sys2Proof.Machine.execCommandFetch core wait data s
  | .commandComplete core unit => Sys2Proof.Machine.execCommandComplete core unit s
  | .nop core => Sys2Proof.Machine.execNop core s
  | .load core data => Sys2Proof.Machine.execLoad core data s
  | .store core data => Sys2Proof.Machine.execStore core data s
  | .atomicAdd core data => Sys2Proof.Machine.execAtomicAdd core data s
  | .atomicMax core data => Sys2Proof.Machine.execAtomicMax core data s
  | .mma core => Sys2Proof.Machine.execMma core s
  | .conv core => Sys2Proof.Machine.execConv core s
  | .ewiseAdd core => Sys2Proof.Machine.execEwiseAdd core s
  | .ewiseSub core => Sys2Proof.Machine.execEwiseSub core s
  | .ewiseMul core => Sys2Proof.Machine.execEwiseMul core s
  | .ewiseMax core => Sys2Proof.Machine.execEwiseMax core s
  | .ewiseMin core => Sys2Proof.Machine.execEwiseMin core s
  | .ewiseCvt core => Sys2Proof.Machine.execEwiseCvt core s
  | .ewiseAbs core => Sys2Proof.Machine.execEwiseAbs core s
  | .ewiseNeg core => Sys2Proof.Machine.execEwiseNeg core s
  | .act core => Sys2Proof.Machine.execAct core s
  | .poolMax core => Sys2Proof.Machine.execPoolMax core s
  | .poolAvg core => Sys2Proof.Machine.execPoolAvg core s
  | .reduceSum core => Sys2Proof.Machine.execReduceSum core s
  | .reduceMax core => Sys2Proof.Machine.execReduceMax core s
  | .reduceMin core => Sys2Proof.Machine.execReduceMin core s
  | .reduceArgmax core => Sys2Proof.Machine.execReduceArgmax core s
  | .reduceArgmin core => Sys2Proof.Machine.execReduceArgmin core s
  | .transpose core => Sys2Proof.Machine.execTranspose core s
  | .scale core => Sys2Proof.Machine.execScale core s
  | .sig core => Sys2Proof.Machine.execSig core s
  | .token core => Sys2Proof.Machine.execToken core s
  | .cameraFs port vc num ecc => Sys2Proof.Machine.execCameraFs port vc num ecc s
  | .cameraFe port vc num ecc => Sys2Proof.Machine.execCameraFe port vc num ecc s
  | .cameraLongPacket port vc dt wc ecc crcOk payload => Sys2Proof.Machine.execCameraLongPacket port vc dt wc ecc crcOk payload s
  | .cameraOtherShortPacket port vc dt data ecc => Sys2Proof.Machine.execCameraOtherShortPacket port vc dt data ecc s
  | .cameraDetach stream => Sys2Proof.Machine.execCameraDetach stream s
  | .groupHoldExpiry g => Sys2Proof.Machine.execGroupHoldExpiry g s
  | .camRelease q port v => Sys2Proof.Machine.execCamRelease q port v s
  | .chaferWindowStart h data => Sys2Proof.Machine.execChaferWindowStart h data s
  | .chaferOpenTake h data => Sys2Proof.Machine.execChaferOpenTake h data s
  | .chaferSetupDone h data => Sys2Proof.Machine.execChaferSetupDone h data s
  | .chaferEvalEnd h stall data => Sys2Proof.Machine.execChaferEvalEnd h stall data s
  | .chaferSurveyToken h => Sys2Proof.Machine.execChaferSurveyToken h s
  | .chaferLate h => Sys2Proof.Machine.execChaferLate h s
  | .setBoundary h bad => Sys2Proof.Machine.execSetBoundary h bad s
  | .displayLineStart h late => Sys2Proof.Machine.execDisplayLineStart h late s
  | .spriteTableFetch h late => Sys2Proof.Machine.execSpriteTableFetch h late s
  | .lineTableFetch h => Sys2Proof.Machine.execLineTableFetch h s
  | .lineTableLoaded h => Sys2Proof.Machine.execLineTableLoaded h s
  | .palDataWrite q h v => Sys2Proof.Machine.execPalDataWrite q h v s
  | .palDataRead o h => Sys2Proof.Machine.execPalDataRead o h s
  | .safeOnlyWrite q h v => Sys2Proof.Machine.execSafeOnlyWrite q h v s
  | .dsiGenGo q v => Sys2Proof.Machine.execDsiGenGo q v s
  | .dsiGenSend => Sys2Proof.Machine.execDsiGenSend s
  | .choirKeyOnWrite q v => Sys2Proof.Machine.execChoirKeyOnWrite q v s
  | .keyOnAllocate => Sys2Proof.Machine.execKeyOnAllocate s
  | .keyOff q v => Sys2Proof.Machine.execKeyOff q v s
  | .audioSample late bad => Sys2Proof.Machine.execAudioSample late bad s
  | .xpNodeWrite q v => Sys2Proof.Machine.execXpNodeWrite q v s
  | .domainCSample => Sys2Proof.Machine.execDomainCSample s
  | .asrcLock p => Sys2Proof.Machine.execAsrcLock p s
  | .asrcUnlock p => Sys2Proof.Machine.execAsrcUnlock p s
  | .tdmFrameReceive p raw early => Sys2Proof.Machine.execTdmFrameReceive p raw early s
  | .timerTerminalTick c => Sys2Proof.Machine.execTimerTerminalTick c s
  | .timerSwReset q c v => Sys2Proof.Machine.execTimerSwReset q c v s
  | .timerSwCap q c v => Sys2Proof.Machine.execTimerSwCap q c v s
  | .timerCapture c rising => Sys2Proof.Machine.execTimerCapture c rising s
  | .capPopRead o c => Sys2Proof.Machine.execCapPopRead o c s
  | .timerSnap q v => Sys2Proof.Machine.execTimerSnap q v s
  | .ethRxFrame m frame => Sys2Proof.Machine.execEthRxFrame m frame s
  | .ethRxHeadWrite q m v => Sys2Proof.Machine.execEthRxHeadWrite q m v s
  | .ethTxqTailWrite q m k v => Sys2Proof.Machine.execEthTxqTailWrite q m k v s
  | .ethTxStart m => Sys2Proof.Machine.execEthTxStart m s
  | .ethTxDone m => Sys2Proof.Machine.execEthTxDone m s
  | .ethLinkChange m up speed an => Sys2Proof.Machine.execEthLinkChange m up speed an s
  | .i3cPrivateXfer q b v => Sys2Proof.Machine.execI3cPrivateXfer q b v s
  | .i2cXfer q b v => Sys2Proof.Machine.execI2cXfer q b v s
  | .broadcastCcc q b v => Sys2Proof.Machine.execBroadcastCcc q b v s
  | .entdaa q b v => Sys2Proof.Machine.execEntdaa q b v s
  | .directCcc q b v => Sys2Proof.Machine.execDirectCcc q b v s
  | .i3cXferDone b result count data => Sys2Proof.Machine.execI3cXferDone b result count data s
  | .i3cIbi b addr payload => Sys2Proof.Machine.execI3cIbi b addr payload s
  | .ibiPopRead o b => Sys2Proof.Machine.execIbiPopRead o b s
  | .spiCtlGo q k v => Sys2Proof.Machine.execSpiCtlGo q k v s
  | .spiTimedStart k => Sys2Proof.Machine.execSpiTimedStart k s
  | .spiCtlDone k data => Sys2Proof.Machine.execSpiCtlDone k data s
  | .spiTgtWrite off data => Sys2Proof.Machine.execSpiTgtWrite off data s
  | .spiTgtRead off n => Sys2Proof.Machine.execSpiTgtRead off n s
  | .spiTgtStatus => Sys2Proof.Machine.execSpiTgtStatus s
  | .spiTgtBadcmd => Sys2Proof.Machine.execSpiTgtBadcmd s
  | .spiPublish q v => Sys2Proof.Machine.execSpiPublish q v s
  | .spiPublishApply => Sys2Proof.Machine.execSpiPublishApply s
  | .spiRxFullClear q v => Sys2Proof.Machine.execSpiRxFullClear q v s
  | .gpioEdge pin rising => Sys2Proof.Machine.execGpioEdge pin rising s
  | .gpioOutSet q v => Sys2Proof.Machine.execGpioOutSet q v s
  | .gpioOutClr q v => Sys2Proof.Machine.execGpioOutClr q v s
  | .roundSignature k => Sys2Proof.Machine.execRoundSignature k s
  | .roundDeadline id => Sys2Proof.Machine.execRoundDeadline id s
  | .unisonMismatch h pc => Sys2Proof.Machine.execUnisonMismatch h pc s
  | .hartRestart q h v => Sys2Proof.Machine.execHartRestart q h v s
  | .awCfgWrite q w v => Sys2Proof.Machine.execAwCfgWrite q w v s
  | .awFeedWrite q v => Sys2Proof.Machine.execAwFeedWrite q v s
  | .ageExpiry w => Sys2Proof.Machine.execAgeExpiry w s
  | .safetyFenceWrite q v => Sys2Proof.Machine.execSafetyFenceWrite q v s
  | .faultRaiseWrite q v => Sys2Proof.Machine.execFaultRaiseWrite q v s
  | .classMapWrite q v => Sys2Proof.Machine.execClassMapWrite q v s
  | .classLockWrite q v => Sys2Proof.Machine.execClassLockWrite q v s
  | .pinReleaseWrite q v => Sys2Proof.Machine.execPinReleaseWrite q v s
  | .faultNRelease => Sys2Proof.Machine.execFaultNRelease s
  | .wdogCfgWrite q v => Sys2Proof.Machine.execWdogCfgWrite q v s
  | .wdogKick q v => Sys2Proof.Machine.execWdogKick q v s
  | .wdogExpiry => Sys2Proof.Machine.execWdogExpiry s
  | .slinkEnable q port v => Sys2Proof.Machine.execSlinkEnable q port v s
  | .slinkTrained port lat => Sys2Proof.Machine.execSlinkTrained port lat s
  | .slinkTrainTimeout port => Sys2Proof.Machine.execSlinkTrainTimeout port s
  | .slinkRetrain port => Sys2Proof.Machine.execSlinkRetrain port s
  | .slinkIdSend port => Sys2Proof.Machine.execSlinkIdSend port s
  | .slinkRxIdle port flit => Sys2Proof.Machine.execSlinkRxIdle port flit s
  | .slinkRxId port flit => Sys2Proof.Machine.execSlinkRxId port flit s
  | .slinkRxWrite port flit => Sys2Proof.Machine.execSlinkRxWrite port flit s
  | .slinkRxEvent port flit => Sys2Proof.Machine.execSlinkRxEvent port flit s
  | .slinkRxAfterFault port flit => Sys2Proof.Machine.execSlinkRxAfterFault port flit s
  | .slinkRxBarrier port flit root => Sys2Proof.Machine.execSlinkRxBarrier port flit root s
  | .slinkRxCal port flit => Sys2Proof.Machine.execSlinkRxCal port flit s
  | .calEchoSend => Sys2Proof.Machine.execCalEchoSend s
  | .slinkRxCalEcho port flit rtt => Sys2Proof.Machine.execSlinkRxCalEcho port flit rtt s
  | .slinkRxNak port flit => Sys2Proof.Machine.execSlinkRxNak port flit s
  | .slinkRxReserved port flit => Sys2Proof.Machine.execSlinkRxReserved port flit s
  | .slinkRxBadCrc port flit => Sys2Proof.Machine.execSlinkRxBadCrc port flit s
  | .barrierForward => Sys2Proof.Machine.execBarrierForward s
  | .slinkRwData q v => Sys2Proof.Machine.execSlinkRwData q v s
  | .slinkEvSend q v => Sys2Proof.Machine.execSlinkEvSend q v s
  | .lockCal q v => Sys2Proof.Machine.execLockCal q v s
  | .lockCalDone => Sys2Proof.Machine.execLockCalDone s
  | .lockTake q v => Sys2Proof.Machine.execLockTake q v s
  | .lockDividerRelease => Sys2Proof.Machine.execLockDividerRelease s
  | .lockRelease q v => Sys2Proof.Machine.execLockRelease q v s
  | .hymnalEnable q v => Sys2Proof.Machine.execHymnalEnable q v s
  | .hymnalRdSeqWrite q v => Sys2Proof.Machine.execHymnalRdSeqWrite q v s
  | .hymnalWrSeqWrite q v => Sys2Proof.Machine.execHymnalWrSeqWrite q v s
  | .hymnalReplayIssue => Sys2Proof.Machine.execHymnalReplayIssue s
  | .hymnalReadTimeout => Sys2Proof.Machine.execHymnalReadTimeout s
  | .weevilArmKey1 q => Sys2Proof.Machine.execWeevilArmKey1 q s
  | .weevilArmKey2 q => Sys2Proof.Machine.execWeevilArmKey2 q s
  | .weevilDisarm q v => Sys2Proof.Machine.execWeevilDisarm q v s
  | .weevilKey1Expiry => Sys2Proof.Machine.execWeevilKey1Expiry s
  | .weevilFire q v => Sys2Proof.Machine.execWeevilFire q v s
  | .weevilUnitRelease point => Sys2Proof.Machine.execWeevilUnitRelease point s
  | .debugAllowWrite q v => Sys2Proof.Machine.execDebugAllowWrite q v s
  | .debugHalt h pc trigger => Sys2Proof.Machine.execDebugHalt h pc trigger s
  | .debugResume h => Sys2Proof.Machine.execDebugResume h s
  | .debugStep h => Sys2Proof.Machine.execDebugStep h s
  | .accessRegister h n write => Sys2Proof.Machine.execAccessRegister h n write s
  | .systemBusAccess addr size write err => Sys2Proof.Machine.execSystemBusAccess addr size write err s
  | .idcode => Sys2Proof.Machine.execIdcode s
  | .extest data => Sys2Proof.Machine.execExtest data s
  | .samplePreload data => Sys2Proof.Machine.execSamplePreload data s
  | .clamp => Sys2Proof.Machine.execClamp s
  | .highz => Sys2Proof.Machine.execHighz s
  | .bypass ir => Sys2Proof.Machine.execBypass ir s
  | .dtmcs v => Sys2Proof.Machine.execDtmcs v s
  | .dmi op addr data => Sys2Proof.Machine.execDmi op addr data s
  | .tapReset => Sys2Proof.Machine.execTapReset s
  | .holdReq q v => Sys2Proof.Machine.execHoldReq q v s
  | .holdRelease q v => Sys2Proof.Machine.execHoldRelease q v s
  | .traceMark q v => Sys2Proof.Machine.execTraceMark q v s
  | .traceDataRead o => Sys2Proof.Machine.execTraceDataRead o s
  | .avsRequest half => Sys2Proof.Machine.execAvsRequest half s
  | .avsAck half => Sys2Proof.Machine.execAvsAck half s
  | .avsRetry half => Sys2Proof.Machine.execAvsRetry half s
  | .powerOn => Sys2Proof.Machine.execPowerOn s
  | .flashTimeout => Sys2Proof.Machine.execFlashTimeout s
  | .pcieSpeedChange speed width => Sys2Proof.Machine.execPcieSpeedChange speed width s
  | .phyUpChange port up => Sys2Proof.Machine.execPhyUpChange port up s
  | .timerTick c => Sys2Proof.Machine.execTimerTick c s

end Sys2Proof.Machine
end

