-- ==== Sys2Proof/Machine/Step.lean ====
section
/-! DEFINITION. One step of the block: the command at the front of the queue is performed; on an empty queue a sub-beat
of stave time passes. -/
namespace Sys2Proof.Machine

/-- The front command is taken from the queue and performed. With nothing to perform, a sub-beat passes within the line
(log entry 11). -/
def step (s : State) : Host.Outcome State Fault Refusal :=
  match s.pending with
  | [] => .next (tick s)
  | c :: rest => exec c { s with pending := rest }

/-- A state with the command that a table word spells at the front of its queue: no word spells one, so the state as it
is. -/
def State.withFetchWord (s : State) (nbits w : Nat) : State :=
  match decodeTableWord nbits w with
  | some c => { s with pending := c :: s.pending }
  | none => s

end Sys2Proof.Machine
end

