-- ==== Sys2Proof/Safety.lean ====
section
/-! DEFINITION. What counts as a safe state of the block: the fields that repeat one another agree, and the memories keep
their canonical form. -/
namespace Sys2Proof.Machine

/-- Fields of registers that repeat what another register or part holds: ROLL.FILL is NEXT_SEQ − TAIL_SEQ (R89),
BOOT.STAT.DEFAULTS is TUNE.STAT.DEFAULTS (R118), and STAVE.STAT shows whether the counter runs, whether Stave Link lock
is held (R490) and whether a hold is in force (R518). -/
structure Mirrored (s : State) : Prop where
  fill : rdN s Rg.ROLL_FILL = sub32 (rdN s Rg.ROLL_NEXT_SEQ) (rdN s Rg.ROLL_TAIL_SEQ)
  defaults : rdB s Rg.BOOT_STAT 19 = rdB s Rg.TUNE_STAT 1
  running : rdB s Rg.STAVE_STAT 0 = s.clk.running
  linked : rdB s Rg.STAVE_STAT 1 = rdB s Rg.SLINK_LOCK_STAT 1
  held : rdB s Rg.STAVE_STAT 3 = rdB s Rg.DEBUG_HOLD_STAT 1

/-- Nothing that earlier commands left is still to be done: no write is held for a later edge (R66, R88), no register
write of a unit is on its way (R222), no record or notification waits for a command's end (R158, R178), and no answer of
the host is in hand. -/
structure Quiet (s : State) : Prop where
  held : s.roll.held = []
  regq : s.regq = []
  made : s.adm.made = []
  fires : s.adm.fires = []
  answer : s.host.answer = []
  answered : s.host.answerFail = false

/-- What every command leaves at its end: the repeated fields agree, and no answer of the host is in hand. -/
structure Settled (s : State) : Prop where
  mirrored : Mirrored s
  answer : s.host.answer = []
  answered : s.host.answerFail = false

/-- A byte of device physical memory. -/
def byteAt (s : State) (a : Nat) : Byte := kvGet 0 s.mem a

/-- A byte of the guard memories, by its guard-hart address (R513). -/
def guardByteAt (s : State) (a : Nat) : Byte := kvGet 0 s.gmem a

/-- Two states that no reader can tell apart: every register reads alike, and everything else is the same. -/
def Same (t u : State) : Prop := (∀ a, rd t a = rd u a) ∧ t = { u with regs := t.regs }

/-- A command ends with what its effect u on its edge leaves, brought to the end that every command has. -/
def Ends (c : Instr) (s u : State) : Prop := Sys2Proof.Machine.exec c s = .next (finish u)

/-- The function through whose BAR0 the host or a tenant sends a write. -/
def senderFn (q : Req) : Place → Option Nat
  | .vfBar n _ => if q.origin == n then some n else none
  | .space _ => if q.origin == 0x41 then some 0 else none
  | _ => none

/-- A write arrives at its register or doorbell on the edge e, and no reason of R63 or R87 refuses it: its origin is one
that sends commands, a function it comes through answers over a link in L0 with no Weevil rule in the way (R127, R136,
R501), no replay keeps the host or the debugger out (R496), the page is not in block reset and holds no earlier write
(R66, R104), the edge has a place in the roll left (R88), and the verdict names no reason. -/
structure LandsAt (q : Req) (pl : Place) (v : W32) (e : State) : Prop where
  origin : cmdOrigin q.origin = true
  host : ∀ f, senderFn q pl = some f → fnAnswers e f = true ∧ linkState e = 0 ∧ wvIdle e = true
  replay : replaying e = false
  awake : (e.resetting.find? fun x => some x.1 == (destOf e pl).pageKey) = none
  free : pageHeld e (destOf e pl).pageKey = false
  room : e.roll.edgeN < 8
  taken : verdict e q (destOf e pl) v = none

/-- A write of a register-space offset arrives and is not refused. -/
abbrev Lands (q : Req) (off : Nat) (v : W32) (e : State) : Prop := LandsAt q (.space off) v e

/-- What the host sends reaches the device as it was sent: the link is up in L0, no Weevil rule is in the way (R127, R501),
and the Hymnal neither records nor replays (R492, R496). -/
structure HostReaches (e : State) : Prop where
  up : dlUp e = true
  l0 : linkState e = 0
  idle : wvIdle e = true
  replay : replaying e = false
  quiet : recording e = false

/-- The state in which a command finds the host's answer to what it reads (R126). -/
def given (data : HostData) (s : State) : State :=
  match data with
  | .bytes l => { s with host := { s.host with answer := l, answerFail := false } }
  | .failed => { s with host := { s.host with answer := [], answerFail := true } }
  | .peer => s

/-- A read of a register by an origin reaches its page on the edge e and is answered there: the host's through a link in
L0, and before S6 only where R110 lets it read. -/
structure ReadsAt (o p off : Nat) (e : State) : Prop where
  reaches : readReaches e o = true
  l0 : o = 0x41 → linkState e = 0
  visible : readVisible e o p off false = true

/-- An accepted write entered in the change roll: what the entry says is taken from the state e before the write. -/
def logged (q : Req) (off : Nat) (v : W32) (e s : State) : State :=
  match (spaceDest off).tgt with
  | .page p o isHdr =>
    match pageDesc p with
    | none => s
    | some x =>
      match regNamed x p o isHdr with
      | none => s
      | some r => enterRoll (spaceDest off) p (acceptEntry q (spaceDest off) x p o isHdr r (acceptVal p o isHdr v) e) s
  | _ => s

/-- An accepted write as the Hymnal records it (R492). -/
def recorded (q : Req) (off : Nat) (v : W32) (s : State) : State := inputRec q (.space off) (toLE 4 v.toNat) s

end Sys2Proof.Machine
end

