-- ==== Sys2Proof/Certificates/Slice0/Obligations.lean ====
section
/-! DEFINITION. The statements about the block, for the provers. A statement whose name ends in End, Ends or Issue says
of every command of its family where it completes and what it leaves: Ends c s u says that exec c s answers next with u
brought to the end every command has. -/

open Sys2Proof Sys2Proof.Machine

/-! ## Power, reset, bring-up and the tuning record -/

/-- POWER_ON, VDD_GRD_LOSS, PORST_N_RISE, PORST_N_PULSE and WARM_N_PULSE end as R97, R102, R538 and R548 say: a reset of
cause 0 with power on or gone, S1 begun with the straps sampled, a pulse too short ignored, and one long enough the reset
of its pin; a pulse of a length between takes one of the two (R97, R102; log entry 6).

GUARD.RESET (R102, R105): an accepted COLD starts S1 again after a cold reset of cause 2, WARM is a warm reset of
cause 4, and STAVE asks for a stave reset that reads 1 until it is applied. -/
def Obligations.ResetCommandsEnd : Prop :=
  (∀ (s e : State) (n b : Nat), e = newEdge s →
      (e.boot.powered = false → Ends .powerOn s
        (emit (.faultN false) { coldReset 0 e with boot := { (coldReset 0 e).boot with powered := true, porstN := false } }))
      ∧ (e.boot.powered = true → Ends .vddGrdLoss s
        { coldReset 0 e with boot := { (coldReset 0 e).boot with powered := false, porstN := false } })
      ∧ (s.boot.powered = false → Sys2Proof.Machine.exec (.porstNRise b) s = .fault .powerSequence)
      ∧ (s.boot.powered = true → e.boot.porstN = false → Ends (.porstNRise b) s
          (let w := setHartReset 0 false (setStage 1 (wr Rg.BOOT_STRAP (w32 (b % 8))
            { e with boot := { e.boot with porstN := true, xspiResetN := true } }))
           if b % 8 ≤ 5 then w else bootFail 0x12 (b % 8) w))
      ∧ (guardRuns e = true → n < 32 → Ends (.porstNPulse n b) s e)
      ∧ (guardRuns e = true → 192 ≤ n → Ends (.porstNPulse n b) s (beginS1 b (coldReset 1 e)))
      ∧ (guardRuns e = true → 32 ≤ n → n < 192 → Ends (.porstNPulse n b) s
          (if Config.freeBool e.free then beginS1 b (coldReset 1 { e with free := e.free + 1 })
            else { e with free := e.free + 1 }))
      ∧ (guardRuns e = true → n < 4 → Ends (.warmNPulse n) s e)
      ∧ (guardRuns e = true → 20 ≤ n → Ends (.warmNPulse n) s (warmReset 3 e))
      ∧ (guardRuns e = true → 4 ≤ n → n < 20 → Ends (.warmNPulse n) s
          (if Config.freeBool e.free then warmReset 3 { e with free := e.free + 1 } else { e with free := e.free + 1 })))
  ∧ (∀ (q : Req) (v : W32) (s e : State), e = edgeOf q.same s →
      (Lands q Rg.GUARD_RESET (v ||| 1) e → Ends (.guardResetCold q v) s (recorded q Rg.GUARD_RESET (v ||| 1)
        (beginS1 (straps (logged q Rg.GUARD_RESET (v ||| 1) e e)) (coldReset 2 (logged q Rg.GUARD_RESET (v ||| 1) e e)))))
      ∧ (Lands q Rg.GUARD_RESET (v ||| 2) e → fbit v 0 = false → Ends (.guardResetWarm q v) s (recorded q Rg.GUARD_RESET (v ||| 2)
        (if fbit v 2 then staveResetRequest (warmReset 4 (logged q Rg.GUARD_RESET (v ||| 2) e e))
          else warmReset 4 (logged q Rg.GUARD_RESET (v ||| 2) e e))))
      ∧ (Lands q Rg.GUARD_RESET (v ||| 4) e → fbit v 0 = false → fbit v 1 = false → Ends (.guardResetStave q v) s
        (recorded q Rg.GUARD_RESET (v ||| 4) (wrB Rg.GUARD_RESET 2 true
          { logged q Rg.GUARD_RESET (v ||| 4) e e with
            cantor := { (logged q Rg.GUARD_RESET (v ||| 4) e e).cantor with resetDue := true } }))))

/-- The clock events of R26 to R29 and R538: the boot ROM's first flash read, root lock and its timeout, the release of
the dividers with the counter at stave 0, line 0, the harts' clock, the loss of root lock and of another PLL, and a
comparison of REFCLK.

The supply of a half (R542): a step toward its target of at most 25 mV is asked for, again after 75 lines without an
answer, and the acknowledged step is the supply. -/
def Obligations.ClocksAndSuppliesEnd : Prop :=
  (∀ (s e : State) (pll : Nat) (ppm : Int), e = newEdge s →
      (inStage e 1 = true → strapXspi e = true → e.boot.xspiResetN = true →
        Ends .xspiFirstRead s { e with boot := { e.boot with xspiRead := true } })
      ∧ (rootAwaited e = true → Ends .rootLock s (wrB Rg.CLOCK_STAT 0 true e))
      ∧ (rootAwaited e = true → Ends .rootLockTimeout s (emit (.faultN false)
          (wr Rg.BOOT_FAIL_INFO 0 (wrF Rg.BOOT_STAT 15 8 0x11 (wrB Rg.BOOT_STAT 3 true e)))))
      ∧ (guardRuns e = true → rdB e Rg.CLOCK_STAT 0 = true → e.clk.released = false → Ends .dividerRelease s
          (headRestart 1 (headRestart 0 { e with clk := { e.clk with
            running := true, released := true, snum := 0, line := 0, beat := 0, sub := 0, staves := 0 } })))
      ∧ (e.clk.running = true → e.clk.released = true → 1 ≤ linBeat e → Ends .hartClockSwitch s
          { e with clk := { e.clk with hartFab := true } })
      ∧ (rdB e Rg.CLOCK_STAT 0 = true → Ends .lockLost s (lockLost e))
      ∧ (2 ≤ pll → pll ≤ 5 → rdB e Rg.CLOCK_STAT pll = true → Ends (.xpllLost pll) s
          (setEvt Pg.CLOCK 2 (hwSet 6 Rg.CLOCK_STAT (setFld (rd e Rg.CLOCK_STAT) pll pll 0) e)))
      ∧ (guardRuns e = true → Ends (.refCheck ppm) s (refInput ppm e)))
  ∧ (∀ (s n : State) (h : Nat) (x : AvsHalf), n = newEdge s → x = avsHalf n h →
      (∀ t v, avsDue n h = true → x.target = some t → v = (if x.mv ≤ t then min t (x.mv + 25) else max t (x.mv - 25)) →
        Ends (.avsRequest h) s (emit (.avs h v) (putAvs h { x with req := some v, next := linLine n + 75 } n)))
      ∧ (∀ v, x.req = some v → Ends (.avsAck h) s (putAvs h { x with mv := v, req := none } n))
      ∧ (∀ v, avsRetryDue n h = true → x.req = some v → Ends (.avsRetry h) s
        (emit (.avs h v) (putAvs h { x with next := linLine n + 75 } n))))

/-- The events of boot stages S1 to S5 (R106 to R118): an accepted image slot enters S2 and a refused one, or one that
does not answer in time, goes to the next slot; a stage's timeout stops boot with its code; the record is loaded, DRAM is
trained, the fabric is initialised, S5 completes, and a host download is verified.

Host download (R112): DL_GO, DL_RESTART and DL_DATA, where the download registers accept writes. -/
def Obligations.BootStagesEnd : Prop :=
  (∀ (s e : State) (img : List Byte) (mr4 : List Nat) (code info speed width : Nat) (bad : Bool), e = newEdge s →
      (slotReads e = true → checkImage e img = 0 → Ends (.imageSlotCheck img) s (enterStage 2 (imageAccept e.boot.slot img e)))
      ∧ (slotReads e = true → checkImage e img ≠ 0 → Ends (.imageSlotCheck img) s (slotFail (checkImage e img) e))
      ∧ (slotReads e = true → Ends .flashTimeout s (slotFail 0x14 e))
      ∧ (failCodeOk e code = true → Ends (.bootStageTimeout code info) s (emit (.faultN false)
          (wr Rg.BOOT_FAIL_INFO (w32 (failInfo e code info)) (wrF Rg.BOOT_STAT 15 8 code (wrB Rg.BOOT_STAT 3 true e)))))
      ∧ (inStage e 2 = true → Ends (.tuneLoad bad) s (tuneLoad bad e))
      ∧ (inStage e 3 = true → Ends (.ddrTrainDone mr4) s (ddrTrained mr4 e))
      ∧ (inStage e 4 = true → Ends .fabricInitDone s (fabricInit e))
      ∧ (inStage e 5 = true → e.boot.imageOk = true → e.boot.s5done = false → Ends (.s5Complete speed width) s
          (s5Complete speed width e))
      ∧ (inStage e 5 = true → e.boot.dl.state = 2 → checkImage e e.boot.dl.bytes = 0 → Ends .dlVerifyDone s
          (imageAccept 2 e.boot.dl.bytes { e with boot := { e.boot with dl := { e.boot.dl with state := 3 } } }))
      ∧ (inStage e 5 = true → e.boot.dl.state = 2 → checkImage e e.boot.dl.bytes ≠ 0 → Ends .dlVerifyDone s
          { e with boot := { e.boot with dl := { e.boot.dl with state := 4, fail := checkImage e e.boot.dl.bytes } } }))
  ∧ (∀ (s e : State) (w : W32), e = newEdge s → HostReaches e → dlOpen e = true →
      Ends .dlGo s { e with boot := { e.boot with dl := { e.boot.dl with state := 2 } } }
      ∧ Ends .dlRestart s { e with boot := { e.boot with dl := { e.boot.dl with bytes := [], state := 0 } } }
      ∧ Ends (.dlData w) s { e with boot := { e.boot with dl := { e.boot.dl with
          bytes := (e.boot.dl.bytes ++ toLE 4 w.toNat).take e.boot.dl.len
          state := if e.boot.dl.state == 0 then 1 else e.boot.dl.state } } })

/-- OTP programming (R114) and the tuning record's port (R119, R120): OTP_PROG and its completion, a word put into the
buffer, the keys of the unlock sequence and their expiry, COMMIT.GO and its completion, and a read of REC_DATA. -/
def Obligations.OtpAndTuneEnd : Prop :=
  ∀ (q : Req) (v : W32) (s e : State), e = edgeOf q.same s →
    (Lands q Rg.GUARD_OTP_PROG v e → Ends (.otpProg q v) s (recorded q Rg.GUARD_OTP_PROG v
      (otpStart v (logged q Rg.GUARD_OTP_PROG v e e))))
    ∧ (∀ w x, (newEdge s).boot.otpProg = some (w, x) → Ends .otpProgDone s { newEdge s with
        boot := { (newEdge s).boot with otp := kvPut 0 (newEdge s).boot.otp w (otpWord (newEdge s) w ||| x), otpProg := none } })
    ∧ (Lands q Rg.TUNE_BUF_DATA v e → Ends (.tuneBufDataWrite q v) s (recorded q Rg.TUNE_BUF_DATA v
        (wr Rg.TUNE_BUF_IDX (w32 ((bufIdx e + 1) % 256))
          { e with boot := { e.boot with buf := kvPut 0 e.boot.buf (bufIdx e) v } })))
    ∧ (Lands q Rg.TUNE_UNLOCK v e → Ends (.tuneUnlock q v) s (recorded q Rg.TUNE_UNLOCK v
        (tuneKey v.toNat (logged q Rg.TUNE_UNLOCK v e e))))
    ∧ (tuneExpired (newEdge s) = true → Ends .tuneUnlockExpiry s (wrB Rg.TUNE_STAT 7 false
        { newEdge s with boot := { (newEdge s).boot with keyA := none, unlockEnd := none } }))
    ∧ (Lands q Rg.TUNE_COMMIT (v ||| 1) e → Ends (.tuneCommitGo q v) s (recorded q Rg.TUNE_COMMIT (v ||| 1)
        (commitGo (logged q Rg.TUNE_COMMIT (v ||| 1) e e))))
    ∧ (∀ ok, rdB (newEdge s) Rg.TUNE_STAT 3 = true → Ends (.tuneProgDone ok) s
        (setEvt Pg.TUNE (if ok then 1 else 2) (wrF Rg.TUNE_STAT 5 3 (if ok then 2 else 4)
          { newEdge s with boot := { (newEdge s).boot with mtp := (newEdge s).boot.buf, mtpError := !ok } })))
    ∧ (∀ o, ReadsAt o Pg.TUNE 0x54 (newEdge s) → Ends (.tuneRecDataRead o) s
        (emit (.readData o (mtpWord (newEdge s) (recIdx (newEdge s))).toNat)
          (wr Rg.TUNE_REC_IDX (w32 ((recIdx (newEdge s) + 1) % 256)) (newEdge s))))

/-! ## Stave time, register pages and the change roll -/

/-- A line boundary and a stave boundary, where the counter runs and is at the end of a line or of a stave, do the steps
of R34 in order; with a score image in force that has been written to, UB-1202 stops the model. Step 1 of a stave boundary
is the counter (R22, R37, R490), step 2 the staged values (R67), and the rest follows in the order of R34.

STAVE.CTRL.SNUM_LOAD arms a load of the stave number (R37), CLOCK.HEAD1_DIV takes its value and has it applied at the
next stave boundary (R38), and a read of NOW_LO answers the low word of stave time and keeps the high word for the origin
that read (R36), on the STAVE page and on a tenant's own. -/
def Obligations.StaveRowsEnd : Prop :=
  (∀ (s e : State) (temps : List Nat), e = newEdge s →
      (imageBroken s = false → e.clk.running = true → e.clk.line ≠ 1249 → Ends (.lineBoundary temps) s
        (lineWork temps (timerBoundary false [] (nextLine (timerRun (edgesLeft e) e)))))
      ∧ (imageBroken s = false → e.clk.running = true → e.clk.line = 1249 → Ends (.staveBoundary temps) s (staveBoundary temps e))
      ∧ (imageBroken s = true → Sys2Proof.Machine.exec (.lineBoundary temps) s = .fault .imageWritten)
      ∧ (imageBroken s = true → Sys2Proof.Machine.exec (.staveBoundary temps) s = .fault .imageWritten))
  ∧ (∀ (q : Req) (v : W32) (s e : State) (o n : Nat), e = edgeOf q.same s →
      (Lands q Rg.STAVE_CTRL (v ||| 1) e → Ends (.snumLoadArm q v) s (recorded q Rg.STAVE_CTRL (v ||| 1)
        (wrB Rg.STAVE_STAT 2 true (logged q Rg.STAVE_CTRL (v ||| 1) e e))))
      ∧ (∀ l, l = logged q Rg.CLOCK_HEAD1_DIV v e e → Lands q Rg.CLOCK_HEAD1_DIV v e → Ends (.head1DivWrite q v) s
        (recorded q Rg.CLOCK_HEAD1_DIV v { wrF Rg.CLOCK_HEAD1_DIV 7 0 (fld v 7 0) l with clk := { l.clk with head1Due := true } }))
      ∧ (ReadsAt o Pg.STAVE 0x40 (newEdge s) → Ends (.nowLoRead o false) s
        (emit (.readData o (w32 (stimeNow (newEdge s))).toNat) { newEdge s with clk := { (newEdge s).clk with
          nowHi := kvPut 0 (newEdge s).clk.nowHi o (stimeNow (newEdge s) / 0x100000000 % 0x100000000) } }))
      ∧ (1 ≤ n → n ≤ 64 → fnAnswers (newEdge s) n = true → linkState (newEdge s) = 0 →
        readVisible (newEdge s) n (0x400 + n) 0x54 false = true → Ends (.nowLoRead n true) s
        (emit (.readData n (w32 (stimeNow (newEdge s))).toNat) { newEdge s with clk := { (newEdge s).clk with
          nowHi := kvPut 0 (newEdge s).clk.nowHi n (stimeNow (newEdge s) / 0x100000000 % 0x100000000) } })))

/-- REGISTER_WRITE (R63): an accepted write of a listed page's register by a register-space offset is accepted as R63,
R64 and R85 say, and a write of configuration space or of the MSI-X table that reaches the device takes effect there.

The header rows (R70, R74, R75, R79, R80, R104): each is entered in the roll, before its effect or, on a page whose
writes make entries of their own, after it. PAGE_OWNER and PAGE_WMASK take their fields, EVT_SET sets events, DISCARD
gives every shadow the value in force, and SOFT_RESET puts the page into block reset. A block reset ends with the page's
state at reset and its held writes performed; a ROLL_HELD_WRITE is the next edge, on which held writes take their places
(R88). -/
def Obligations.PageRowsEnd : Prop :=
  (∀ (q : Req) (v : W32) (s e : State) (off p o f : Nat) (isHdr : Bool) (x : PageDesc) (r : RegDesc), e = edgeOf q.same s →
      (Lands q off v e → (spaceDest off).tgt = .page p o isHdr → pageDesc p = some x → regNamed x p o isHdr = some r →
        Ends (.registerWrite q (.space off) v) s (recorded q off v (acceptReg q (spaceDest off) x p o isHdr r v e)))
      ∧ (HostReaches e → cmdOrigin q.origin = true → Ends (.registerWrite q (.cfg f off) v) s (cfgWrite f off v e))
      ∧ (HostReaches e → cmdOrigin q.origin = true → Ends (.registerWrite q (.msix f off) v) s (msixWrite f off v e)))
  ∧ (∀ (q : Req) (v : W32) (s e : State) (p : Nat) (x : PageDesc) (k : State → State), e = edgeOf q.same s → p < 0x200 →
      pageDesc p = some x → k = (fun t => keyBreak x true (tuneBreak x true 0x40 false t)) →
      (∀ a u, a = hdr p Hdr.PAGE_OWNER → u = (fun t => wr a (setFld (rd (k t) a) 7 0 (fld v 7 0)) (k t)) → Lands q a v e →
        Ends (.pageOwnerWrite q p v) s (recorded q a v
          (if fxFirst x.kind then logged q a v e (u e) else u (logged q a v e e))))
      ∧ (∀ a u, a = hdr p Hdr.PAGE_WMASK →
        u = (fun t => wr a ((List.range 7).foldl (fun w i => setFld w i i (fld v i i)) (rd (k t) a)) (k t)) → Lands q a v e →
        Ends (.pageWmaskWrite q p v) s (recorded q a v
          (if fxFirst x.kind then logged q a v e (u e) else u (logged q a v e e))))
      ∧ (∀ a u, a = hdr p Hdr.EVT_SET → u = (fun t => setEvts p v.toNat (k t)) → Lands q a v e →
        Ends (.evtSetWrite q p v) s (recorded q a v
          (if fxFirst x.kind then logged q a v e (u e) else u (logged q a v e e))))
      ∧ (∀ a u, a = hdr p Hdr.PAGE_STAGE → u = (fun t => Sys2Proof.Machine.stageDiscard x p (k t)) → x.staged = true → Lands q a (v ||| 2) e →
        Ends (.stageDiscard q p v) s (recorded q a (v ||| 2)
          (if fxFirst x.kind then logged q a (v ||| 2) e (u e) else u (logged q a (v ||| 2) e e))))
      ∧ (∀ a u, a = hdr p Hdr.BLK_CTRL →
        u = (fun t => startReset p (wrB a 1 true (wrB a 0 (fbit v 0) (k t)))) → Lands q a (v ||| 2) e →
        Ends (.softReset q p v) s (recorded q a (v ||| 2)
          (if fxFirst x.kind then logged q a (v ||| 2) e (u e) else u (logged q a (v ||| 2) e e))))
      ∧ ((kvFind (newEdge s).resetting p).isSome = true → Ends (.blockResetDone p) s (blockResetAll p (newEdge s)))
      ∧ Ends .rollHeldWrite s (newEdge s))

/-- AUTH.LOCK and the roll's own registers (R84, R93, R94, R95): the header locks are only ever set, MODE and TAIL_SEQ take
their values, RD_SEQ is the origin's own, a read of RD_DATA0 takes the entry at RD_SEQ into the origin's snapshot, and a
read of RD_DATA7 answers its last word and advances RD_SEQ. -/
def Obligations.RollAndLockRowsEnd : Prop :=
  ∀ (q : Req) (v : W32) (s e l : State) (o : Nat) (same : Bool), e = edgeOf q.same s →
    (l = logged q Rg.AUTH_LOCK (v ||| 1) e e → Lands q Rg.AUTH_LOCK (v ||| 1) e → Ends (.guardHdrLock q v) s
      (recorded q Rg.AUTH_LOCK (v ||| 1) (wr Rg.AUTH_LOCK (rd l Rg.AUTH_LOCK ||| ((v ||| 1) &&& 3)) l)))
    ∧ (l = logged q Rg.AUTH_LOCK (v ||| 2) e e → Lands q Rg.AUTH_LOCK (v ||| 2) e → Ends (.allHdrLock q v) s
      (recorded q Rg.AUTH_LOCK (v ||| 2) (wr Rg.AUTH_LOCK (rd l Rg.AUTH_LOCK ||| ((v ||| 2) &&& 3)) l)))
    ∧ (Lands q Rg.ROLL_CTRL v e → Ends (.rollModeWrite q v) s (recorded q Rg.ROLL_CTRL v
      (logged q Rg.ROLL_CTRL v e (wrF Rg.ROLL_CTRL 0 0 (fld v 0 0) e))))
    ∧ (∀ t, t = rollFillSync (wrF Rg.ROLL_TAIL_SEQ 31 0 (fld v 31 0) e) → Lands q Rg.ROLL_TAIL_SEQ v e →
      Ends (.rollTailWrite q v) s (recorded q Rg.ROLL_TAIL_SEQ v
        (if rdN t Rg.ROLL_FILL < 16128 then { t with roll := { t.roll with holding := false } } else t)))
    ∧ (Lands q Rg.ROLL_RD_SEQ v e → Ends (.rollRdSeqWrite q v) s (recorded q Rg.ROLL_RD_SEQ v
      (putCursor q.origin { cursorOf e q.origin with seq := v.toNat } e)))
    ∧ (ReadsAt o Pg.ROLL 0x80 (edgeOf same s) → Ends (.rollRdData0Read o same) s
      (emit (.readData o (rollSnap o (edgeOf same s)).1.toNat) (rollSnap o (edgeOf same s)).2))
    ∧ (ReadsAt o Pg.ROLL 0x9C (newEdge s) → Ends (.rollRdData7Read o) s
      (emit (.readData o (((cursorOf (newEdge s) o).snap.drop 7).headD 0).toNat)
        (putCursor o { cursorOf (newEdge s) o with seq := ((cursorOf (newEdge s) o).seq + 1) % 0x100000000 } (newEdge s))))

/-! ## The host link and tenants -/

/-- The link's own events (R122, R135, R140, R182, R538) where the Hymnal neither records nor replays: link up, link down and
hot reset, the level of PCIE_PERST_N, a change of speed or width with its event, entry to L0s and to L1 or a substate that
the host has enabled (which one is left open, log entry 6), and the return to L0 with what waits for it. -/
def Obligations.HostLinkEventsEnd : Prop :=
  ∀ (s e : State) (speed width : Nat), e = newEdge s → replaying e = false → recording e = false →
    (linkMay e = true → Ends (.pcieLinkUp speed width) s
      (hwSet 5 Rg.HOST_LINK_STAT (linkUpStat (wrB Rg.CLOCK_STAT 2 true e) speed width)
        (setEvt Pg.HOST 0 (wrB Rg.CLOCK_STAT 2 true e))))
    ∧ (dlUp e = true → Ends .pcieLinkDown s (linkLost 1 e))
    ∧ (dlUp e = true → Ends .pcieHotReset s (linkLost 2 e))
    ∧ Ends (.pciePerst true) s { e with boot := { e.boot with perstN := true } }
    ∧ (5 ≤ stage e → Ends (.pciePerst false) s (linkLost 1 { e with boot := { e.boot with perstN := false } }))
    ∧ (stage e < 5 → dlUp e = false → Ends (.pciePerst false) s { e with boot := { e.boot with perstN := false } })
    ∧ (dlUp e = true → rdF e Rg.HOST_LINK_STAT 3 0 ≠ speed % 16 ∨ rdF e Rg.HOST_LINK_STAT 9 4 ≠ width % 64 →
      Ends (.pcieSpeedChange speed width) s
        (setEvt Pg.HOST 3 (wrF Rg.HOST_LINK_STAT 9 4 width (wrF Rg.HOST_LINK_STAT 3 0 speed e))))
    ∧ (dlUp e = true → linkState e = 0 → bit (fnCfg e 0).aspm 0 = true → rdF e Rg.HOST_ASPM_IDLE 7 0 ≠ 0 →
      Ends .aspmL0sEntry s (emit (.aspm 1) (wrF Rg.HOST_LINK_STAT 13 11 1 e)))
    ∧ (dlUp e = true → linkState e ≤ 1 → bit (fnCfg e 0).aspm 1 = true → rdF e Rg.HOST_ASPM_IDLE 15 8 ≠ 0 →
      ∀ st, st = (if bit (fnCfg e 0).aspm 3 && Config.freeBool e.free then 4
        else if bit (fnCfg e 0).aspm 2 && Config.freeBool (e.free + 1) then 3 else 2) →
      Ends .aspmL1Entry s (emit (.aspm st) (wrF Rg.HOST_LINK_STAT 13 11 st { e with free := e.free + 2 })))
    ∧ (dlUp e = true → Ends .pmeTurnOff s (emitTlp .pmeToAck (fireOpen (fun _ => true) e)).2)
    ∧ (dlUp e = true → linkState e ≠ 0 → Ends .msixAfterL0 s
      ((releaseHeld (wrF Rg.HOST_LINK_STAT 13 11 0 e)).host.waitL0.foldl (fun t m => (emitTlp m t).2)
        { releaseHeld (wrF Rg.HOST_LINK_STAT 13 11 0 e) with
          host := { (releaseHeld (wrF Rg.HOST_LINK_STAT 13 11 0 e)).host with waitL0 := [] } }))

/-- What the host does to a function (R131, R136 to R139, R180 to R184), where it reaches the device: FLR of a VF and of
PF0, VF Enable, NumVFs, D3hot and D0, Bus Master Enable, and the unmasking of a vector. -/
def Obligations.FunctionEventsEnd : Prop :=
  ∀ (s e : State) (n f v vec : Nat), e = newEdge s → HostReaches e →
    (n ≠ 0 → tenExists e n = true → Ends (.vfFlr n) s (Sys2Proof.Machine.vfFlr n e))
    ∧ (vfEn e = true → Ends .vfEnableClear s (vfDisable e))
    ∧ (vfEn e = false → Ends .vfEnableSet s (setEvt Pg.SRIOV 0 ((tenants (wrB Rg.SRIOV_VF_STAT 7 true e)).foldl
        (fun t k => wrB (Rg.SRIOV_TEN_STAT + 4 * k) 0 true t) (wrB Rg.SRIOV_VF_STAT 7 true e))))
    ∧ (vfEn e = false → v ≤ 64 → Ends (.numvfsWrite v) s (wrF Rg.SRIOV_VF_STAT 6 0 v e))
    ∧ Ends .pf0Flr s (setEvt Pg.HOST 4 (pf0Reset e))
    ∧ ((fnCfg e f).d3 = false → Ends (.pmcsrD3hot f) s (showD3 f true
        (putFn f { fnCfg (fireOpen (fun r => ringOwner e r == f) e) f with d3 := true, pmeSent := false }
          (fireOpen (fun r => ringOwner e r == f) e))))
    ∧ ((fnCfg e f).d3 = true → Ends (.pmcsrD0 f) s (fnAwake f (showD3 f false (putFn f { fnCfg e f with d3 := false } e))))
    ∧ ((fnCfg e f).bme = true → Ends (.bmeClear f) s (fnAwake f (putFn f { fnCfg e f with bme := false } e)))
    ∧ ((fnCfg e f).bme = false → Ends (.bmeSet f) s (fnAwake f (putFn f { fnCfg e f with bme := true } e)))
    ∧ ((fnCfg e f).d3 = false → (fnCfg e f).unmasked.contains vec = false → vec < msixSize f →
      Ends (.msixUnmask f vec) s (fnAwake f (putFn f { fnCfg e f with unmasked := vec :: (fnCfg e f).unmasked } e)))

/-- Data of the host (R125 to R127, R133): a read of the device that fails, a poisoned write, an access of the DRAM window
inside installed DRAM and beyond it, and a read of NP_OUT, which restarts PEAK at NOW. -/
def Obligations.HostDataEnds : Prop :=
  ∀ (s e : State) (n off len o : Nat) (l : List Byte), e = newEdge s →
    (∀ f, (e.adm.fetches.filter fun f => f.res.waits)[n]? = some f → Ends (.hostReadFailure n) s (hostReadFail n e))
    ∧ (dlUp e = true → Ends .poisonedWriteDrop s (emit (.aer 2) (bump Rg.HOST_POISON_DROPS (setEvt Pg.HOST 7 e))))
    ∧ (∀ pa, pa = rdF e Rg.HOST_WIN_BASE 6 0 * 0x10000000 + off → HostReaches e → off < 0x10000000 →
      (fnCfg e 0).d3 = false → l ≠ [] → pa + l.length ≤ dramTop e.member → paServes e pa l.length = true →
      Ends (.windowAccess off len (some l)) s (devWrite 5 pa l e))
    ∧ (∀ pa, pa = rdF e Rg.HOST_WIN_BASE 6 0 * 0x10000000 + off → HostReaches e → off < 0x10000000 →
      (fnCfg e 0).d3 = false → len ≠ 0 → pa + len ≤ dramTop e.member → paServes e pa len = true →
      Ends (.windowAccess off len none) s (emit (.memData (devRead 5 pa len e).1 (devRead 5 pa len e).2.1) (devRead 5 pa len e).2.2))
    ∧ (∀ pa, pa = rdF e Rg.HOST_WIN_BASE 6 0 * 0x10000000 + off → HostReaches e → off < 0x10000000 →
      (fnCfg e 0).d3 = false → l ≠ [] → dramTop e.member < pa + l.length →
      Ends (.windowAccess off len (some l)) s (bump Rg.HOST_WIN_DROPS e))
    ∧ (ReadsAt o Pg.HOST 0x4C e → Ends (.hostNpOutRead o) s
      (emit (.readData o (rd e Rg.HOST_NP_OUT).toNat) (wrF Rg.HOST_NP_OUT 25 16 (npNow e) e)))

/-- The tenant registers of the SRIOV page (R141 to R146): TEN_RINGS, TEN_GUAR and TEN_CEIL take their fields. TEN_CFG
takes ENABLE, PRIO and JOB_QUOTA; TEN_STAT.ENABLED follows ENABLE, and PF0's ENABLE stays 1 (R143). A tenant's MBOX write
raises the source that its value picks (R81). -/
def Obligations.TenantRowsEnd : Prop :=
  ∀ (q : Req) (v : W32) (s e : State) (n : Nat), e = edgeOf q.same s → n < 65 →
    (∀ a l, a = Rg.SRIOV_TEN_RINGS + 16 * n → l = logged q a v e e → Lands q a v e → Ends (.tenRingsWrite q n v) s
      (recorded q a v (wr a (setFld (setFld (rd l a) 13 0 (fld v 13 0)) 28 16 (fld v 28 16)) l)))
    ∧ (∀ a l, a = Rg.SRIOV_TEN_GUAR + 16 * n → l = logged q a v e e → Lands q a v e → Ends (.tenGuarWrite q n v) s
      (recorded q a v (wr a (setFld (rd l a) 21 0 (fld v 21 0)) l)))
    ∧ (∀ a l, a = Rg.SRIOV_TEN_CEIL + 16 * n → l = logged q a v e e → Lands q a v e → Ends (.tenCeilWrite q n v) s
      (recorded q a v (wr a (setFld (rd l a) 21 0 (fld v 21 0)) l)))
    ∧ (∀ c w a l x u, (c, w) ∈ [(Instr.tenEnable q n v, v ||| 0x80000000), (.tenDisable q n v, v &&& 0x7FFFFFFF),
        (.tenPrioWrite q n v, v), (.jobQuotaWrite q n v, v)] →
      a = Rg.SRIOV_TEN_CFG + 16 * n → l = logged q a w e e → x = (if n = 0 then w ||| 0x80000000 else w) →
      u = wr a (setFld (setFld (setFld (rd l a) 2 0 (fld x 2 0)) 16 4 (fld x 16 4)) 31 31 (fld x 31 31)) l → Lands q a w e →
      Ends c s (recorded q a w
        (if n = 0 then wrB Rg.SRIOV_TEN_CFG 31 true u else wrB (Rg.SRIOV_TEN_STAT + 4 * n) 1 (fbit x 31) u)))
    ∧ (1 ≤ n → q.origin = n → LandsAt q (.vfBar n 0x5C) v e → Ends (.tenantMbox q n v) s
      (inputRec q (.vfBar n 0x5C) (toLE 4 v.toNat) (raiseSrc (0x800 + 4 * (n - 1) + fld v 1 0) e)))

/-! ## Rings, pools and the event controller -/

/-- The registers of ring r's slot (R149, R150, R177 to R179): CTRL takes ENABLE and VECTOR, after an open window fires
where VECTOR changes; ENABLE set makes the ring ACTIVE, ENABLE cleared disables it at the next line boundary, and RESET
resets it, all as the ring's own rules say. MOD takes its fields after an open window fires.

Doorbells (R58, R151, R152): an accepted write of SQ_TAIL or of CQ_HEAD, or of both in 64 bits, through the doorbell
window or a VF's BAR0. A new tail is remembered with its time; writing the tail that stands changes nothing. -/
def Obligations.RingWritesEnd : Prop :=
  (∀ (q : Req) (v : W32) (s e : State) (r : Nat), e = edgeOf q.same s → r < 16384 →
      (∀ c w a l b t x, (c, w) ∈ [(Instr.ringEnable q r v, v ||| 1), (.ringDisable q r v, v &&& 0xFFFFFFFE),
          (.ringReset q r v, v ||| 2), (.ringVectorWrite q r v, v)] →
        a = Rg.RINGSTATE_CTRL + 64 * r → l = logged q a w e e →
        b = (if fld w 16 8 = fld (rd l a) 16 8 ∨ (modOf l r).p = 0 then l else fire r l) →
        t = wr a (setFld (setFld (rd l a) 0 0 (fld w 0 0)) 16 8 (fld w 16 8)) b →
        x = (if fbit w 0 && !fbit (rd l a) 0 then Sys2Proof.Machine.ringEnable r t
          else if !fbit w 0 && fbit (rd l a) 0 then Sys2Proof.Machine.ringDisable r t else t) →
        Lands q a w e → Ends c s (recorded q a w (if fbit w 1 then Sys2Proof.Machine.ringReset r x else x)))
      ∧ (∀ a l, a = Rg.RINGSTATE_MOD + 64 * r → l = logged q a v e e → Lands q a v e → Ends (.modWrite q r v) s
        (recorded q a v (wr a (setFld (setFld (rd l a) 7 0 (fld v 7 0)) 14 8 (fld v 14 8))
          (if (modOf l r).p = 0 then l else fire r l)))))
  ∧ (∀ (q : Req) (v w : W32) (s e : State) (pl : Place) (r : Nat), e = edgeOf q.same s →
      ((destOf e pl).tgt = .door r 0 → LandsAt q pl v e → Ends (.sqTailDoorbell q pl v none) s
        (inputRec q pl (toLE 4 v.toNat) (if v.toNat == sqTail e r then e
          else wr (ringSqTail r) v { e with adm := { e.adm with marks := e.adm.marks ++ [⟨r, v.toNat, doorLine e⟩] } })))
      ∧ ((destOf e pl).tgt = .door r 4 → LandsAt q pl v e → Ends (.cqHeadDoorbell q pl v) s
        (inputRec q pl (toLE 4 v.toNat) (wr (ringCqHead r) v e)))
      ∧ (∀ off, (destOf e pl).tgt = .door r off → cmdOrigin q.origin = true →
        (∀ f, senderFn q pl = some f → fnAnswers e f = true ∧ linkState e = 0 ∧ wvIdle e = true) → replaying e = false →
        doorVerdict e q (destOf e pl).drop.isSome r (some v) (some w) = none → Ends (.sqTailDoorbell q pl v (some w)) s
          (inputRec q pl (toLE 4 v.toNat ++ toLE 4 w.toNat) (doorHead r w (doorTail r v e)))))

/-- The ring engine's events (R150, R153, R154, R178): a reset that waited ends when the last started job has, a
descriptor is fetched where the ring may fetch, its arrival is checked or its failed read is a fault of the ring, a
fragment header arrives, and a moderation window that is due fires. -/
def Obligations.RingEngineEventsEnd : Prop :=
  ∀ (s e g : State) (r sub : Nat) (data : HostData) (l : List Byte), e = newEdge s → g = newEdge (given data s) →
    (ringState e r = ringResetting → inflight e r = 0 → Ends (.ringResetDone r) s
      (ringZero r (if (modOf e r).p == 0 then e else fire r e)))
    ∧ (fetchMay e r = true → Ends (.descriptorFetch r) s (fetchStart regRead r e))
    ∧ (∀ f pa n t, data ≠ .peer → g.adm.fetches.find? (·.ring == r) = some f → f.res = .waiting pa n → f.dropped = false →
      arrived 64 g = some l → t = hymnRec hyHostCpl f.owner pa l
          (npSet (npNow { g with adm := { g.adm with fetches := g.adm.fetches.erase f } } - 1)
            { g with adm := { g.adm with fetches := g.adm.fetches.erase f } }) →
      Ends (.descriptorArrival r data) s (descCheck r (ringOwner t r) l t))
    ∧ (∀ f, data ≠ .peer → g.adm.fetches.find? (·.ring == r) = some f → Ends (.descriptorArrival r data) s
        (descArrive r (arrived 64 g) g))
    ∧ (∀ x, data ≠ .peer → (queueOf g r).find? (fun x => x.subSeq == sub && !x.fetched) = some x →
      Ends (.fragmentHeaderArrival r sub data) s (headerArrive regRead r sub g))
    ∧ Sys2Proof.Machine.exec (.descriptorArrival r .peer) s = .fault .peerAccess
    ∧ Sys2Proof.Machine.exec (.fragmentHeaderArrival r sub .peer) s = .fault .peerAccess
    ∧ (modDue e r = true → Ends (.modExpiry r) s (fire r e))

/-- Pools (R169, R170, R174): a unit's request takes what the pool gives and the answer leaves by its port; a handle freed
goes back to its pool, and a stale or a bad one is counted with its event; the software ports do the same. -/
def Obligations.PoolRowsEnd : Prop :=
  ∀ (q : Req) (v : W32) (s e : State) (port pool h : Nat), e = edgeOf q.same s →
    (pool < 128 → port < 32 → Ends (.poolAlloc port pool) s
      (emit (.handle port (allocBuf port pool (newEdge s)).1) (allocBuf port pool (newEdge s)).2))
    ∧ (pool < 128 → h / 0x1000 % 16 = poolGen (newEdge s) pool → h % 0x1000 < poolCount (newEdge s) pool →
      (poolFreeList (newEdge s) pool).contains (h % 0x1000) = false → Ends (.poolFree pool h) s
        (putFree pool (h % 0x1000 :: poolFreeList (newEdge s) pool) (newEdge s)))
    ∧ (pool < 128 → h / 0x1000 % 16 ≠ poolGen (newEdge s) pool → Ends (.poolFree pool h) s
        (setEvt Pg.POOL 2 (bump Rg.POOL_STALE_FREE (newEdge s))))
    ∧ (pool < 128 → h / 0x1000 % 16 = poolGen (newEdge s) pool →
      poolCount (newEdge s) pool ≤ h % 0x1000 ∨ (poolFreeList (newEdge s) pool).contains (h % 0x1000) = true →
      Ends (.poolFree pool h) s (setEvt Pg.POOL 1 (bump Rg.POOL_BAD_FREE (newEdge s))))
    ∧ (Lands q Rg.POOL_SW_REQ v e → Ends (.poolSwReq q v) s (recorded q Rg.POOL_SW_REQ v (swReq q.origin (fld v 6 0) e)))
    ∧ (Lands q Rg.POOL_SW_FREE v e → Ends (.poolSwFree q v) s (recorded q Rg.POOL_SW_FREE v
        (freeBuf (fld v 22 16) (fld v 15 0) e)))

/-- The event controller (R194, R196, R199, R204, R205, R210, R211): a doorbell and an arriving raise are taken for their
source, the held raise with the lowest number comes first, a forwarded vector is sent where function 0 may issue requests,
a claim answers the best source and makes it active on the hart, a completion by its holder ends it, and the words of
EVCSRC set, clear and configure sources. -/
def Obligations.EventControllerRowsEnd : Prop :=
  ∀ (q : Req) (v : W32) (s e n : State) (k i o src : Nat) (same : Bool), e = edgeOf q.same s → n = newEdge s →
    (Lands q Rg.EVC_DOORBELL v e → Ends (.evcDoorbell q v) s (recorded q Rg.EVC_DOORBELL v (evTake (fld v 11 0) e)))
    ∧ ((edgeOf same s).evc.inflight[k]? = some src → Ends (.evcRaise k same) s
        (evTake src { edgeOf same s with evc := { (edgeOf same s).evc with inflight := dropAt (edgeOf same s).evc.inflight k } }))
    ∧ (∀ x l, n.evc.held = x :: l → Ends .evcRaiseHeld s
        (evTake (l.foldl min x) { n with evc := { n.evc with held := (x :: l).erase (l.foldl min x) } }))
    ∧ (∀ a, a = Rg.EVC_FWD + 4 * k → k < 64 → rdB n a 30 = true → Ends (.fwdCommit k) s
        (if mayIssue (wrB a 30 false n) 0 then sendVector 0 (rdF n a 23 16) (wrB a 30 false n)
          else heldFire 0 (rdF n a 23 16) (wrB a 30 false n)))
    ∧ (∀ h x, ReadsAt o Pg.EVC 0x44 n → o = 0x44 + h → h ≤ 3 → evBest n h = some src → x = evSrc n src →
        Ends (.evcClaim o) s (emit (.readData o (w32 (src + (if evCount n src then x.c else 1) * 0x1000
          + evPrio n src * 0x100000 + 0x80000000)).toNat)
          (putSrc src { x with p := false, c := 0, a := true, holder := h } n)))
    ∧ (Lands q Rg.EVC_COMPLETE v e → evHeldBy e q.origin (fld v 11 0) = true → Ends (.evcComplete q v) s
        (recorded q Rg.EVC_COMPLETE v (evDone (fld v 11 0) e)))
    ∧ (∀ a, a = Rg.EVCSRC_PEND_SET + i / 16 * 0x1000 + 4 * (i % 16) → i < 128 → Lands q a v e →
        Ends (.evcPendSet q i v) s (recorded q a v ((bitsFrom (32 * i) v).foldl (fun t m => evTake m t) e)))
    ∧ (∀ a, a = Rg.EVCSRC_PEND + i / 16 * 0x1000 + 4 * (i % 16) → i < 128 → Lands q a v e →
        Ends (.evcPendClear q i v) s (recorded q a v ((bitsFrom (32 * i) v).foldl (fun t m => evClear m t) e)))
    ∧ (∀ a l, a = Rg.EVCSRC_CFG + i / 256 * 0x1000 + 4 * (i % 256) → i < 2048 → l = logged q a v e e → Lands q a v e →
        Ends (.evcCfgWrite q i v) s (recorded q a v (wakeHarts (evCfgAfter (2 * i + 1) (fld (rd l a) 31 16)
          (evCfgAfter (2 * i) (fld (rd l a) 15 0)
            (wr a (setFld (setFld (rd l a) 15 0 (fld v 15 0)) 31 16 (fld v 31 16)) l))))))

/-! ## Memory, translation, DRAM and Cantor -/

/-- MEMORY_ACCESS and ACCESS_COMPLETE (R216, R229, R242, R244, R251): an access that lies in one line is translated; a
faulting one fails with its record in the log, one whose page is the host's goes to the host, unless it is an invocation's
whose function may not issue requests, which waits (log entry 72), and one of device memory that its channels serve is performed in memory. An access ends with an error, or, for a write, with nothing more to do,
or, for a read, with its data. -/
def Obligations.AccessRowsEnd : Prop :=
  ∀ (s e g : State) (ctx req half job kind va len k err place : Nat) (data : List Byte) (ans : HostData) (w : Who),
    e = newEdge s → g = newEdge (given ans s) → w = jobWho e ctx req half job →
    (∀ f t, accessFits e half kind va len data = true → translate ctx half (accOf kind) va e = (.flt f, t) →
      Ends (.memoryAccess ctx req half job kind va len data) s
        (accessFail job ⟨xStatus f.kind, f.kind == 10, f.kind⟩ req req 0 (xLog w (accOf kind) va f t)))
    ∧ (∀ o t a, accessFits e half kind va len data = true → translate ctx half (accOf kind) va e = (.ok o, t) →
      a = ⟨some w, memKind w kind o, va, o.pa, o.host, if kind = 1 then data.length else len, o.cls, data, 0, o.dying⟩ →
      o.host = true → hostHeld t w = false → Ends (.memoryAccess ctx req half job kind va len data) s
        (putAccess a (emitTlp (if kind = 1 then .hostWrite ctx o.pa data else .hostRead ctx o.pa len) t).2))
    ∧ (∀ o t, accessFits e half kind va len data = true → translate ctx half (accOf kind) va e = (.ok o, t) →
      o.host = true → hostHeld t w = true → Ends (.memoryAccess ctx req half job kind va len data) s e)
    ∧ (∀ o t a, accessFits e half kind va len data = true → translate ctx half (accOf kind) va e = (.ok o, t) →
      a = ⟨some w, memKind w kind o, va, o.pa, o.host, if kind = 1 then data.length else len, o.cls, data, 0, o.dying⟩ →
      o.host = false → targetOf t.member o.pa ≠ .regs → paServes t o.pa a.len = true →
      Ends (.memoryAccess ctx req half job kind va len data) s (memOrder w a t))
    ∧ (∀ a b t x, ans ≠ .peer → g.ms.accesses[k]? = some a →
      accessErr a err place { g with ms := { g.ms with accesses := dropAt g.ms.accesses k } } = (b, t) → b.host = false →
      b.who = some x → Ends (.accessComplete k err place ans) s
        (if b.bad ≠ 0 then accessFail x.job ⟨0x0406, true, 0⟩ x.req x.req 0 t
          else if b.kind = 1 then t else emit (.memData b.data false) t))
    ∧ (∀ a, ans ≠ .peer → g.ms.accesses[k]? = some a → Ends (.accessComplete k err place ans) s
        (accessDone k err place (arrived a.len g) g))
    ∧ Sys2Proof.Machine.exec (.accessComplete k err place .peer) s = .fault .peerAccess

/-- Writes of memory's registers: a fault log's TAIL of the MMU, FAULT, CANTOR and SLINK pages takes its value (R232), and
STATUS of the fault page follows (R465); INV_GO begins an invalidation and counts it (R227); NRC_INV remembers the near
caches to be emptied (R249); ENABLE of a channel takes it into or out of self-refresh, and accesses that can then be
served are performed (R240).

The events of DRAM, of the MMU and of the Bridge (R228, R236, R237, R250, R255, R463): an invalidation whose accesses
are done ends, a refresh slot that must steal beats counts them, a poll of MR4 is read, the scrubber reads its next
line or falls behind, and the Bridge replays a unit or goes down. -/
def Obligations.MemoryRowsEnd : Prop :=
  (∀ (q : Req) (v : W32) (s e : State) (h : Nat), e = edgeOf q.same s →
      (Lands q Rg.MMU_FLOG_TAIL v e → Ends (.flogTailWrite q Pg.MMU v) s (recorded q Rg.MMU_FLOG_TAIL v
        (wrF Rg.MMU_FLOG_TAIL 31 0 (fld v 31 0) e)))
      ∧ (Lands q Rg.FAULT_FLOG_TAIL v e → Ends (.flogTailWrite q Pg.FAULT v) s (recorded q Rg.FAULT_FLOG_TAIL v
        (faultStatSync (flogPages (wrF Rg.FAULT_FLOG_TAIL 31 0 (fld v 31 0) e) (rdN e Rg.FAULT_FLOG_TAIL) v.toNat)
          (wrF Rg.FAULT_FLOG_TAIL 31 0 (fld v 31 0) e))))
      ∧ (∀ a, a = Rg.CANTOR_FLOG_TAIL + h * 0x1000 → h < 2 → Lands q a v e → Ends (.flogTailWrite q (Pg.CANTOR + h) v) s
        (recorded q a v (wrF a 31 0 (fld v 31 0) e)))
      ∧ (∀ a, a = Rg.SLINK_FLOG_TAIL + h * 0x1000 → h < 2 → Lands q a v e → Ends (.flogTailWrite q (Pg.SLINK + h) v) s
        (recorded q a v (wrF a 31 0 (fld v 31 0) e)))
      ∧ (Lands q Rg.MMU_INV_GO v e → fbit v 0 = true → Ends (.invGo q v) s (recorded q Rg.MMU_INV_GO v
        (wr Rg.MMU_INV_STAT 1 (bumpWrap Rg.MMU_INV_ISSUED (markDying (rdF e Rg.MMU_INV_CTX 9 8) (rdF e Rg.MMU_INV_CTX 6 0)
          (rdN e Rg.MMU_INV_VA_LO / 0x1000 * 0x1000 + rdF e Rg.MMU_INV_VA_HI 15 0 * 0x100000000)
          (rdN e Rg.MMU_INV_COUNT) e)))))
      ∧ (∀ a l, a = Rg.LLC_NRC_INV + h * 0x1000 → h < 2 → l = logged q a v e e → Lands q a v e → Ends (.nrcInvArm q h v) s
        (recorded q a v (wr a (rd l a ||| (v &&& 0xFFFF)) l)))
      ∧ (∀ a l, a = hdr (Pg.DRAMC + h) Hdr.BLK_CTRL → h < 8 → l = logged q a v e e → Lands q a v e →
        Ends (.dramcEnableWrite q h v) s (recorded q a v
          (if fbit v 1 then startReset (Pg.DRAMC + h) (wrB a 1 true (wrB a 0 (fbit v 0) l))
            else stalledRun (selfRefresh h (wrB a 0 (fbit v 0) l))))))
  ∧ (∀ (s e : State) (c rate word cls : Nat), e = newEdge s →
      (rdB e Rg.MMU_INV_STAT 0 = true → (∀ a ∈ e.ms.accesses ++ e.ms.stalled, a.dying = false) → ∀ t,
        t = { e with mmu := ⟨e.mmu.tlb.filter (!·.dying), e.mmu.walks.filter (!·.dying)⟩ } → Ends .invDone s
          (setEvt Pg.MMU 1 (wr Rg.MMU_INV_STAT 0 (wr Rg.MMU_INV_DONE (rd t Rg.MMU_INV_ISSUED) t))))
      ∧ (∀ d a, (channels e.member).contains c = true → slotDue e c = true → d = (refreshPattern e c).length →
        a = drReg Rg.DRAMC_REF_STOLEN c → Ends (.refreshSlot c) s (if refreshNeeded e c ≤ d then e
          else setEvt (Pg.DRAMC + c) 2 (wr a (satAdd (rd e a) (2 * ceilDiv (refreshNeeded e c) d - 2)) e)))
      ∧ ((channels e.member).contains c = true → drTrained e c = true → rate < 8 → recording e = false → replaying e = false →
        Ends (.mr4Poll c rate) s (mr4Read c rate e))
      ∧ ((channels e.member).contains c = true → scrubMay e c = true → cls ≤ 4 → Ends (.scrubRead c word cls) s
        (scrubRead c word cls e))
      ∧ ((channels e.member).contains c = true → scrubBehindDue e c = true → Ends (.scrubPassEnd c) s
        (setEvt (Pg.DRAMC + c) 4 (wrB (drReg Rg.DRAMC_SCRUB c) 31 true (putScrub c e.clk.staves false e))))
      ∧ (bridgeUp e = true → Ends .bridgeReplay s (setEvt Pg.BRIDGE 0 (bump Rg.BRIDGE_REPLAYS e)))
      ∧ (bridgeUp e = true → Ends .bridgeDown s (raiseFault 10 Pg.BRIDGE 0 0 (setEvt Pg.BRIDGE 1 (bridgeLost e)))))

/-- LOAD.GO and LOAD.CANCEL, and tokens written by software (R267, R278). GO begins the validation of the image at
SCORE_PA; CANCEL disarms a score that is armed; TOKEN acts at once, and TOKEN_AT is queued for its line, of the next stave
where that line has begun.

SPAN_END (R280, R282): a job whose span has run out without its end is slipped: its core's overrun is counted where the
task has one, SLIPS steps, the event and Cantor's signal are raised, and the job ends with status 0x0401. -/
def Obligations.ScoreRowsEnd : Prop :=
  (∀ (q : Req) (v : W32) (s e : State) (h : Nat), e = edgeOf q.same s →
      (∀ w l, w = v ||| 1 → l = logged q Rg.CANTOR_LOAD w e e → Lands q Rg.CANTOR_LOAD w e → fbit v 1 = false →
        Ends (.scoreLoadGo q v) s (recorded q Rg.CANTOR_LOAD w (setLoadState 1 0 0 0 { l with cantor := { l.cantor with
          validating := some (rdN l Rg.CANTOR_SCORE_PA_LO + rdF l Rg.CANTOR_SCORE_PA_HI 15 0 * 0x100000000) } })))
      ∧ (∀ w l, w = v ||| 2 → l = logged q Rg.CANTOR_LOAD w e e → Lands q Rg.CANTOR_LOAD w e → fbit v 0 = false →
        rdF l Rg.CANTOR_LOAD_STAT 2 0 = 2 → Ends (.scoreLoadCancel q v) s (recorded q Rg.CANTOR_LOAD w
          (setLoadState 0 0 0 0 { l with cantor := { l.cantor with armed := none } })))
      ∧ (∀ a, a = Rg.CANTOR_TOKEN + h * 0x1000 → h < 2 → Lands q a v e → Ends (.cantorTokenWrite q h v) s
        (recorded q a v (tokenAct v.toNat e)))
      ∧ (∀ a n, a = Rg.CANTOR_TOKEN_AT + h * 0x1000 → h < 2 → n = rdF e (Rg.CANTOR_TOKEN_AT_LINE + h * 0x1000) 10 0 →
        Lands q a v e → Ends (.cantorTokenAtWrite q h v) s (recorded q a v { e with cantor := { e.cantor with
          timed := e.cantor.timed ++ [⟨(if n ≤ e.clk.line then e.clk.snum + 1 else e.clk.snum) * 1250 + n, v.toNat⟩] } })))
  ∧ (∀ (s e : State) (half job k : Nat) (j : Job), e = newEdge s → k = invKey half (job % 4096) → jobAt e k = some j →
      j.kind = 2 → j.done = false → j.startLin + j.span ≤ linLine e → (e.adm.restart.any (·.1 == k)) = false →
      (e.cantor.runs.find? fun r => r.2.w.job == k) = none →
      Ends (.spanEnd half job) s (jobEnd k 0x0401 4 (j.cores.headD 0) 0
        (cantorRaise (keyHalf k) 0x80 (setEvt (Pg.CANTOR + keyHalf k) 0 (bump (Rg.CANTOR_SLIPS + keyHalf k * 0x1000)
          (traceEvt 5 (j.cores.headD 0) (k % 4096 + 0x40000) e))))))

/-- Cantor's events (R267, R270, R275, R279 to R281, R284, R293, R294, R296, R297): a validated score is armed and a bad
one refused; on a core that is not fenced a task that may fire does; a task that is due slips; a task on a fenced core
ends its job; a task ends; a token arrives; commands are fetched; and a command completes. A write to an image or to a
command stream in use stops the model (UB-1202, UB-1301). -/
def Obligations.CantorEventsEnd : Prop :=
  ∀ (s e g : State) (core k addr n : Nat) (wt : Option Nat) (data : HostData), e = newEdge s → g = newEdge (given data s) →
    (∀ t c, s.cantor.imageWritten = false → e.cantor.validating = some addr →
      t = setEvt Pg.CANTOR 2 { e with cantor := { e.cantor with validating := none } } → readScore t addr = .ok c →
      Ends .scoreLoadDone s (cantorRaise 0 0x83 (setLoadState 2 0 0 0 { t with cantor := { t.cantor with armed := some c } })))
    ∧ (∀ t x, s.cantor.imageWritten = false → e.cantor.validating = some addr →
      t = setEvt Pg.CANTOR 2 { e with cantor := { e.cantor with validating := none } } → readScore t addr = .error x →
      Ends .scoreLoadDone s (cantorRaise 0 0x84 (loadRefused x t)))
    ∧ (s.cantor.imageWritten = true → Sys2Proof.Machine.exec .scoreLoadDone s = .fault .imageWritten)
    ∧ (∀ t w, e.clk.running = true → corePresent e.member core = true → held e = false → fenced e (Pg.CORE + core) = false →
      t = requestBufs core e → coreRun t core = none → firstToFire ((begun t core).filter (mayFire t)) = some w →
      Ends (.taskFire core) s (fireTask core w t))
    ∧ (∀ w, e.clk.running = true → corePresent e.member core = true → fenced e (Pg.CORE + core) = false →
      slipDue e core = some w → Ends (.taskSlip core) s (slipTask w (slipCause e w) e))
    ∧ (∀ w l, e.clk.running = true → corePresent e.member core = true → fenced e (Pg.CORE + core) = true →
      begun e core = w :: l → Ends (.fencedTaskCancel core) s (jobEnd w.job 0x0404 0 core w.task.idx e))
    ∧ (streamHit s core = false → taskEnds e core = true → Ends (.taskEnd core) s (taskDone core e))
    ∧ (streamHit s core = true → Sys2Proof.Machine.exec (.taskEnd core) s = .fault .streamWritten)
    ∧ (∀ t, e.cantor.tokens[k]? = some t → Ends (.tokenArrival k) s
      (tokenAct t { e with cantor := { e.cantor with tokens := dropAt e.cantor.tokens k } }))
    ∧ (streamHit s core = false → data ≠ .peer → Ends (.commandFetch core wt data) s
      (match wt with
        | some n => fetchReady regRead core n g
        | none => fetchRun regRead core g))
    ∧ (streamHit s core = true → Sys2Proof.Machine.exec (.commandFetch core wt data) s = .fault .streamWritten)
    ∧ (streamHit s core = false → Sys2Proof.Machine.exec (.commandFetch core wt .peer) s = .fault .peerAccess)
    ∧ (∀ r x, coreRun e core = some r → r.out.find? (·.unit == n) = some x → Ends (.commandComplete core n) s
      (completeCmd core n e))

/-! ## Inference cores, cameras and Chafer -/

/-- The command at the head of a core's stream (R294, R295, R299 to R315): where it is of the row, passes its checks and
may issue beside those outstanding, the stream advances, the command takes effect, and it is outstanding until it
completes; NOP and TOKEN complete at once. One whose access fails ends its task by that failure, one whose access
to a host page may not leave now does not issue yet (log entry 72), and one that a check
refuses, with none outstanding, is a command error. A LOAD, STORE or atomic that needs an answer of the host finds the one
given, and one from another endpoint is undefined (UB-0601). -/
def Obligations.TensorCommandsIssue : Prop :=
  ∀ (s : State) (c : Nat) (data : HostData) (z : State) (i : Instr) (row : Nat × Nat) (r : CoreRun) (l : List Byte) (rest : List (List Byte)),
    ((z = newEdge s ∧ (i, row) ∈ [(Instr.nop c, (tcNop, 0)), (.mma c, (tcMma, 0)), (.conv c, (tcConv, 0)),
        (.ewiseAdd c, (tcEwise, 0)), (.ewiseSub c, (tcEwise, 1)), (.ewiseMul c, (tcEwise, 2)), (.ewiseMax c, (tcEwise, 3)),
        (.ewiseMin c, (tcEwise, 4)), (.ewiseCvt c, (tcEwise, 5)), (.ewiseAbs c, (tcEwise, 6)), (.ewiseNeg c, (tcEwise, 7)),
        (.act c, (tcAct, 0)), (.poolMax c, (tcPool, 0)), (.poolAvg c, (tcPool, 1)), (.reduceSum c, (tcReduce, 0)),
        (.reduceMax c, (tcReduce, 1)), (.reduceMin c, (tcReduce, 2)), (.reduceArgmax c, (tcReduce, 3)),
        (.reduceArgmin c, (tcReduce, 4)), (.transpose c, (tcTranspose, 0)), (.scale c, (tcScale, 0)), (.sig c, (tcSig, 0)),
        (.token c, (tcToken, 0))])
      ∨ (z = newEdge (given data s) ∧ data ≠ .peer ∧ (i, row) ∈ [(Instr.load c data, (tcLoad, 0)), (.store c data, (tcStore, 0)),
        (.atomicAdd c data, (tcStore, 1)), (.atomicMax c data, (tcStore, 2))])) →
    coreRun z c = some r → r.w.cmds = l :: rest → tcmdRow l = row →
    (∀ d u r1 t, tcmdCause z c r.w l = 0 →
      d = absSpans z c r.w.inv (inSpans l ++ (if bit (subopOf l) 0 then accSpan l else [])) →
      u = absSpans z c r.w.inv (outSpans l) → mayIssueCmd r l d u = true →
      r1 = { r with w := { r.w with cmds := rest }, idx := r.idx + 1 } →
      t = wr (Rg.CORE_CMD_IDX + c * 0x1000) (w32 r1.idx)
        { z with cantor := { z.cantor with runs := kvInsert z.cantor.runs c r1 } } →
      (∀ x g y, runCmd regRead c r1.w l t = (some x, g, y) → x.held = false → Ends i s (accessFail r1.w.job x c c r1.w.task.idx y))
      ∧ (∀ x g y, runCmd regRead c r1.w l t = (some x, g, y) → x.held = true → Ends i s z)
      ∧ (∀ g y, runCmd regRead c r1.w l t = (none, g, y) → opcodeOf l = tcNop ∨ opcodeOf l = tcToken →
        Ends i s (fetchFault c (bump (Rg.CORE_CMDS + c * 0x1000) y)))
      ∧ (∀ g y r2 r3, runCmd regRead c r1.w l t = (none, g, y) → opcodeOf l ≠ tcNop → opcodeOf l ≠ tcToken →
        coreRun y c = some r2 → r3 = { r2 with out := r2.out ++ [⟨unitOf (opcodeOf l), d, u, linBeat y, g⟩] } →
        Ends i s (fetchFault c { y with cantor := { y.cantor with runs := kvInsert y.cantor.runs c r3 } })))
    ∧ (tcmdCause z c r.w l ≠ 0 → r.out = [] → Ends i s (cmdError c r (tcmdCause z c r.w l) l z))

/-- What a command of a core writes (R302 to R313, R451), where its operands hold no uncorrectable error: each computing
command writes the bytes that its own rule gives, row by row, reading scratch as it stood; the open values are free (log
entry 6). SIG with ROUND in a score task also delivers its signature. -/
def Obligations.TensorCommandResults : Prop :=
  ∀ (s t : State) (c : Nat) (w : Wait) (l : List Byte) (sc : Scr) (fr : Nat → Nat) (n : Nat) (out : Out),
    scrErrs c w.inv (inSpans l ++ (if (opcodeOf l == tcMma || opcodeOf l == tcConv) && bit (subopOf l) 0 then accSpan l else [])) s
      = (false, t) → sc = scrView t c w.inv → fr = (fun i => Config.freeNat (t.free + 1 + i)) →
    ((opcodeOf l = tcMma ∧ out = mmaOut sc l ∧ n = 1) ∨ (opcodeOf l = tcConv ∧ out = convOut sc l ∧ n = 1)
      ∨ (opcodeOf l = tcEwise ∧ out = ewiseOut sc (fr 0) l ∧ n = 1) ∨ (opcodeOf l = tcAct ∧ out = actOut sc l ∧ n = 1)
      ∨ (opcodeOf l = tcPool ∧ out = poolOut sc fr l ∧ n = (poolGeo l).oh * (poolGeo l).ow * h2 l 12)
      ∨ (opcodeOf l = tcReduce ∧ out = reduceOut sc (fr 0) l ∧ n = 1)
      ∨ (opcodeOf l = tcTranspose ∧ out = transposeOut sc l ∧ n = 1)
      ∨ (opcodeOf l = tcScale ∧ n = h2 l 12 ∧ out = if Config.freeBool t.free then scaleScales sc l ++ scaleRows sc fr l
        else scaleRows sc fr l ++ scaleScales sc l)) →
    runCmd regRead c w l s
      = (none, none, out.foldl (fun y x => scrWrite c w.inv x.1 x.2 y) { t with free := t.free + 1 + n })

/-- Camera packets that reach their port with no Weevil rule in the way (R330, R336, R337): a frame start, a frame end, a
long packet and another short packet are taken as such.

The other camera events (R329, R339, R341, R345): a stream that is due to be taken as detached shows it with its event,
a group whose hold is over is released, a slot is given back with its buffers, and PHY_UP follows the receiver. -/
def Obligations.CameraRowsEnd : Prop :=
  (∀ (s e : State) (p vc dt num wc ecc : Nat) (crcOk : Bool) (l : List Byte), e = newEdge s → camReceives e p = true →
      wvIdle e = true →
      Ends (.cameraFs p vc num ecc) s (camTake p ⟨vc % 16, 0, num % 0x10000, [], ecc, true⟩ e)
      ∧ Ends (.cameraFe p vc num ecc) s (camTake p ⟨vc % 16, 1, num % 0x10000, [], ecc, true⟩ e)
      ∧ (0x10 ≤ dt → dt < 0x40 → Ends (.cameraLongPacket p vc dt wc ecc crcOk l) s (camTake p ⟨vc % 16, dt, wc % 0x10000, l, ecc, crcOk⟩ e))
      ∧ (2 ≤ dt → dt < 0x10 → Ends (.cameraOtherShortPacket p vc dt num ecc) s (camTake p ⟨vc % 16, dt, num % 0x10000, [], ecc, true⟩ e)))
  ∧ (∀ (q : Req) (v : W32) (s e n : State) (st g p : Nat) (up : Bool), e = edgeOf q.same s → n = newEdge s →
      (st < 32 → present n.member (camPg st) = true → detachDue n st = true → Ends (.cameraDetach st) s
        (setEvt (camPg st) 7 (hwSet 5 (camStat st) (setFld (rd n (camStat st)) 0 0 0) n)))
      ∧ (g < 4 → holdDue n g = true → Ends (.groupHoldExpiry g) s (groupRelease g n))
      ∧ (∀ a, a = portReg Rg.CAM_RELEASE p → p < 8 → Lands q a v e → Ends (.camRelease q p v) s
        (recorded q a v (freeSlot (4 * p + fld v 1 0) (fld v 7 4) e)))
      ∧ (p < 8 → present n.member (camPort p) = true → Ends (.phyUpChange p up) s (wrB (portReg Rg.CAM_PORT_STAT p) 0 up n)))

/-- A Chafer window (R350, R361, R364, R366, R367): the event of its line starts it, the bodies left open are taken at the
end of line 0, setup ends, evaluation ends from line 72, a survey's token is sent, and what is not done by the end of line
74 makes the window late. -/
def Obligations.ChaferWindowsEnd : Prop :=
  ∀ (s e g : State) (h stall : Nat) (data : HostData), e = newEdge s → g = newEdge (given data s) →
    (∀ x, data ≠ .peer → windowEvent g h = some x → Ends (.chaferWindowStart h data) s
      (winStart regRead h x.arg { g with cantor := { g.cantor with events := g.cantor.events.erase x } }))
    ∧ (∀ w, data ≠ .peer → chWin g h = some w → w.took = false → w.lin + 1 ≤ linLine g → Ends (.chaferOpenTake h data) s
      (openTake regRead h w g))
    ∧ (∀ w, data ≠ .peer → chWin g h = some w → w.phase = 1 → w.took = true → Ends (.chaferSetupDone h data) s
      (setupDone regRead h w g))
    ∧ (∀ w, data ≠ .peer → chWin g h = some w → w.phase = 2 → w.lin + 72 ≤ linLine g → Ends (.chaferEvalEnd h stall data) s
      (evalEnd h stall w g))
    ∧ (∀ w, chWin e h = some w → w.phase = 3 → w.surveys.any (·.tokenDue) = true → Ends (.chaferSurveyToken h) s (surveyToken h w e))
    ∧ (∀ w, chWin e h = some w → w.phase = 3 → w.lin + 75 ≤ linLine e → Ends (.chaferLate h) s
      (setEvt (Pg.CHAFER + h) 2 (wrB (chReg Rg.CHAFER_WIN_RESULT h) 1 true e)))
    ∧ (∀ i ∈ [Instr.chaferWindowStart h .peer, .chaferOpenTake h .peer, .chaferSetupDone h .peer, .chaferEvalEnd h stall .peer],
      Sys2Proof.Machine.exec i s = .fault .peerAccess)

/-! ## Display and audio -/

/-- The events of the display heads (R375, R383, R387, R389, R391): a head latches the set of its next line after the
line-table entries of that line are written, a line that is due is shown, and the sprite table and the line table are
fetched and loaded. Head 0 fetches a segment for the score's event, and head 1 by its own lines. -/
def Obligations.DisplayEventsEnd : Prop :=
  ∀ (s e : State) (h : Nat) (bad : List Nat) (late : List (Nat × Nat × Nat)) (b : Bool), e = newEdge s →
    (setDue e h = true → Ends (.setBoundary h bad) s (setLatch h (wHead e h).next bad (tableApply tableWrite h (wHead e h).next e)))
    ∧ (lineDue e h = true → Ends (.displayLineStart h late) s (lineStart h late e))
    ∧ (e.clk.running = true → h < 2 → wDline e h + 2 = wVtotal e h → (wHead e h).sprAt ≠ (wHead e h).lines →
      (wHead e h).lines ≠ 0 → ∀ x t, x = { wHead e h with sprAt := (wHead e h).lines } → t = putHead h x e →
      enabled t (wcPg h) = true → rdB t (wcReg Rg.WINGCASE_HEAD_STAT h) 17 = false →
      (b = true → Ends (.spriteTableFetch h b) s (setEvt (wcPg h) 6 (wcCount h 4 t)))
      ∧ (b = false → Ends (.spriteTableFetch h b) s (spriteFetch h false e)))
    ∧ (∀ x, e.clk.running = true → (e.cantor.events.find? fun y => y.unit == 2 && y.beat ≤ e.clk.beat) = some x →
      Ends (.lineTableFetch 0) s (segFetch 0 x.arg none { e with cantor := { e.cantor with events := e.cantor.events.erase x } }))
    ∧ (∀ k, e.clk.running = true → lt1Due e = some k → Ends (.lineTableFetch 1) s
      (segFetch 1 (rd64 e (Rg.WINGCASE_LT1_BASE_LO + 0x1000) + 2112 * k) (some (32 * k)) e))
    ∧ (h < 2 → Ends (.lineTableLoaded h) s (segLoaded h e))

/-- Registers of display and audio (R378, R397, R401, R408, R411, R413): the palette is written and read at its index,
which advances modulo 1,024; HEAD_CTRL takes its value; a generic packet is queued; a voice is keyed on or off; and the
gain of a node waits for its sample. -/
def Obligations.DisplayAndAudioRegistersEnd : Prop :=
  ∀ (q : Req) (v : W32) (s e : State) (h o : Nat), e = edgeOf q.same s →
    (∀ a x, a = wcReg Rg.WINGCASE_PAL_DATA h → x = rdN e (wcReg Rg.WINGCASE_PAL_IDX h) % 1024 → h < 2 → Lands q a v e →
      Ends (.palDataWrite q h v) s (recorded q a v (wr (wcReg Rg.WINGCASE_PAL_IDX h) (w32 ((x + 1) % 1024))
        { e with wing := { e.wing with pals := kvPut 0 e.wing.pals (h * 1024 + x) v } })))
    ∧ (∀ x n, n = newEdge s → x = rdN n (wcReg Rg.WINGCASE_PAL_IDX h) % 1024 → h < 2 → ReadsAt o (Pg.WINGCASE + h) 0x84 n →
      Ends (.palDataRead o h) s (emit (.readData o (palEntry n h x).toNat) (wr (wcReg Rg.WINGCASE_PAL_IDX h) (w32 ((x + 1) % 1024)) n)))
    ∧ (∀ a l, a = wcReg Rg.WINGCASE_HEAD_CTRL h → l = logged q a v e e → h < 2 → Lands q a v e → Ends (.safeOnlyWrite q h v) s
      (recorded q a v (wrF a 0 0 (fld v 0 0) l)))
    ∧ (∀ w l, w = v ||| 1 → l = logged q Rg.DSI_GEN_GO w e e → Lands q Rg.DSI_GEN_GO w e → Ends (.dsiGenGo q v) s
      (recorded q Rg.DSI_GEN_GO w (dsiGenGo l)))
    ∧ (Lands q Rg.CHOIR_KEY_ON v e → Ends (.choirKeyOnWrite q v) s (recorded q Rg.CHOIR_KEY_ON v
      (queueSync { e with choir := { e.choir with queue := e.choir.queue ++ [(q.origin, fld v 4 0, linLine e)] } })))
    ∧ (∀ x, x = voiceOf e (fld v 3 0) → x.phase ≠ 0 → Lands q Rg.CHOIR_KEY_OFF v e → Ends (.keyOff q v) s
      (recorded q Rg.CHOIR_KEY_OFF v (putVoice (fld v 3 0) { x with off := true } e)))
    ∧ (∀ l, l = logged q Rg.CHOIRXP_XP_NODE v e e → Lands q Rg.CHOIRXP_XP_NODE v e → Ends (.xpNodeWrite q v) s
      (recorded q Rg.CHOIRXP_XP_NODE v (xpNext (putNode (xpIdx l)
        { nodeOf l (xpIdx l) with new := some (signed 16 (fld v 15 0), fld v 31 16) } l))))

/-- The events of DSI, of Choir and of the TDM ports (R401, R404, R409, R416, R418, R420): a generic packet is sent in a
blanking line after its own, the keys of a line and of the score are allocated, a sample is made of each domain once, a
rate converter locks and unlocks, and a frame of slots is taken. -/
def Obligations.AudioEventsEnd : Prop :=
  ∀ (s e : State) (late bad raw : List Nat) (p : Nat) (b : Bool), e = newEdge s →
    (∀ lin g d, e.wing.gen = some (lin, g, d) → lin < linLine e → dsiBlank e = true → enabled e Pg.DSI = true →
      Ends .dsiGenSend s (setEvt Pg.DSI 0 (wrB Rg.DSI_GEN_STAT 0 false (emit (.dsi (setBits g 7 6 (rdF e Rg.DSI_CFG 20 19)) d)
        { e with wing := { e.wing with gen := none } }))))
    ∧ (e.clk.running = true → Ends .keyOnAllocate s (keyAllocate e))
    ∧ (atSample e = true → e.choir.lastA ≠ aIndex e + 1 → Ends (.audioSample late bad) s (audioSample late bad e))
    ∧ (atSample e = true → aIndex e % 3 = 0 → e.choir.lastC ≠ aIndex e / 3 + 1 → e.choir.lastA ≠ aIndex e + 1 →
      Ends .domainCSample s (domainCSample e))
    ∧ (p < 4 → tdmRuns e p = true → tdmDomain e p = 1 → Ends (.asrcLock p) s (wrB (Rg.TDM_STAT + 0x1000 * p) 1 true e))
    ∧ (p < 4 → tdmLocked e p = true → Ends (.asrcUnlock p) s (setEvt (Pg.TDM + p) 0 (wrB (Rg.TDM_STAT + 0x1000 * p) 1 false e)))
    ∧ (tdmDomain e p = 1 ∨ isolated e hyAudio = false → Ends (.tdmFrameReceive p raw b) s (tdmTake p raw b e))

/-! ## Timers and side ports -/

/-- Timers and captures (R422, R423, R428, R429, R431, R432): a channel that may count ticks, the terminal tick among its
ticks; a channel is reset and captured by software; an edge of its source captures; the oldest capture is read; and a
snapshot keeps every counter and the time. -/
def Obligations.TimerRowsEnd : Prop :=
  ∀ (q : Req) (v : W32) (s e n : State) (c o : Nat) (b : Bool), e = edgeOf q.same s → n = newEdge s → c < 16 →
    (n.clk.running = true → n.clk.sub % 2 = 0 → fld (tmCfg n c) 3 2 = 0 → n.timer.acted.contains c = false → tmCan n c = true →
      ∀ t, t = pinsSync (outSync c (tmMark c (if tmLast n c then tmTerminal c n else tmPlain c n))) →
      (tmLast n c = true → Ends (.timerTerminalTick c) s t) ∧ (tmLast n c = false → Ends (.timerTick c) s t))
    ∧ (∀ w a, w = v ||| 1 → a = Rg.TIMER_CH_CTRL + 4 * c → Lands q a w e → fbit v 1 = false → e.timer.loaded.contains c = false →
      Ends (.timerSwReset q c v) s (recorded q a w (pinsSync (outSync c (tmMark c (tmLoad c 0 e))))))
    ∧ (∀ w a, w = v ||| 2 → a = Rg.TIMER_CH_CTRL + 4 * c → Lands q a w e → fbit v 0 = false →
      Ends (.timerSwCap q c v) s (recorded q a w (capture c false true e)))
    ∧ (n.clk.running = true → enabled n Pg.TIMER = true → 1 ≤ capSrc n c → capSrc n c ≤ 32 →
      (rdF n (Rg.TIMER_CAP_CFG + 4 * c) 9 8 = 2 ∨ (rdF n (Rg.TIMER_CAP_CFG + 4 * c) 9 8 == 0) = b) →
      Ends (.timerCapture c b) s (capture c true false n))
    ∧ (∀ x l, ReadsAt o Pg.TIMER (0x100 + 16 * c) n → kvGet [] n.timer.queues c = x :: l →
      Ends (.capPopRead o c) s (emit (.readData o (w32 x.cnt).toNat) (wrF (tmStat c) 6 4 l.length { n with timer :=
        { n.timer with queues := kvPut [] n.timer.queues c l, pops := kvInsert n.timer.pops (c * 256 + o) x } })))
    ∧ (∀ w, w = v ||| 1 → Lands q Rg.TIMER_SNAP w e → Ends (.timerSnap q v) s (recorded q Rg.TIMER_SNAP w
      (wr64 Rg.TIMER_SNAP_ST_LO (stimePer e) ((List.range 16).foldl (fun t k => wr (Rg.TIMER_SNAP_CNT + 4 * k) (w32 (tmCnt t k)) t) e))))

/-- Ethernet (R435 to R437, R439, R441): a frame that reaches a port that is up is accepted by its filters, RX_HEAD and a
queue's tail take their values, an idle port picks the next frame to send, a sent frame's descriptor is written back and
counted, and LINK_STAT follows the link. -/
def Obligations.EthernetRowsEnd : Prop :=
  ∀ (q : Req) (v : W32) (s e n : State) (m k speed : Nat) (up an : Bool) (l : List Byte), e = edgeOf q.same s → n = newEdge s → m < 2 →
    (ethUp n m = true → wvIdle n = true → isolated n hyEth = false → Ends (.ethRxFrame m l) s (ethAccept m l (hymnRec hyEth m 0 l n)))
    ∧ (∀ a, a = ethReg Rg.ETH_RX_HEAD m → Lands q a v e → Ends (.ethRxHeadWrite q m v) s (recorded q a v (wrF a 31 0 (fld v 31 0) e)))
    ∧ (∀ a, a = ethReg Rg.ETH_TXQ_TAIL m + 4 * k → k < 8 → Lands q a v e → Ends (.ethTxqTailWrite q m k v) s
      (recorded q a v (wrF a 31 0 (fld v 31 0) e)))
    ∧ (n.clk.running = true → ethUp n m = true → kvFind n.port.sending m = none → Ends (.ethTxStart m) s (txPick m 8 n))
    ∧ (∀ t, kvFind n.port.sending m = some t → Ends (.ethTxDone m) s (txWritten m t.q (ethCount m 6
      (devWrite clsPort (t.desc + 16) (toLE 8 t.stime) (devWrite clsPort (t.desc + 10) (toLE 1 (1 + b2n t.poison * 4))
        { n with port := { n.port with sending := kvErase n.port.sending m } })))))
    ∧ (∀ a w, a = ethReg Rg.ETH_LINK_STAT m → w = w32 (b2n up + speed % 4 * 2 + b2n an * 8) → present n.member (ethPg m) = true →
      Ends (.ethLinkChange m up speed an) s (if rdB n a 0 = up then wr a w n else setEvt (ethPg m) 2 (hwSet 5 a w n)))

/-- I3C (R443, R444): XFER_GO begins the transfer that XFER_CTRL describes; the end of a transfer gives its result and its
bytes; an in-band interrupt is queued, or refused where the queue is full or the message is a join that is not taken; and
the oldest is read. -/
def Obligations.I3cRowsEnd : Prop :=
  ∀ (q : Req) (v : W32) (s e n : State) (b o result count addr : Nat) (l : List Byte), e = edgeOf q.same s → n = newEdge s → b < 4 →
    (∀ w a i, w = v ||| 1 → a = i3cReg Rg.I3C_XFER_GO b → Lands q a w e →
      (i3cKind s b = 0 ∧ i = Instr.i3cPrivateXfer q b v) ∨ (i3cKind s b = 1 ∧ i = .i2cXfer q b v)
        ∨ (i3cKind s b = 2 ∧ i3cDaa s b = false ∧ i = .broadcastCcc q b v) ∨ (i3cDaa s b = true ∧ i = .entdaa q b v)
        ∨ (i3cKind s b = 3 ∧ i = .directCcc q b v) →
      Ends i s (recorded q a w (i3cGo b e)))
    ∧ (i3cBusy n b = true → isolated n hySide = false → Ends (.i3cXferDone b result count l) s (i3cDone b result count l n))
    ∧ (enabled n (Pg.I3C + b) = true → isolated n hySide = false →
      8 ≤ (i3cBus n b).ibis.length ∨ (addr = 2 ∧ rdB n (i3cReg Rg.I3C_CFG b) 16 = false) →
      Ends (.i3cIbi b addr l) s (setEvt (Pg.I3C + b) 2 (bump (i3cReg Rg.I3C_IBI_NACKED b) n)))
    ∧ (∀ x, enabled n (Pg.I3C + b) = true → isolated n hySide = false → (i3cBus n b).ibis.length < 8 →
      (addr = 2 → rdB n (i3cReg Rg.I3C_CFG b) 16 = true) → ∀ t, t = hymnRec hySide b (hymnKind hySide 3) (toLE 1 addr ++ l.take 4) n →
      x = { i3cBus n b with ibis := (i3cBus n b).ibis ++ [⟨addr % 128, l.take 4, stimeNow t⟩] } →
      Ends (.i3cIbi b addr l) s (setEvt (Pg.I3C + b) 1 (putI3c b x t)))
    ∧ (∀ x r, ReadsAt o (Pg.I3C + b) 0x50 n → (i3cBus n b).ibis = x :: r → ∀ t, t = putI3c b { i3cBus n b with ibis := r } n →
      Ends (.ibiPopRead o b) s (emit (.readData o (w32 (x.addr + 0x80 + x.data.length * 0x100)).toNat)
        { t with port := { t.port with ibiPops := kvInsert t.port.ibiPops (b * 256 + o) x } }))

/-- SPI and GPIO (R445 to R447): a controller's transfer begins at once or waits for its line, and ends with its bytes; the
target takes writes while its buffer is free, answers reads and status, counts a bad command, and publishes its block; and
a pin's edge shows in IN and raises its event, and the output pins are set and cleared. -/
def Obligations.SpiAndGpioRowsEnd : Prop :=
  ∀ (q : Req) (v : W32) (s e n : State) (k off len : Nat) (b : Bool) (l : List Byte), e = edgeOf q.same s → n = newEdge s →
    (∀ w a, w = v ||| 1 → a = spiReg Rg.SPI_CTL_GO k → k < 2 → Lands q a w e → Ends (.spiCtlGo q k v) s (recorded q a w (spiGo k e)))
    ∧ (∀ lin d, n.clk.running = true → k < 2 → (spiCtl n k).armed = some (n.clk.line, lin, d) → lin < linLine n →
      Ends (.spiTimedStart k) s (emit (.spi k d) (putSpi k { spiCtl n k with armed := none } n)))
    ∧ (k < 2 → isolated n hySide = false → spiBusy n k = true → (spiCtl n k).armed = none → Ends (.spiCtlDone k l) s (spiDone k l n))
    ∧ (tgtAnswers n = true →
      (isolated n hySide = false → rdB n Rg.SPI_TGT_CTRL 0 = true → Ends (.spiTgtWrite off l) s (setEvt Pg.SPI 3
        (bumpWrap Rg.SPI_TGT_OVERRUN { n with port := { n.port with ovr := true } })))
      ∧ (isolated n hySide = false → rdB n Rg.SPI_TGT_CTRL 0 = false → l ≠ [] → Ends (.spiTgtWrite off l) s (setEvt Pg.SPI 0
        (bumpWrap Rg.SPI_TGT_SEQ (wrB Rg.SPI_TGT_CTRL 0 true (tgtStore (off % 128) l
          (hymnRec hySide 0 (hymnKind hySide 0) (toLE 1 (off % 128) ++ l) n))))))
      ∧ Ends (.spiTgtRead off len) s (emit (.spiTgt ((List.range len).map fun j => (n.port.mailbox.drop ((off % 128 + j) % 128)).headD 0)) n)
      ∧ (∀ low t, faultLow n = (low, t) → Ends .spiTgtStatus s (emit (.spiTgt (toLE 1 (b2n (rdB t Rg.SPI_TGT_CTRL 0)
        + b2n t.port.ovr * 2 + b2n low * 4 + b2n (!beforeS6 t) * 8) ++ toLE 4 t.port.txSeq)) { t with port := { t.port with ovr := false } }))
      ∧ Ends .spiTgtBadcmd s (bumpWrap Rg.SPI_TGT_BADCMD n))
    ∧ (∀ w, w = v ||| 2 → Lands q Rg.SPI_TGT_CTRL w e → fbit v 0 = false → ∀ l t, l = logged q Rg.SPI_TGT_CTRL w e e →
      t = wr Rg.SPI_TGT_CTRL (rd l Rg.SPI_TGT_CTRL) l →
      Ends (.spiPublish q v) s (recorded q Rg.SPI_TGT_CTRL w { t with port := { t.port with publish := true } }))
    ∧ (∀ d, n.port.publish = true → d = ((List.range 32).flatMap fun j => toLE 4 (rdN n (Rg.SPI_TGT_TX + 4 * j))) →
      Ends .spiPublishApply s { n with port := { n.port with mailbox := d, txSeq := (n.port.txSeq + 1) % 0x100000000, publish := false } })
    ∧ (∀ w, w = v ||| 1 → Lands q Rg.SPI_TGT_CTRL w e → fbit v 1 = false → ∀ l, l = logged q Rg.SPI_TGT_CTRL w e e →
      Ends (.spiRxFullClear q v) s (recorded q Rg.SPI_TGT_CTRL w (wrB Rg.SPI_TGT_CTRL 0 false l)))
    ∧ (k < 32 → rdB n Rg.GPIO_IN k ≠ b → isolated n hyGpio = false → ∀ t, t = wrB Rg.GPIO_IN k b n →
      ∀ r, r = hymnRec hyGpio 0 (rdN t Rg.GPIO_IN) [] t →
      Ends (.gpioEdge k b) s (if rdB r (if b then Rg.GPIO_RISE else Rg.GPIO_FALL) k then setEvt Pg.GPIO k r else r))
    ∧ (Lands q Rg.GPIO_OUT_SET v e → Ends (.gpioOutSet q v) s (recorded q Rg.GPIO_OUT_SET v
      (pinsSync (wr Rg.GPIO_OUT (rd e Rg.GPIO_OUT ||| v) e))))
    ∧ (Lands q Rg.GPIO_OUT_CLR v e → Ends (.gpioOutClr q v) s (recorded q Rg.GPIO_OUT_CLR v
      (pinsSync (wr Rg.GPIO_OUT (rd e Rg.GPIO_OUT &&& ~~~v) e))))

/-! ## Rounds, watches, fences and faults -/

/-- Rounds and unison (R451, R452, R455, R456): a signature under way arrives; a round whose deadline has come with fewer
than two credits is incomplete; the harts of a pair that differ stop in reset with the fault; and a pair is started anew by
RESTART.

The age watches (R457 to R459): a watch's configuration starts its age anew, AW_FEED feeds a watch whose source is
software, and a watch whose age passes its limit expires, with the fault AGE_EXPIRY. -/
def Obligations.WatchRowsEnd : Prop :=
  (∀ (q : Req) (v : W32) (s e n : State) (k id h pc : Nat), e = edgeOf q.same s → n = newEdge s →
      (∀ m, n.safety.sigs[k]? = some m → Ends (.roundSignature k) s (roundArrive m { n with safety := { n.safety with sigs := dropAt n.safety.sigs k } }))
      ∧ (∀ x, roundOf n id = some x → deadlineDue n x = true → Ends (.roundDeadline id) s (roundIncomplete x n))
      ∧ (∀ b t, h < 4 → hartRunning n h = true → b = h * 0x1000 →
        t = setHartReset h true (wr (Rg.HART_MIS_PC + b) (w32 pc) (bump (Rg.HART_MISMATCHES + b) (wr (Rg.HART_STAT + b) (w32 2) n))) →
        Ends (.unisonMismatch h pc) s (setEvt (hartPg h) 0 (raiseFault 4 (hartPg h) h (pc % 0x100000000)
          (wrB Rg.DEBUG_STAT (4 + h) false (evDropHart h (putHart h { hartSt t h with halted := false, wfi := false, pc := pc } t))))))
      ∧ (∀ w a l, w = v ||| 1 → a = Rg.HART_CTRL + h * 0x1000 → h < 4 → l = logged q a w e e → Lands q a w e →
        Ends (.hartRestart q h v) s (recorded q a w (setEvt (hartPg h) 1 (bump (Rg.HART_RESTARTS + h * 0x1000) (hartStart h l))))))
  ∧ (∀ (q : Req) (v : W32) (s e n : State) (w : Nat), e = edgeOf q.same s → n = newEdge s →
      (∀ a l, a = Rg.AGEWATCH_AW_CFG + 4 * w → w < 256 → l = logged q a v e e → Lands q a v e → Ends (.awCfgWrite q w v) s
        (recorded q a v (putWatch w ⟨0, false, (watchOf (wr a (storeWord [⟨2, 0, .rw, 0⟩, ⟨15, 3, .rw, 0⟩, ⟨31, 16, .rw, 0⟩] (rd l a) v) l) w).fed⟩
          (wr a (storeWord [⟨2, 0, .rw, 0⟩, ⟨15, 3, .rw, 0⟩, ⟨31, 16, .rw, 0⟩] (rd l a) v) l))))
      ∧ (Lands q Rg.AGEWATCH_AW_FEED v e → fld (rd e (Rg.AGEWATCH_AW_CFG + 4 * fld v 7 0)) 2 0 = 4 → Ends (.awFeedWrite q v) s
        (recorded q Rg.AGEWATCH_AW_FEED v (putWatch (fld v 7 0) ⟨0, false, true⟩ e)))
      ∧ (w < 256 → watchDue n w = true → ∀ t, t = putWatch w { watchOf n w with expired := true } n → Ends (.ageExpiry w) s
        (setEvt Pg.AGEWATCH 0 (raiseFault 3 Pg.AGEWATCH w 0 (raiseSrc (0x300 + w) (bump Rg.AGEWATCH_EXPIRIES t))))))

/-- Fences, faults, the fault pin and the watchdog (R461 to R464, R467, R468): a unit is fenced, software raises a fault,
the classes of the causes are written and locked, the pin is released once its time is over, at the write or later, and the
watchdog is set, kicked in its way or not, and expires. -/
def Obligations.FaultRowsEnd : Prop :=
  ∀ (q : Req) (v : W32) (s e n : State), e = edgeOf q.same s → n = newEdge s →
    (Lands q Rg.SAFETY_FENCE v e → Ends (.safetyFenceWrite q v) s (recorded q Rg.SAFETY_FENCE v (fenceUnit (fld v 7 0) e)))
    ∧ (Lands q Rg.FAULT_RAISE v e → Ends (.faultRaiseWrite q v) s (recorded q Rg.FAULT_RAISE v (raiseFault 14 Pg.FAULT (fld v 15 0) q.origin e)))
    ∧ (∀ a l, a = Rg.FAULT_CLASS_MAP → l = logged q a v e e → Lands q a v e → Ends (.classMapWrite q v) s
      (recorded q a v (wrF a 31 0 (fld v 31 0) l)))
    ∧ (∀ a w l, a = Rg.FAULT_CLASS_LOCK → w = v ||| 1 → l = logged q a w e e → Lands q a w e → Ends (.classLockWrite q v) s
      (recorded q a w (wr a 1 l)))
    ∧ (∀ a w l, a = Rg.FAULT_PIN → w = v ||| 4 → l = logged q a w e e → Lands q a w e → Ends (.pinReleaseWrite q v) s
      (recorded q a w (if pinWaited l then pinRelease l else wrB Rg.FAULT_PIN 3 true l)))
    ∧ (rdB n Rg.FAULT_PIN 3 = true → pinWaited n = true → ∀ t, t = wr Rg.FAULT_PIN 0 n →
      Ends .faultNRelease s (if rdB n Rg.FAULT_PIN 0 then emit (.faultN true) t else t))
    ∧ (∀ a l, a = Rg.FAULT_WDOG_CFG → l = logged q a v e e → Lands q a v e → Ends (.wdogCfgWrite q v) s
      (recorded q a v (wrF a 15 0 (fld v 15 0) l)))
    ∧ (Lands q Rg.FAULT_WDOG_KICK v e → Ends (.wdogKick q v) s (recorded q Rg.FAULT_WDOG_KICK v
      (if fld v 15 0 = 0x5AFE ∧ 0x44 ≤ q.origin ∧ q.origin ≤ 0x47 then wr Rg.FAULT_WDOG_AGE 0 e else wdogFault e)))
    ∧ (wdogDue n = true → Ends .wdogExpiry s (wr Rg.FAULT_WDOG_AGE 0 (setEvt Pg.FAULT 3 (wdogFault n))))

/-! ## Stave Link and Hymnal -/

/-- The link's ports (R471, R472, R477): ENABLE of a port that was off begins its training, training ends or is given up,
a trained port trains anew, and the ID flit that is due is sent. -/
def Obligations.LinkPortRowsEnd : Prop :=
  ∀ (q : Req) (v : W32) (s e n : State) (p lat : Nat), e = edgeOf q.same s → n = newEdge s → p < 2 →
    (∀ w a, w = v ||| 1 → a = hdr (slPg p) Hdr.BLK_CTRL → Lands q a w e → fbit v 1 = false → enabled e (slPg p) = false →
      Ends (.slinkEnable q p v) s (recorded q a w (logged q a w e (linkTrain p (wrB a 0 true e)))))
    ∧ (slTraining n p = true → ∀ t x, t = wr (slReg Rg.SLINK_RX_LAT p) (w32 (lat % 0x10000)) (wrB (slReg Rg.SLINK_PORT_STAT p) 1 false n) →
      x = { linkPort t p with
        trained := true, idSent := false, idGot := false, idLine := linLine t, txSeq := 0, rxSeq := 0, rxAny := false,
        credits := 64, toReturn := 0, replayN := 0 } →
      Ends (.slinkTrained p lat) s (putLink p x t))
    ∧ (slTraining n p = true → (linkPort n p).trainLine + 150 ≤ linLine n → Ends (.slinkTrainTimeout p) s
      (slCount 3 p (wrB (slReg Rg.SLINK_PORT_STAT p) 1 false n)))
    ∧ (present n.member (slPg p) = true → (linkPort n p).trained = true → Ends (.slinkRetrain p) s (linkTrain p (linkDown p n)))
    ∧ (idDue n p = true → ∀ t, t = launch p (linkFlit n p 1 (idPayload n)) n →
      Ends (.slinkIdSend p) s (linkUp p (putLink p { linkPort t p with idSent := true, idLine := linLine t + 1 } t)))

/-- Flits received at a trained port with no Weevil rule in the way (R473 to R475, R477, R480, R481, R483, R487, R488): each
returns its credits and is taken by its type; one of a reserved type counts as bad, and one that fails its check counts and
is answered with a request for its repeat. -/
def Obligations.ReceivedFlitsEnd : Prop :=
  ∀ (s n r : State) (p root : Nat) (l : List Byte), n = newEdge s → r = flitReturns p l n → p < 2 →
    present n.member (slPg p) = true → (linkPort n p).trained = true → wvIdle n = true →
    (flitGood l = true →
      (flitType l = 0 → Ends (.slinkRxIdle p l) s r)
      ∧ (flitType l = 1 → Ends (.slinkRxId p l) s (idRecv p l r))
      ∧ (flitType l = 2 → Ends (.slinkRxWrite p l) s (seqRecv p l r))
      ∧ (flitType l = 3 → Ends (.slinkRxEvent p l) s (seqRecv p l r))
      ∧ (flitType l = 4 → Ends (.slinkRxAfterFault p l) s (seqRecv p l r))
      ∧ (flitType l = 5 → Ends (.slinkRxBarrier p l root) s (barrierArrive p l root r))
      ∧ (flitType l = 6 → Ends (.slinkRxCal p l) s { r with link := { r.link with echoes := r.link.echoes ++ [(p, l)] } })
      ∧ (flitType l = 7 → Ends (.slinkRxCalEcho p l root) s (echoRecv p l root r))
      ∧ (flitType l = 8 → Ends (.slinkRxNak p l) s (nakRecv p l r))
      ∧ (9 ≤ flitType l → Ends (.slinkRxReserved p l) s (setEvt (slPg p) 3 (slCount 2 p n))))
    ∧ (flitGood l = false → Ends (.slinkRxBadCrc p l) s (sendNak p (setEvt (slPg p) 3 (slCount 0 p n))))

/-- What the link does of itself, and for its registers (R479, R481, R487 to R491): an echo is sent with the latency of its
port, a barrier is forwarded where the other port is up, a far write and an event are sent, sixteen calibration flits are
sent and their result taken, and the lock is armed, taken with the dividers' release, or given up. -/
def Obligations.LinkRequestsEnd : Prop :=
  ∀ (q : Req) (v : W32) (s e n : State) (p : Nat) (l : List Byte), e = edgeOf q.same s → n = newEdge s →
    (∀ r t, n.link.echoes = (p, l) :: r → t = { n with link := { n.link with echoes := r } } →
      Ends .calEchoSend s (launch p (linkFlit t p 7 (toLE 2 (rdN t (slReg Rg.SLINK_RX_LAT p)))) t))
    ∧ (∀ r t, n.link.fwd = (p, l) :: r → t = { n with link := { n.link with fwd := r } } →
      Ends .barrierForward s (if slUp t (1 - p) then barrierForward p l t else t))
    ∧ (Lands q Rg.SLINK_RW_DATA v e → Ends (.slinkRwData q v) s (recorded q Rg.SLINK_RW_DATA v (rwSend q.origin v e)))
    ∧ (Lands q Rg.SLINK_EV_SEND v e → Ends (.slinkEvSend q v) s (recorded q Rg.SLINK_EV_SEND v (evSend (fld v 6 0) e)))
    ∧ (∀ w a, w = v ||| 1 → a = Rg.SLINK_LOCK_CTRL → fbit v 1 = false → fbit v 2 = false → Lands q a w e →
      Ends (.lockCal q v) s (recorded q a w (logged q a w e (lockCal e))))
    ∧ (n.link.calOn = true → ∀ r x ok t, r = n.link.rtts → x = linkLat r n.link.calPeer (rdN n (slReg Rg.SLINK_RX_LAT (upstream n))) →
      ok = (r.length == 16 && r.foldl max 0 ≤ r.foldl min (r.headD 0) + 4) → t = { n with link := { n.link with calOn := false } } →
      Ends .lockCalDone s (if ok then wrB Rg.SLINK_LOCK_STAT 0 true (wr (slReg Rg.SLINK_LINK_LAT (upstream n)) (w32 (unsigned 16 x)) t)
        else wrB Rg.SLINK_LOCK_STAT 0 false t))
    ∧ (∀ w a, w = v ||| 2 → a = Rg.SLINK_LOCK_CTRL → fbit v 0 = false → fbit v 2 = false → Lands q a w e →
      Ends (.lockTake q v) s (recorded q a w (logged q a w e { e with link := { e.link with take := .armed } })))
    ∧ (∀ k, n.link.take = .stopped k → Ends .lockDividerRelease s (lockTaken k n))
    ∧ (∀ w a, w = v ||| 4 → a = Rg.SLINK_LOCK_CTRL → fbit v 0 = false → fbit v 1 = false → Lands q a w e →
      Ends (.lockRelease q v) s (recorded q a w (logged q a w e (lockLoss 4 e))))

/-- The Hymnal (R494 to R496): ENABLE arms it, its sequence registers take their values, the entry whose time has come is
replayed, and a replay whose read finds no completion in time has diverged. -/
def Obligations.HymnalRowsEnd : Prop :=
  ∀ (q : Req) (v : W32) (s e n : State), e = edgeOf q.same s → n = newEdge s →
    (∀ w a l, w = v ||| 1 → a = hdr Pg.HYMNAL Hdr.BLK_CTRL → l = logged q a w e e → Lands q a w e → fbit v 1 = false →
      enabled l Pg.HYMNAL = false → Ends (.hymnalEnable q v) s (recorded q a w
        (wrB Rg.HYMNAL_STAT 3 false (wrB Rg.HYMNAL_STAT 1 true (wrB a 0 true l)))))
    ∧ (Lands q Rg.HYMNAL_RD_SEQ v e → Ends (.hymnalRdSeqWrite q v) s (recorded q Rg.HYMNAL_RD_SEQ v (wrF Rg.HYMNAL_RD_SEQ 31 0 (fld v 31 0) e)))
    ∧ (Lands q Rg.HYMNAL_WR_SEQ v e → Ends (.hymnalWrSeqWrite q v) s (recorded q Rg.HYMNAL_WR_SEQ v (wrF Rg.HYMNAL_WR_SEQ 31 0 (fld v 31 0) e)))
    ∧ (∀ a t x y, replaying n = true → a = hymnAddr n (rdN n Rg.HYMNAL_RD_SEQ) → t = replayTime n (memRead n a 64) →
      t ≤ (stimeNow n : Int) → devRead clsHymnal a 64 n = (x, false, y) → (stimeNow y : Int) ≤ t →
      Ends .hymnalReplayIssue s (replayNext (replayInput x y)))
    ∧ (∀ f t, replayed n hyHostCpl = true → f ∈ n.adm.fetches → (∃ k l, f.res = .waiting k l ∧ l + 75 ≤ linLine n) →
      t = freeVal n → Ends .hymnalReadTimeout s (replayStop (some (t.1 % 0x100000000)) t.2))

/-! ## Weevil, debug and trace -/

/-- Weevil (R499, R503, R506): ARM with the two keys in turn arms it, another value disarms it, KEY1 lapses after its time,
FIRE fires the rules named, and the unit that is due leaves its store. -/
def Obligations.WeevilRowsEnd : Prop :=
  ∀ (q : Req) (v : W32) (s e n : State) (pt : Nat), e = edgeOf q.same s → n = newEdge s →
    (∀ l t, l = logged q Rg.WEEVIL_ARM 0x5745 e e → t = wrB Rg.WEEVIL_STAT 3 false l → Lands q Rg.WEEVIL_ARM 0x5745 e →
      Ends (.weevilArmKey1 q) s (recorded q Rg.WEEVIL_ARM 0x5745 (wrB Rg.WEEVIL_STAT 3 true
        { t with weevil := { t.weevil with keyEnd := linSub t + lines75 } })))
    ∧ (∀ l t, l = logged q Rg.WEEVIL_ARM 0x564C e e → t = wrB Rg.WEEVIL_STAT 3 false l → Lands q Rg.WEEVIL_ARM 0x564C e →
      wvKeyed l = true → Ends (.weevilArmKey2 q) s (recorded q Rg.WEEVIL_ARM 0x564C
        (wrB Rg.WEEVIL_STAT 0 true { t with weevil := { t.weevil with rules := [] } })))
    ∧ (∀ l t, l = logged q Rg.WEEVIL_ARM v e e → t = wrB Rg.WEEVIL_STAT 3 false l → Lands q Rg.WEEVIL_ARM v e →
      fld v 15 0 ≠ 0x5745 → fld v 15 0 = 0 ∨ wvKeyed l = false → Ends (.weevilDisarm q v) s
        (recorded q Rg.WEEVIL_ARM v (wrB Rg.WEEVIL_STAT 0 false t)))
    ∧ (rdB n Rg.WEEVIL_STAT 3 = true → n.weevil.keyEnd ≤ linSub n → Ends .weevilKey1Expiry s (wrB Rg.WEEVIL_STAT 3 false n))
    ∧ (Lands q Rg.WEEVIL_FIRE v e → Ends (.weevilFire q v) s (recorded q Rg.WEEVIL_FIRE v
      (wvFire (fld v 7 0) (wrB Rg.WEEVIL_STAT 3 false e))))
    ∧ (∀ h, wvDue n pt = some h → Ends (.weevilUnitRelease pt) s (unitPasses h.unit (wvTake h n)))

/-- Run control (R510, R512, R514, R515): DBG_CTRL allows debug or resumes every pair, a running pair halts by a trigger or
a request, a halted one resumes on request and makes one step, and its registers are read and written.

System Bus Access (R513): an aligned access of 1, 2 or 4 bytes reads or writes the register space or the guard
memories, where debug is allowed; another size or a misaligned address is the error of its kind. -/
def Obligations.DebugRowsEnd : Prop :=
  (∀ (q : Req) (v : W32) (s e n : State) (h pc k : Nat) (b : Bool), e = edgeOf q.same s → n = newEdge s →
      (∀ a l, a = Rg.DEBUG_CTRL → l = logged q a v e e → Lands q a v e → Ends (.debugAllowWrite q v) s
        (recorded q a v (allowSet v (wr a (storeWord [⟨0, 0, .rh, 1⟩, ⟨1, 1, .rw, 0⟩] (rd l a) v) l))))
      ∧ (h < 4 → debugAllow n = true →
        (∀ x t, hartRunning n h = true → pairHalted n h = false → b = true ∨ haltReq n h = true →
          x = { hartSt n h with halted := true, wfi := false, resumeAck := false, pc := pc % 0x100000000 } →
          t = setEvt Pg.DEBUG 0 (wrB Rg.DEBUG_STAT (4 + h) true (wrB (Rg.HART_STAT + h * 0x1000) 2 true (putHart h x n))) →
          Ends (.debugHalt h pc b) s (if rdB t Rg.DEBUG_CTRL 1 then holdRequest t else t))
        ∧ (∀ x, resumeReq n h = true → pairHalted n h = true →
          x = { hartSt n h with halted := false, resumeAck := true, gpr := [], csr := [] } →
          Ends (.debugResume h) s (wrB Rg.DEBUG_STAT (4 + h) false (wrB (Rg.HART_STAT + h * 0x1000) 2 false (putHart h x n))))
        ∧ (∀ y t x, pairHalted n h = true → freeVal n = (y, t) → x = { hartSt t h with pc := y % 0x100000000, gpr := [], csr := [] } →
          Ends (.debugStep h) s (putHart h x t))
        ∧ (pairHalted n h = true → k < 0x1020 →
          Ends (.accessRegister h k (some v)) s (putHartReg h k v (putDm 4 v n))
          ∧ (∀ y t, hartReg h k n = (y, t) → Ends (.accessRegister h k none) s (putDm 4 y t)))))
  ∧ (∀ (s n : State) (a size : Nat) (v : W32) (bad : Bool), n = newEdge s → debugAllow n = true →
      (size = 1 ∨ size = 2 ∨ size = 4 → a % size = 0 →
        (∀ o, a = 0x40000000 + o → o < 0x10000000 →
          Ends (.systemBusAccess a size (some v) bad) s (anyWrite { origin := 0x48, be := (2 ^ size - 1) * 2 ^ (o % 4) }
            (.space (o / 4 * 4)) (w32 (v.toNat % 2 ^ (8 * size) * 2 ^ (8 * (o % 4)))) n)
          ∧ (∀ w t, regRead 0x48 (o / 4 * 4) n = (w, t) → Ends (.systemBusAccess a size none bad) s
            (sbaData (w.toNat / 2 ^ (8 * (o % 4)) % 2 ^ (8 * size)) t)))
        ∧ (0x50000000 ≤ a → a + size ≤ 0x50060000 → Ends (.systemBusAccess a size (some v) bad) s (gmemWrite a (toLE size v.toNat) n))
        ∧ (0x50050000 ≤ a → a + size ≤ 0x50070000 → Ends (.systemBusAccess a size none false) s
          (sbaData (leAt (gmemRead n a size) 0 size) n)))
      ∧ (¬ (size = 1 ∨ size = 2 ∨ size = 4) → Ends (.systemBusAccess a size (some v) bad) s (sbaError 4 n))
      ∧ (size = 1 ∨ size = 2 ∨ size = 4 → a % size ≠ 0 → Ends (.systemBusAccess a size (some v) bad) s (sbaError 3 n)))

/-- The TAP (R511, R512): while the device is powered every instruction answers on TDO; one that is not available acts as
BYPASS.

The hold and the trace (R516, R518, R519): a hold is asked for and released, a mark is traced, and the trace is read
word by word at its index. -/
def Obligations.TapHoldAndTraceEnd : Prop :=
  (∀ (s n t : State) (ir x op a data : Nat), n = newEdge s → n.boot.powered = true →
      Ends .idcode s (emit (.tdo 1 (idcode n)) (tapSelect 1 n))
      ∧ Ends .tapReset s (tapSelect 1 n)
      ∧ Ends .clamp s (tapBypass 3 n) ∧ Ends .highz s (tapBypass 4 n)
      ∧ (tapAvail n ir = false → Ends (.bypass ir) s (emit (.tdo 0x1F 0) { n with dbg := { n.dbg with ir := 0x1F } }))
      ∧ (tapAvail n 0 = true → t = { n with dbg := { n.dbg with ir := 0 } } → Ends (.extest data) s
        (emit (.tdo 0 (freeVal t).1) { (freeVal t).2 with dbg := { (freeVal t).2.dbg with boundary := data } }))
      ∧ (tapAvail n 2 = true → t = { n with dbg := { n.dbg with ir := 2 } } → Ends (.samplePreload data) s
        (emit (.tdo 2 (freeVal t).1) { (freeVal t).2 with dbg := { (freeVal t).2.dbg with boundary := data } }))
      ∧ (∀ f y z, tapAvail n 0x10 = true → t = { n with dbg := { n.dbg with ir := 0x10 } } → freeVal t = (f, y) →
        z = emit (.tdo 0x10 (1 + 7 * 16 + y.dbg.dmiStat * 0x400 + f % 8 * 0x1000)) y →
        Ends (.dtmcs x) s (if bit x 16 || bit x 17 then { z with dbg := { z.dbg with dmiStat := 0 } } else z))
      ∧ (tapAvail n 0x11 = true → t = { n with dbg := { n.dbg with ir := 0x11 } } →
        (∀ w y, op = 1 → dmRead (a % 128) t = (w, y) → Ends (.dmi op a data) s (emit (.tdo 0x11 w.toNat) y))
        ∧ (op = 2 → Ends (.dmi op a data) s (emit (.tdo 0x11 data) (dmWrite (a % 128) (w32 data) t)))
        ∧ (op ≠ 1 → op ≠ 2 → Ends (.dmi op a data) s (emit (.tdo 0x11 0) t))))
  ∧ (∀ (q : Req) (v : W32) (s e n : State) (o x : Nat), e = edgeOf q.same s → n = newEdge s →
      (∀ a w l, a = Rg.DEBUG_HOLD_CTRL → w = v ||| 1 → fbit v 1 = false → l = logged q a w e e → Lands q a w e →
        Ends (.holdReq q v) s (recorded q a w (holdRequest (wr a (w32 (b2n (fbit v 2) * 4)) (wrF a 2 2 (fld w 2 2) l)))))
      ∧ (∀ a w l, a = Rg.DEBUG_HOLD_CTRL → w = v ||| 2 → fbit v 0 = false → l = logged q a w e e → Lands q a w e →
        Ends (.holdRelease q v) s (recorded q a w (holdRelease (wr a (w32 (b2n (fbit v 2) * 4)) (wrF a 2 2 (fld w 2 2) l)))))
      ∧ (Lands q Rg.DEBUG_TRACE_MARK v e → Ends (.traceMark q v) s (recorded q Rg.DEBUG_TRACE_MARK v (traceEvt 9 q.origin v.toNat e)))
      ∧ (ReadsAt o Pg.DEBUG 0x94 n → x = rdN n Rg.DEBUG_TRACE_IDX → Ends (.traceDataRead o) s
        (emit (.readData o (w32 (leAt (gmemRead n (0x50050000 + 4 * x) 4) 0 4)).toNat)
          (wr Rg.DEBUG_TRACE_IDX (w32 ((x + 1) % 0x4000)) n))))

/-! ## The machine as a whole -/

/-- A step takes the command at the front of the queue, first in, first out. With an empty queue a sub-beat of stave time
passes within the line, where the counter runs, and nothing otherwise (log entry 11: the model's own choice). -/
def Obligations.StepTakesTheFrontCommand : Prop :=
  ∀ (s : State) (c : Instr) (l : List Instr),
    (s.pending = c :: l → Sys2Proof.Machine.step s = Sys2Proof.Machine.exec c { s with pending := l })
    ∧ (s.pending = [] → s.clk.running = false ∨ (s.clk.beat = 63 ∧ s.clk.sub = 31) → Sys2Proof.Machine.step s = .next s)
    ∧ (∀ n t, s.pending = [] → s.clk.running = true → ¬ (s.clk.beat = 63 ∧ s.clk.sub = 31) → n = s.clk.beat * 32 + s.clk.sub + 1 →
      t = { s with clk := { s.clk with beat := n / 32, sub := n % 32 } } →
      Sys2Proof.Machine.step s = .next (finish (if n % 2 = 0 then timerEdge false false [] t else t)))

/-- Every step, from every settled state and with whatever command at the front, leaves a settled state: the fields that
repeat one another agree (R89, R118, R490, R518), and no answer of the host stays in hand. -/
def Obligations.EveryStepSettles : Prop :=
  ∀ s t : State, Settled s → Sys2Proof.Machine.step s = .next t → Settled t

/-- The state at reset is settled and quiet, its queue is empty, both memories list nothing, and no command waits. The
model's own choices of log entries 1 to 5 are part of it. -/
def Obligations.ResetIsSettled : Prop :=
  Settled State.reset ∧ Quiet State.reset ∧ State.reset.pending = [] ∧ State.reset.mem = [] ∧ State.reset.gmem = []
    ∧ Memory.wf State.reset.mem = true ∧ Memory.wf State.reset.gmem = true

/-- No command is refused, and a command ends in a fault only in the four undefined cases of R521 that it can meet: a
rise of PORST_N of an unpowered device (UB-0501), an answer of another endpoint (UB-0601), an event that reads a score image
written while in use (UB-1202), and one that reads a command stream written while in use (UB-1301). -/
def Obligations.OnlyUndefinedCasesStop : Prop :=
  ∀ (c : Instr) (s : State), (∀ r, Sys2Proof.Machine.exec c s ≠ .refused r)
    ∧ (Sys2Proof.Machine.exec c s = .fault .powerSequence → s.boot.powered = false ∧ ∃ v, c = .porstNRise v)
    ∧ (Sys2Proof.Machine.exec c s = .fault .imageWritten → (imageBroken s = true ∧ ∃ l, c = .lineBoundary l ∨ c = .staveBoundary l)
      ∨ (s.cantor.imageWritten = true ∧ c = .scoreLoadDone))
    ∧ (Sys2Proof.Machine.exec c s = .fault .streamWritten → ∃ k, streamHit s k = true
      ∧ (c = .taskEnd k ∨ ∃ w d, c = .commandFetch k w d))
    ∧ (Sys2Proof.Machine.exec c s = .fault .peerAccess → ∃ (k j x : Nat) (w : Option Nat),
      c ∈ [Instr.descriptorArrival k .peer, .fragmentHeaderArrival k j .peer, .accessComplete k j x .peer, .commandFetch k w .peer,
        .load k .peer, .store k .peer, .atomicAdd k .peer, .atomicMax k .peer, .chaferWindowStart k .peer, .chaferOpenTake k .peer,
        .chaferSetupDone k .peer, .chaferEvalEnd k j .peer])

/-! ## Authority, verdicts and the change roll -/

/-- R79. On a page that is present and no tenant control page, with every byte enabled and, before S6, where R73 lets the write
through, a write of PAGE_OWNER or PAGE_WMASK is refused with
UNAUTH from every origin but the main harts and, on a page owned by a tenant or by PF0, origin 0x41; PAGE_WMASK plays no
part. -/
def Obligations.OwnerRegistersIgnoreTheMask : Prop :=
  ∀ (s : State) (q : Req) (p off w : Nat) (d : PageDesc) (v : W32), pageDesc p = some d → present s.member p = true →
    (beforeS6 s = true → p = Pg.BOOT ∨ q.origin = 0 ∨ q.origin = 0x42) → q.be % 16 = 15 → isTenantPage p = false → off = Hdr.PAGE_OWNER ∨ off = Hdr.PAGE_WMASK →
    w = rdF s (hdr p Hdr.PAGE_OWNER) 7 0 →
    (pageVerdict s q p off true v = some 5 ↔ ¬ ((0x44 ≤ q.origin ∧ q.origin ≤ 0x47) ∨ (q.origin = 0x41 ∧ 1 ≤ w ∧ w ≤ 0x41)))

/-- R78. On a page that is present and no tenant control page, with every byte enabled and, before S6, where R73 lets the write
through, a write to any offset
but PAGE_OWNER and PAGE_WMASK is refused with UNAUTH just where the table does not authorise its origin: by PAGE_WMASK's
bit of its class, for a tenant also by PAGE_OWNER, and for a replayed write also by the origin in its AUX. -/
def Obligations.WritersFollowTheMask : Prop :=
  ∀ (s : State) (q : Req) (p off m w : Nat) (isHdr : Bool) (d : PageDesc) (v : W32) (ok : Nat → Prop), pageDesc p = some d →
    present s.member p = true → (beforeS6 s = true → p = Pg.BOOT ∨ q.origin = 0) → q.be % 16 = 15 → isTenantPage p = false →
    q.origin ≠ 0x42 →
    ¬ (isHdr = true ∧ (off = Hdr.PAGE_OWNER ∨ off = Hdr.PAGE_WMASK)) →
    m = rdN s (hdr p Hdr.PAGE_WMASK) → w = rdF s (hdr p Hdr.PAGE_OWNER) 7 0 →
    (∀ o, ok o ↔ o = 0 ∨ (1 ≤ o ∧ o ≤ 0x40 ∧ bit m 6 = true ∧ w = o) ∨ (o = 0x41 ∧ bit m 0 = true)
      ∨ (0x44 ≤ o ∧ o ≤ 0x47 ∧ bit m 1 = true) ∨ (o = 0x48 ∧ bit m 2 = true) ∨ (o = 0x49 ∧ bit m 3 = true)
      ∨ (o = 0x4B ∧ bit m 5 = true)) →
    (pageVerdict s q p off isHdr v = some 5 ↔ ¬ (if q.origin = 0x4A then bit m 4 = true ∧ ok (q.aux % 256) else ok q.origin))

/-- R84, R87. Once AUTH.LOCK.ALL_HDR is set, or GUARD_HDR on a Guard-die page, no write of PAGE_OWNER or PAGE_WMASK is
accepted; one that no other reason stops is refused as LOCKED. -/
def Obligations.LockedHeadersAreRefused : Prop :=
  ∀ (s : State) (q : Req) (p off : Nat) (d : PageDesc) (v : W32), pageDesc p = some d →
    off = Hdr.PAGE_OWNER ∨ off = Hdr.PAGE_WMASK → rdB s Rg.AUTH_LOCK 1 = true ∨ (rdB s Rg.AUTH_LOCK 0 = true ∧ d.guardDie = true) →
    pageVerdict s q p off true v ≠ none
    ∧ (present s.member p = true → beforeS6 s = false → q.be % 16 = 15 → authorised s q p off true = true →
      hdrOk d p off v s = true → rollHolds s = false → pageVerdict s q p off true v = some 12)

/-- R500. While ARMED is 1, a write of a rule's writable registers that gets as far as its value is refused with VALUE,
but for a write of WV_CTRL that differs from the value in force only by clearing EN. -/
def Obligations.ArmedRulesStand : Prop :=
  ∀ (s : State) (q : Req) (r k : Nat) (v c : W32), r < 8 → k ∈ [0, 4, 8, 12, 16, 20, 24] → beforeS6 s = false → q.be % 16 = 15 →
    present s.member Pg.WEEVIL = true → authorised s q Pg.WEEVIL (0x100 + 32 * r + k) false = true → rdB s Rg.WEEVIL_STAT 0 = true →
    c = rd s (Rg.WEEVIL_WV_CTRL + 32 * r) →
    (pageVerdict s q Pg.WEEVIL (0x100 + 32 * r + k) false v = some 9
      ↔ ¬ (k = 0 ∧ fbit c 0 = true ∧ setFld v 15 15 0 = setFld c 0 0 0))

/-- R90. In WRAP mode an entry at a full roll overwrites the oldest, and OLDEST_SEQ advances by 1; if the overwritten entry
was not drained, OVERRUN increments and TAIL_SEQ advances too. The entry takes the next sequence number, and no write is
refused for want of room. -/
def Obligations.WrapOverwritesTheOldest : Prop :=
  ∀ (s t : State) (e : RollEntry) (seq oldest tail : W32), rdB s Rg.ROLL_CTRL 0 = false → s.roll.entries.length = 16384 → t = rollPut e s →
    seq = rd s Rg.ROLL_NEXT_SEQ → oldest = rd s Rg.ROLL_OLDEST_SEQ → tail = rd s Rg.ROLL_TAIL_SEQ →
    t.roll.entries = s.roll.entries.drop 1 ++ [{ e with rseq := seq.toNat }] ∧ rd t Rg.ROLL_NEXT_SEQ = seq + 1
    ∧ rd t Rg.ROLL_OLDEST_SEQ = oldest + 1
    ∧ (tail = oldest → rd t Rg.ROLL_TAIL_SEQ = tail + 1 ∧ rd t Rg.ROLL_OVERRUN = satAdd (rd s Rg.ROLL_OVERRUN) 1)
    ∧ (tail ≠ oldest → rd t Rg.ROLL_TAIL_SEQ = tail ∧ rd t Rg.ROLL_OVERRUN = rd s Rg.ROLL_OVERRUN)
    ∧ ∀ q p off isHdr v, pageVerdict s q p off isHdr v ≠ some 10

/-- R92. An entry due in HOLD mode when FILL is 16,384 is not made: LOST increments and EVT_STAT.LOST sets. PAGE_WSEQ counts
an accepted write or a hardware change all the same, and PAGE_WDROP a refused one. -/
def Obligations.FullHoldMakesNoEntry : Prop :=
  ∀ (s : State) (q : Req) (p : Nat) (e : RollEntry) (d : Dest), rdB s Rg.ROLL_CTRL 0 = true → beforeS6 s = false →
    16384 ≤ sub32 (rdN s Rg.ROLL_NEXT_SEQ) (rdN s Rg.ROLL_TAIL_SEQ) →
    rollPut e s = setEvt Pg.ROLL 2 (bump Rg.ROLL_LOST s)
    ∧ enterRoll d p e s = setEvt Pg.ROLL 2 (bump Rg.ROLL_LOST (bumpWrap (hdr p Hdr.PAGE_WSEQ) s))
    ∧ (∀ c off old new, hwChange c p off old new s = setEvt Pg.ROLL 2 (bump Rg.ROLL_LOST (bumpWrap (hdr p Hdr.PAGE_WSEQ) s)))
    ∧ (∀ old v t, d.drop = some p → t = setEvt Pg.ROLL 2 (bump Rg.ROLL_LOST (bump (hdr p Hdr.PAGE_WDROP) s)) →
      refuse q d 1 old v s = wr Rg.AUTH_LAST_REFUSED (w32 (q.origin + 0x100 + d.page * 0x1000)) t)

/-- R63, R554. Bit by bit, for every register of every listed page: what an accepted write stores, and what its roll entry
shows before and after. RW bits take the value, W1C bits clear, and the others stay; WO bits show as 0 before, and W1S
bits show what was written beside what was read. -/
def Obligations.FieldsFollowTheirAccess : Prop :=
  ∀ (x : PageDesc) (r : RegDesc) (cur v : W32) (j : Nat), x ∈ pageTable → r ∈ x.regs → j < 32 →
    (∀ f ∈ r.flds, f.lo ≤ j → j ≤ f.hi →
      (storeWord r.flds cur v).getLsbD j = (match f.acc with
        | .rw | .rh => v.getLsbD j
        | .w1c => cur.getLsbD j && !v.getLsbD j
        | _ => cur.getLsbD j)
      ∧ (rollOld r.flds cur).getLsbD j = (cur.getLsbD j && decide (f.acc ≠ .wo))
      ∧ (rollNew r.flds cur v).getLsbD j = (match f.acc with
        | .rw | .rh | .wo => v.getLsbD j
        | .w1s => cur.getLsbD j || v.getLsbD j
        | .w1c => cur.getLsbD j && !v.getLsbD j
        | _ => cur.getLsbD j))
    ∧ ((∀ f ∈ r.flds, ¬ (f.lo ≤ j ∧ j ≤ f.hi)) → (storeWord r.flds cur v).getLsbD j = cur.getLsbD j
      ∧ (rollOld r.flds cur).getLsbD j = cur.getLsbD j ∧ (rollNew r.flds cur v).getLsbD j = cur.getLsbD j)

/-- A write refused for another reason than its value (R65, R86, R87, R91): it counts, enters the roll and shows in
AUTH.LAST_REFUSED. Beside those registers, the events of AUTH and ROLL, and what they raise, nothing changes: no register,
no byte of memory, and no other part of the block. -/
def Obligations.RefusedWritesChangeNothingElse : Prop :=
  ∀ (s t : State) (q : Req) (d : Dest) (v : W32) (reason : Nat), verdict s q d v = some reason → reason ≠ 9 →
    writeNow q d v s = (false, t) →
    t = { s with regs := t.regs, roll := t.roll, evc := t.evc }
    ∧ (∀ a, a ∉ [Rg.BOOT_DROPS, Rg.ROLL_NEXT_SEQ, Rg.ROLL_OLDEST_SEQ, Rg.ROLL_TAIL_SEQ, Rg.ROLL_FILL, Rg.ROLL_OVERRUN, Rg.ROLL_LOST,
        Rg.AUTH_LAST_REFUSED, hdr Pg.AUTH Hdr.EVT_STAT, hdr Pg.ROLL Hdr.EVT_STAT] → (∀ p, d.drop = some p → a ≠ hdr p Hdr.PAGE_WDROP) →
      rd t a = rd s a)
    ∧ rd t Rg.AUTH_LAST_REFUSED = w32 (q.origin + reason * 0x100 + d.page * 0x1000)
    ∧ (beforeS6 s = true → rd t Rg.BOOT_DROPS = satAdd (rd s Rg.BOOT_DROPS) 1)
    ∧ (∀ p, beforeS6 s = false → d.drop = some p → rd t (hdr p Hdr.PAGE_WDROP) = satAdd (rd s (hdr p Hdr.PAGE_WDROP)) 1)

/-- R553. BLK_ID of every listed page, present or absent, and of every tenant control page, reads TYPE << 20 | INSTANCE << 12 |
0x100, in every state and for every reader. -/
def Obligations.BlockIdentity : Prop :=
  ∀ (s : State) (o p n : Nat) (x : PageDesc),
    (pageDesc p = some x → isTenantPage p = false → view s o (hdr p Hdr.BLK_ID) = w32 (x.base * 0x100000 + (p - x.base) * 0x1000 + 0x100))
    ∧ (1 ≤ n → n ≤ 64 → view s o (hdr (0x400 + n) Hdr.BLK_ID) = w32 (0x021 * 0x100000 + n * 0x1000 + 0x100))

/-! ## Reads, memory and events that change little -/

/-- A write through the DRAM window that its channel serves (R125, R243): in a quiet state, memory then holds the data at
its addresses, and every other byte of memory reads as before; memory keeps its canonical form. -/
def Obligations.WindowWritesStoreTheirBytes : Prop :=
  ∀ (s e : State) (off len pa : Nat) (l : List Byte), Quiet s → e = edgeBegin s → HostReaches e → off < 0x10000000 →
    (fnCfg e 0).d3 = false → l ≠ [] → pa = rdF e Rg.HOST_WIN_BASE 6 0 * 0x10000000 + off → pa + l.length ≤ dramTop e.member →
    paServes e pa l.length = true → reaches e 0 pa = true →
    ∃ t, Sys2Proof.Machine.exec (.windowAccess off len (some l)) s = .next t
      ∧ (∀ x, byteAt t x = if pa ≤ x ∧ x < pa + l.length then l.getD (x - pa) 0 else byteAt s x)
      ∧ (Memory.wf s.mem = true → Memory.wf t.mem = true)

/-- R36. A read of NOW_LO by an origin that may read the STAVE page returns the low word of the stave time and latches the
high word for that origin alone; a read of NOW_HI by an origin that has not read NOW_LO returns 0. -/
def Obligations.NowHiIsLatchedForItsReader : Prop :=
  ∀ (s t : State) (o : Nat) (w : W32), present s.member Pg.STAVE = true → readVisible s o Pg.STAVE 0x40 false = true →
    regRead o Rg.STAVE_NOW_LO s = (w, t) →
    w = w32 (stimeNow s) ∧ view t o Rg.STAVE_NOW_HI = w32 (stimeNow s / 0x100000000)
    ∧ (∀ x, x ≠ o → view t x Rg.STAVE_NOW_HI = view s x Rg.STAVE_NOW_HI)
    ∧ t = { s with clk := { s.clk with nowHi := t.clk.nowHi } }
    ∧ (∀ u x, kvFind u.clk.nowHi x = none → view u x Rg.STAVE_NOW_HI = 0) ∧ State.reset.clk.nowHi = []

/-- R431. A read of CAP_POP of a channel by an origin that may read the TIMER page returns the counter value of the oldest
entry, removes that entry and latches its time and causes for the origin; where the queue is empty it returns 0, removes
nothing and latches zeros. Other channels' queues, other origins' latches and the entries that remain stay, and a read of
the latched registers changes nothing. -/
def Obligations.CapturesPopInOrder : Prop :=
  ∀ (s t : State) (o c : Nat) (w : W32), c < 16 → present s.member Pg.TIMER = true → readVisible s o Pg.TIMER (0x100 + 16 * c) false = true →
    regRead o (Rg.TIMER_CAP_POP + 16 * c) s = (w, t) →
    (∀ x l, kvGet [] s.timer.queues c = x :: l → w = w32 x.cnt ∧ kvGet [] t.timer.queues c = l
      ∧ view t o (Rg.TIMER_CAP_POP + 16 * c + 4) = w32 x.stime ∧ view t o (Rg.TIMER_CAP_POP + 16 * c + 8) = w32 (x.stime / 0x100000000)
      ∧ view t o (Rg.TIMER_CAP_POP + 16 * c + 12) = w32 (1 + b2n x.hw * 2 + b2n x.sw * 4))
    ∧ (kvGet [] s.timer.queues c = [] → w = 0 ∧ t.timer.queues = s.timer.queues
      ∧ ∀ k, 1 ≤ k → k ≤ 3 → view t o (Rg.TIMER_CAP_POP + 16 * c + 4 * k) = 0)
    ∧ (∀ y, y ≠ c → kvGet [] t.timer.queues y = kvGet [] s.timer.queues y)
    ∧ (∀ x y k, o < 256 → x < 256 → y < 16 → 1 ≤ k → k ≤ 3 → x ≠ o ∨ y ≠ c →
      view t x (Rg.TIMER_CAP_POP + 16 * y + 4 * k) = view s x (Rg.TIMER_CAP_POP + 16 * y + 4 * k))
    ∧ (∀ k, 1 ≤ k → k ≤ 3 → (regRead o (Rg.TIMER_CAP_POP + 16 * c + 4 * k) s).2 = s)

/-- SNAP (R432): every channel's counter is copied at once with the stave time of the edge, and every other register keeps
its value. -/
def Obligations.SnapCopiesEveryCounter : Prop :=
  ∀ (s : State), (∀ c, c < 16 → rd (timerSnap s) (Rg.TIMER_SNAP_CNT + 4 * c) = rd s (Rg.TIMER_CH_CNT + 4 * c))
    ∧ rd (timerSnap s) Rg.TIMER_SNAP_ST_LO = w32 (stimePer s) ∧ rd (timerSnap s) Rg.TIMER_SNAP_ST_HI = w32 (stimePer s / 0x100000000)
    ∧ (∀ a, (∀ c, c < 16 → a ≠ Rg.TIMER_SNAP_CNT + 4 * c) → a ≠ Rg.TIMER_SNAP_ST_LO → a ≠ Rg.TIMER_SNAP_ST_HI →
      rd (timerSnap s) a = rd s a)

/-- The registers whose read has an effect (R36, R85, R204, R431 and the data ports of their pages); a read of any other
offset of the register space, by any origin, changes nothing. -/
def Obligations.ReadsOfOtherRegistersChangeNothing : Prop :=
  ∀ (s : State) (o off : Nat), off / 4 * 4 ∉ [Rg.TUNE_REC_DATA, Rg.ROLL_RD_DATA, Rg.ROLL_RD_DATA + 28, Rg.FAULT_PIN, Rg.DEBUG_TRACE_DATA,
      Rg.STAVE_NOW_LO, Rg.EVC_CLAIM, Rg.HOST_NP_OUT, Rg.SPI_CTL_DATA, Rg.SPI_CTL_DATA + 32] → (∀ c, c < 16 → off / 4 * 4 ≠ Rg.TIMER_CAP_POP + 16 * c) →
    (∀ k, k < 2 → off / 4 * 4 ∉ [Rg.WINGCASE_PAL_DATA + k * 0x1000, Rg.WINGCASE_LT_PAL_DATA + k * 0x1000]) →
    (∀ k, k < 4 → off / 4 * 4 ∉ [Rg.I3C_XFER_DATA + k * 0x1000, Rg.I3C_IBI_POP + k * 0x1000]) →
    (regRead o off s).2 = s

/-- Events that act on registers alone (R236, R250, R329, R418, R499): from a quiet state whose repeated fields agree, only
the registers listed, the EVC and the marks of the edge change; memory and every other part stay. -/
def Obligations.RegisterEventsChangeTheirRegistersAlone : Prop :=
  ∀ (s t : State) (k : Nat) (up : Bool) (c : Instr) (l : List Nat), Quiet s → Mirrored s →
    (c, l) ∈ [(Instr.phyUpChange k up, [portReg Rg.CAM_PORT_STAT k]), (.weevilKey1Expiry, [Rg.WEEVIL_STAT]),
      (.asrcLock k, [Rg.TDM_STAT + 0x1000 * k]), (.asrcUnlock k, [Rg.TDM_STAT + 0x1000 * k, hdr (Pg.TDM + k) Hdr.EVT_STAT]),
      (.bridgeReplay, [Rg.BRIDGE_REPLAYS, hdr Pg.BRIDGE Hdr.EVT_STAT]),
      (.refreshSlot k, [drReg Rg.DRAMC_REF_STOLEN k, hdr (Pg.DRAMC + k) Hdr.EVT_STAT])] →
    Sys2Proof.Machine.exec c s = .next t →
    t = { edgeBegin s with regs := t.regs, evc := t.evc } ∧ (∀ a, a ∉ l → rd t a = rd s a) ∧ (∀ x, byteAt t x = byteAt s x)

/-- CLAIM (R203, R204): a main hart's read takes a source it may claim, of a priority above its current one, and none it may
claim has a higher; where there is none it returns 0 and changes nothing, and so does every other origin's read. The
source taken becomes active for the hart and no longer pends. -/
def Obligations.ClaimsTakeTheHighestPriority : Prop :=
  ∀ (s t : State) (o h : Nat) (w : W32), evClaim o s = (w, t) →
    ((o < 0x44 ∨ 0x47 < o) → w = 0 ∧ t = s)
    ∧ (o = 0x44 + h → h ≤ 3 →
      (w = 0 ∧ t = s ∧ ∀ x ∈ s.evc.src, evClaimable s h x.1 x.2 = true → evPrio s x.1 + 1 ≤ evCur s h)
      ∨ ∃ x ∈ s.evc.src, evClaimable s h x.1 x.2 = true ∧ evCur s h < evPrio s x.1 + 1
        ∧ (∀ y ∈ s.evc.src, evClaimable s h y.1 y.2 = true → evPrio s y.1 ≤ evPrio s x.1)
        ∧ t = putSrc x.1 { evSrc s x.1 with p := false, c := 0, a := true, holder := h } s
        ∧ w = w32 (x.1 + (if evCount s x.1 then (evSrc s x.1).c else 1) * 0x1000 + evPrio s x.1 * 0x100000 + 0x80000000))
end

