-- ==== Sys2Proof/Laws/Bits.lean ====
section
/-! SUPPORT. Bit fields read back after a field is set. -/
namespace Sys2Proof.Machine

theorem bit_eq_testBit (w n : Nat) : bit w n = w.testBit n := by
  rw [bit, Nat.testBit_eq_decide_div_mod_eq]; rfl

theorem bits_testBit (w hi lo j : Nat) : (bits w hi lo).testBit j = (decide (j < hi + 1 - lo) && w.testBit (lo + j)) := by
  simp [bits, Nat.testBit_mod_two_pow, Nat.testBit_div_two_pow, Nat.add_comm]

/-- The bits of a number with a field replaced. -/
theorem setBits_testBit (w hi lo v j : Nat) (h : lo ≤ hi) :
    (setBits w hi lo v).testBit j = if lo ≤ j ∧ j ≤ hi then v.testBit (j - lo) else w.testBit j := by
  have e : setBits w hi lo v =
      2 ^ lo * (2 ^ (hi + 1 - lo) * (w / 2 ^ lo / 2 ^ (hi + 1 - lo)) + v % 2 ^ (hi + 1 - lo)) + w % 2 ^ lo := by
    unfold setBits bits
    have h1 := Nat.div_add_mod w (2 ^ lo)
    have h2 := Nat.div_add_mod (w / 2 ^ lo) (2 ^ (hi + 1 - lo))
    generalize hq : w / 2 ^ lo / 2 ^ (hi + 1 - lo) = q at *
    generalize hm : w / 2 ^ lo % 2 ^ (hi + 1 - lo) = m at *
    have h3 : w = 2 ^ lo * (2 ^ (hi + 1 - lo) * q) + m * 2 ^ lo + w % 2 ^ lo := by
      rw [← h2] at h1; linarith [h1, Nat.mul_add (2 ^ lo) (2 ^ (hi + 1 - lo) * q) m, Nat.mul_comm m (2 ^ lo)]
    have h4 : w - m * 2 ^ lo = 2 ^ lo * (2 ^ (hi + 1 - lo) * q) + w % 2 ^ lo := by omega
    rw [h4, Nat.mul_add, Nat.mul_comm (v % _)]; omega
  have l1 : w % 2 ^ lo < 2 ^ lo := Nat.mod_lt _ (by positivity)
  have l2 : v % 2 ^ (hi + 1 - lo) < 2 ^ (hi + 1 - lo) := Nat.mod_lt _ (by positivity)
  rw [e, Nat.testBit_two_pow_mul_add _ l1, Nat.testBit_two_pow_mul_add _ l2]
  by_cases a : j < lo
  · have : ¬ lo ≤ j := by omega
    simp [a, this, Nat.testBit_mod_two_pow]
  · by_cases b : j - lo < hi + 1 - lo
    · have : lo ≤ j ∧ j ≤ hi := by omega
      simp [a, b, this, Nat.testBit_mod_two_pow]
    · have n : ¬ (lo ≤ j ∧ j ≤ hi) := by omega
      have e2 : j - lo - (hi + 1 - lo) + (hi + 1 - lo) + lo = j := by omega
      simp [a, b, n, Nat.testBit_div_two_pow, e2]

theorem fbit_eq (w : BitVec 32) (n : Nat) : fbit w n = w.getLsbD n := by
  simp [fbit, bit_eq_testBit, BitVec.testBit_toNat]

@[simp] theorem fbit_or (a b : BitVec 32) (n : Nat) : fbit (a ||| b) n = (fbit a n || fbit b n) := by simp [fbit_eq]
@[simp] theorem fbit_and (a b : BitVec 32) (n : Nat) : fbit (a &&& b) n = (fbit a n && fbit b n) := by simp [fbit_eq]

/-- Each bit of a register word with a field replaced. -/
theorem setFld_getLsbD (w : BitVec 32) (hi lo v j : Nat) (h : lo ≤ hi) (h32 : hi < 32) :
    (setFld w hi lo v).getLsbD j = if lo ≤ j ∧ j ≤ hi then v.testBit (j - lo) else w.getLsbD j := by
  simp only [setFld, w32, BitVec.getLsbD_ofNat, setBits_testBit _ _ _ _ _ h, BitVec.testBit_toNat]
  by_cases a : lo ≤ j ∧ j ≤ hi
  · have : j < 32 := by omega
    simp [a, this]
  · simp only [a, if_false]
    by_cases b : j < 32
    · simp [b]
    · simp [b, BitVec.getLsbD_of_ge w j (by omega)]

theorem b2n_testBit (x : Bool) (j : Nat) : (b2n x).testBit j = (x && decide (j = 0)) := by
  cases x <;> cases j <;> simp [b2n, Nat.testBit_succ]

/-- A bit set reads as it was set. -/
@[simp] theorem fbit_setFld_same (w : BitVec 32) (n : Nat) (x : Bool) (h : n < 32) :
    fbit (setFld w n n (b2n x)) n = x := by
  rw [fbit_eq, setFld_getLsbD _ _ _ _ _ (Nat.le_refl n) h]; cases x <;> simp [b2n]

/-- A bit outside the field set reads as before. -/
theorem fbit_setFld_ne (w : BitVec 32) {hi lo m : Nat} (v : Nat) (h : lo ≤ hi) (h32 : hi < 32) (hm : m < lo ∨ hi < m) :
    fbit (setFld w hi lo v) m = fbit w m := by
  rw [fbit_eq, fbit_eq, setFld_getLsbD _ _ _ _ _ h h32, if_neg (by omega)]

/-- A bit set to what it reads leaves the word. -/
theorem setFld_self (w : BitVec 32) (n : Nat) (h : n < 32) : setFld w n n (b2n (fbit w n)) = w := by
  apply BitVec.eq_of_getLsbD_eq
  intro j hj
  rw [setFld_getLsbD _ _ _ _ _ (Nat.le_refl n) h]
  by_cases e : n ≤ j ∧ j ≤ n
  · have : j = n := by omega
    subst this; cases hx : w.getLsbD j <;> simp [b2n, fbit_eq, hx]
  · simp [e]

/-- A field set reads as it was set. -/
theorem fld_setFld_same (w : BitVec 32) (hi lo v : Nat) (h : lo ≤ hi) (h32 : hi < 32) :
    fld (setFld w hi lo v) hi lo = v % 2 ^ (hi + 1 - lo) := by
  apply Nat.eq_of_testBit_eq
  intro j
  rw [fld, bits_testBit, BitVec.testBit_toNat, setFld_getLsbD _ _ _ _ _ h h32, Nat.testBit_mod_two_pow]
  by_cases a : j < hi + 1 - lo
  · have : lo ≤ lo + j ∧ lo + j ≤ hi := by omega
    simp [a, this]
  · simp [a]

/-- A field disjoint from the one set reads as before. -/
theorem fld_setFld_disj (w : BitVec 32) {hi lo a b : Nat} (v : Nat) (h : lo ≤ hi) (h32 : hi < 32)
    (d : a < lo ∨ hi < b) : fld (setFld w hi lo v) a b = fld w a b := by
  apply Nat.eq_of_testBit_eq
  intro j
  rw [fld, fld, bits_testBit, bits_testBit, BitVec.testBit_toNat, BitVec.testBit_toNat, setFld_getLsbD _ _ _ _ _ h h32]
  by_cases e : j < a + 1 - b
  · have : ¬ (lo ≤ b + j ∧ b + j ≤ hi) := by omega
    simp [this]
  · simp [e]

@[simp] theorem w32_toNat (w : BitVec 32) : w32 w.toNat = w := by simp [w32]

end Sys2Proof.Machine
end

