-- ==== Sys2Proof/Laws/State.lean ====
section
/-! SUPPORT. Registers read back after a register update, and each field of the state after one. -/
namespace Sys2Proof.Machine

/-! ## Tables -/

theorem kvFind_erase_same {α : Type} (l : List (Nat × α)) (k : Nat) : kvFind (kvErase l k) k = none := by
  induction l with
  | nil => rfl
  | cons p r ih =>
    obtain ⟨a, v⟩ := p
    by_cases h : k = a
    · simp [kvErase, h, h ▸ ih]
    · simp [kvErase, kvFind, h, ih]

theorem kvFind_erase_ne {α : Type} (l : List (Nat × α)) {k x : Nat} (h : x ≠ k) : kvFind (kvErase l k) x = kvFind l x := by
  induction l with
  | nil => rfl
  | cons p r ih =>
    obtain ⟨a, v⟩ := p
    by_cases hk : k = a
    · subst hk; simp [kvErase, kvFind, h, ih]
    · by_cases hx : x = a <;> simp [kvErase, kvFind, hk, hx, ih]

theorem kvFind_insert_same {α : Type} (l : List (Nat × α)) (k : Nat) (v : α) : kvFind (kvInsert l k v) k = some v := by
  induction l with
  | nil => simp [kvInsert, kvFind]
  | cons p r ih =>
    obtain ⟨a, w⟩ := p
    by_cases h1 : k < a
    · simp [kvInsert, kvFind, h1]
    · by_cases h2 : k = a <;> simp [kvInsert, kvFind, h1, h2, ih]

theorem kvFind_insert_ne {α : Type} (l : List (Nat × α)) {k x : Nat} (v : α) (h : x ≠ k) :
    kvFind (kvInsert l k v) x = kvFind l x := by
  induction l with
  | nil => simp [kvInsert, kvFind, h]
  | cons p r ih =>
    obtain ⟨a, w⟩ := p
    by_cases h1 : k < a
    · simp [kvInsert, kvFind, h1, h]
    · by_cases h2 : k = a
      · subst h2; simp [kvInsert, kvFind, h]
      · by_cases hx : x = a <;> simp [kvInsert, kvFind, h1, h2, hx, ih]

/-- A value put under a key is found there. -/
theorem kvGet_put_same {α : Type} [DecidableEq α] (d : α) (l : List (Nat × α)) (k : Nat) (v : α) :
    (kvFind (kvPut d l k v) k).getD d = v := by
  by_cases h : v = d
  · simp [kvPut, h, kvFind_erase_same]
  · simp [kvPut, h, kvFind_insert_same]

/-- A value put under a key leaves every other key's. -/
theorem kvFind_put_ne {α : Type} [DecidableEq α] (d : α) (l : List (Nat × α)) {k x : Nat} (v : α) (h : x ≠ k) :
    kvFind (kvPut d l k v) x = kvFind l x := by
  by_cases e : v = d
  · simp [kvPut, e, kvFind_erase_ne l h]
  · simp [kvPut, e, kvFind_insert_ne l v h]

/-! ## Registers read back -/

variable (s t : State) (a b : Nat) (v : W32) (hi lo n : Nat) (x : Bool)

@[simp] theorem rd_wr_same : rd (wr a v s) a = v := kvGet_put_same ..

theorem rd_wr_ne {a b : Nat} (h : b ≠ a) : rd (wr a v s) b = rd s b := by
  simp [rd, wr, kvFind_put_ne _ _ _ h]

/-- A register after a register is stored. -/
theorem rd_wr : rd (wr a v s) b = if b = a then v else rd s b := by
  by_cases h : b = a
  · simp [h]
  · simp [h, rd_wr_ne]

@[simp] theorem rd_wrF_same : rd (wrF a hi lo n s) a = setFld (rd s a) hi lo n := rd_wr_same ..
theorem rd_wrF_ne {a b : Nat} (h : b ≠ a) : rd (wrF a hi lo n s) b = rd s b := rd_wr_ne _ _ h
@[simp] theorem rd_wrB_same : rd (wrB a n x s) a = setFld (rd s a) n n (b2n x) := rd_wr_same ..
theorem rd_wrB_ne {a b : Nat} (h : b ≠ a) : rd (wrB a n x s) b = rd s b := rd_wr_ne _ _ h
@[simp] theorem rd_bump_same : rd (bump a s) a = satAdd (rd s a) 1 := rd_wr_same ..
theorem rd_bump_ne {a b : Nat} (h : b ≠ a) : rd (bump a s) b = rd s b := rd_wr_ne _ _ h
@[simp] theorem rd_bumpWrap_same : rd (bumpWrap a s) a = rd s a + 1 := rd_wr_same ..
theorem rd_bumpWrap_ne {a b : Nat} (h : b ≠ a) : rd (bumpWrap a s) b = rd s b := rd_wr_ne _ _ h
@[simp] theorem rd_clearBits_same : rd (clearBits a v s) a = rd s a &&& ~~~v := rd_wr_same ..
theorem rd_clearBits_ne {a b : Nat} (h : b ≠ a) : rd (clearBits a v s) b = rd s b := rd_wr_ne _ _ h

/-- Registers read alike where the register files are the same. -/
theorem rd_congr {s t : State} (h : t.regs = s.regs) (a : Nat) : rd t a = rd s a := by simp [rd, h]

/-! ## Every other field after a register update -/

@[simp] theorem wr_member : (wr a v s).member = s.member := (rfl)
@[simp] theorem wrF_member : (wrF a hi lo n s).member = s.member := (rfl)
@[simp] theorem wrB_member : (wrB a n x s).member = s.member := (rfl)
@[simp] theorem bump_member : (bump a s).member = s.member := (rfl)
@[simp] theorem bumpWrap_member : (bumpWrap a s).member = s.member := (rfl)
@[simp] theorem wr64_member : (wr64 a n s).member = s.member := (rfl)
@[simp] theorem clearBits_member : (clearBits a v s).member = s.member := (rfl)
@[simp] theorem wr_clk : (wr a v s).clk = s.clk := (rfl)
@[simp] theorem wrF_clk : (wrF a hi lo n s).clk = s.clk := (rfl)
@[simp] theorem wrB_clk : (wrB a n x s).clk = s.clk := (rfl)
@[simp] theorem bump_clk : (bump a s).clk = s.clk := (rfl)
@[simp] theorem bumpWrap_clk : (bumpWrap a s).clk = s.clk := (rfl)
@[simp] theorem wr64_clk : (wr64 a n s).clk = s.clk := (rfl)
@[simp] theorem clearBits_clk : (clearBits a v s).clk = s.clk := (rfl)
@[simp] theorem wr_resetting : (wr a v s).resetting = s.resetting := (rfl)
@[simp] theorem wrF_resetting : (wrF a hi lo n s).resetting = s.resetting := (rfl)
@[simp] theorem wrB_resetting : (wrB a n x s).resetting = s.resetting := (rfl)
@[simp] theorem bump_resetting : (bump a s).resetting = s.resetting := (rfl)
@[simp] theorem bumpWrap_resetting : (bumpWrap a s).resetting = s.resetting := (rfl)
@[simp] theorem wr64_resetting : (wr64 a n s).resetting = s.resetting := (rfl)
@[simp] theorem clearBits_resetting : (clearBits a v s).resetting = s.resetting := (rfl)
@[simp] theorem wr_roll : (wr a v s).roll = s.roll := (rfl)
@[simp] theorem wrF_roll : (wrF a hi lo n s).roll = s.roll := (rfl)
@[simp] theorem wrB_roll : (wrB a n x s).roll = s.roll := (rfl)
@[simp] theorem bump_roll : (bump a s).roll = s.roll := (rfl)
@[simp] theorem bumpWrap_roll : (bumpWrap a s).roll = s.roll := (rfl)
@[simp] theorem wr64_roll : (wr64 a n s).roll = s.roll := (rfl)
@[simp] theorem clearBits_roll : (clearBits a v s).roll = s.roll := (rfl)
@[simp] theorem wr_boot : (wr a v s).boot = s.boot := (rfl)
@[simp] theorem wrF_boot : (wrF a hi lo n s).boot = s.boot := (rfl)
@[simp] theorem wrB_boot : (wrB a n x s).boot = s.boot := (rfl)
@[simp] theorem bump_boot : (bump a s).boot = s.boot := (rfl)
@[simp] theorem bumpWrap_boot : (bumpWrap a s).boot = s.boot := (rfl)
@[simp] theorem wr64_boot : (wr64 a n s).boot = s.boot := (rfl)
@[simp] theorem clearBits_boot : (clearBits a v s).boot = s.boot := (rfl)
@[simp] theorem wr_host : (wr a v s).host = s.host := (rfl)
@[simp] theorem wrF_host : (wrF a hi lo n s).host = s.host := (rfl)
@[simp] theorem wrB_host : (wrB a n x s).host = s.host := (rfl)
@[simp] theorem bump_host : (bump a s).host = s.host := (rfl)
@[simp] theorem bumpWrap_host : (bumpWrap a s).host = s.host := (rfl)
@[simp] theorem wr64_host : (wr64 a n s).host = s.host := (rfl)
@[simp] theorem clearBits_host : (clearBits a v s).host = s.host := (rfl)
@[simp] theorem wr_adm : (wr a v s).adm = s.adm := (rfl)
@[simp] theorem wrF_adm : (wrF a hi lo n s).adm = s.adm := (rfl)
@[simp] theorem wrB_adm : (wrB a n x s).adm = s.adm := (rfl)
@[simp] theorem bump_adm : (bump a s).adm = s.adm := (rfl)
@[simp] theorem bumpWrap_adm : (bumpWrap a s).adm = s.adm := (rfl)
@[simp] theorem wr64_adm : (wr64 a n s).adm = s.adm := (rfl)
@[simp] theorem clearBits_adm : (clearBits a v s).adm = s.adm := (rfl)
@[simp] theorem wr_pool : (wr a v s).pool = s.pool := (rfl)
@[simp] theorem wrF_pool : (wrF a hi lo n s).pool = s.pool := (rfl)
@[simp] theorem wrB_pool : (wrB a n x s).pool = s.pool := (rfl)
@[simp] theorem bump_pool : (bump a s).pool = s.pool := (rfl)
@[simp] theorem bumpWrap_pool : (bumpWrap a s).pool = s.pool := (rfl)
@[simp] theorem wr64_pool : (wr64 a n s).pool = s.pool := (rfl)
@[simp] theorem clearBits_pool : (clearBits a v s).pool = s.pool := (rfl)
@[simp] theorem wr_evc : (wr a v s).evc = s.evc := (rfl)
@[simp] theorem wrF_evc : (wrF a hi lo n s).evc = s.evc := (rfl)
@[simp] theorem wrB_evc : (wrB a n x s).evc = s.evc := (rfl)
@[simp] theorem bump_evc : (bump a s).evc = s.evc := (rfl)
@[simp] theorem bumpWrap_evc : (bumpWrap a s).evc = s.evc := (rfl)
@[simp] theorem wr64_evc : (wr64 a n s).evc = s.evc := (rfl)
@[simp] theorem clearBits_evc : (clearBits a v s).evc = s.evc := (rfl)
@[simp] theorem wr_mmu : (wr a v s).mmu = s.mmu := (rfl)
@[simp] theorem wrF_mmu : (wrF a hi lo n s).mmu = s.mmu := (rfl)
@[simp] theorem wrB_mmu : (wrB a n x s).mmu = s.mmu := (rfl)
@[simp] theorem bump_mmu : (bump a s).mmu = s.mmu := (rfl)
@[simp] theorem bumpWrap_mmu : (bumpWrap a s).mmu = s.mmu := (rfl)
@[simp] theorem wr64_mmu : (wr64 a n s).mmu = s.mmu := (rfl)
@[simp] theorem clearBits_mmu : (clearBits a v s).mmu = s.mmu := (rfl)
@[simp] theorem wr_ms : (wr a v s).ms = s.ms := (rfl)
@[simp] theorem wrF_ms : (wrF a hi lo n s).ms = s.ms := (rfl)
@[simp] theorem wrB_ms : (wrB a n x s).ms = s.ms := (rfl)
@[simp] theorem bump_ms : (bump a s).ms = s.ms := (rfl)
@[simp] theorem bumpWrap_ms : (bumpWrap a s).ms = s.ms := (rfl)
@[simp] theorem wr64_ms : (wr64 a n s).ms = s.ms := (rfl)
@[simp] theorem clearBits_ms : (clearBits a v s).ms = s.ms := (rfl)
@[simp] theorem wr_mem : (wr a v s).mem = s.mem := (rfl)
@[simp] theorem wrF_mem : (wrF a hi lo n s).mem = s.mem := (rfl)
@[simp] theorem wrB_mem : (wrB a n x s).mem = s.mem := (rfl)
@[simp] theorem bump_mem : (bump a s).mem = s.mem := (rfl)
@[simp] theorem bumpWrap_mem : (bumpWrap a s).mem = s.mem := (rfl)
@[simp] theorem wr64_mem : (wr64 a n s).mem = s.mem := (rfl)
@[simp] theorem clearBits_mem : (clearBits a v s).mem = s.mem := (rfl)
@[simp] theorem wr_gmem : (wr a v s).gmem = s.gmem := (rfl)
@[simp] theorem wrF_gmem : (wrF a hi lo n s).gmem = s.gmem := (rfl)
@[simp] theorem wrB_gmem : (wrB a n x s).gmem = s.gmem := (rfl)
@[simp] theorem bump_gmem : (bump a s).gmem = s.gmem := (rfl)
@[simp] theorem bumpWrap_gmem : (bumpWrap a s).gmem = s.gmem := (rfl)
@[simp] theorem wr64_gmem : (wr64 a n s).gmem = s.gmem := (rfl)
@[simp] theorem clearBits_gmem : (clearBits a v s).gmem = s.gmem := (rfl)
@[simp] theorem wr_regq : (wr a v s).regq = s.regq := (rfl)
@[simp] theorem wrF_regq : (wrF a hi lo n s).regq = s.regq := (rfl)
@[simp] theorem wrB_regq : (wrB a n x s).regq = s.regq := (rfl)
@[simp] theorem bump_regq : (bump a s).regq = s.regq := (rfl)
@[simp] theorem bumpWrap_regq : (bumpWrap a s).regq = s.regq := (rfl)
@[simp] theorem wr64_regq : (wr64 a n s).regq = s.regq := (rfl)
@[simp] theorem clearBits_regq : (clearBits a v s).regq = s.regq := (rfl)
@[simp] theorem wr_cantor : (wr a v s).cantor = s.cantor := (rfl)
@[simp] theorem wrF_cantor : (wrF a hi lo n s).cantor = s.cantor := (rfl)
@[simp] theorem wrB_cantor : (wrB a n x s).cantor = s.cantor := (rfl)
@[simp] theorem bump_cantor : (bump a s).cantor = s.cantor := (rfl)
@[simp] theorem bumpWrap_cantor : (bumpWrap a s).cantor = s.cantor := (rfl)
@[simp] theorem wr64_cantor : (wr64 a n s).cantor = s.cantor := (rfl)
@[simp] theorem clearBits_cantor : (clearBits a v s).cantor = s.cantor := (rfl)
@[simp] theorem wr_safety : (wr a v s).safety = s.safety := (rfl)
@[simp] theorem wrF_safety : (wrF a hi lo n s).safety = s.safety := (rfl)
@[simp] theorem wrB_safety : (wrB a n x s).safety = s.safety := (rfl)
@[simp] theorem bump_safety : (bump a s).safety = s.safety := (rfl)
@[simp] theorem bumpWrap_safety : (bumpWrap a s).safety = s.safety := (rfl)
@[simp] theorem wr64_safety : (wr64 a n s).safety = s.safety := (rfl)
@[simp] theorem clearBits_safety : (clearBits a v s).safety = s.safety := (rfl)
@[simp] theorem wr_trace : (wr a v s).trace = s.trace := (rfl)
@[simp] theorem wrF_trace : (wrF a hi lo n s).trace = s.trace := (rfl)
@[simp] theorem wrB_trace : (wrB a n x s).trace = s.trace := (rfl)
@[simp] theorem bump_trace : (bump a s).trace = s.trace := (rfl)
@[simp] theorem bumpWrap_trace : (bumpWrap a s).trace = s.trace := (rfl)
@[simp] theorem wr64_trace : (wr64 a n s).trace = s.trace := (rfl)
@[simp] theorem clearBits_trace : (clearBits a v s).trace = s.trace := (rfl)
@[simp] theorem wr_weevil : (wr a v s).weevil = s.weevil := (rfl)
@[simp] theorem wrF_weevil : (wrF a hi lo n s).weevil = s.weevil := (rfl)
@[simp] theorem wrB_weevil : (wrB a n x s).weevil = s.weevil := (rfl)
@[simp] theorem bump_weevil : (bump a s).weevil = s.weevil := (rfl)
@[simp] theorem bumpWrap_weevil : (bumpWrap a s).weevil = s.weevil := (rfl)
@[simp] theorem wr64_weevil : (wr64 a n s).weevil = s.weevil := (rfl)
@[simp] theorem clearBits_weevil : (clearBits a v s).weevil = s.weevil := (rfl)
@[simp] theorem wr_dbg : (wr a v s).dbg = s.dbg := (rfl)
@[simp] theorem wrF_dbg : (wrF a hi lo n s).dbg = s.dbg := (rfl)
@[simp] theorem wrB_dbg : (wrB a n x s).dbg = s.dbg := (rfl)
@[simp] theorem bump_dbg : (bump a s).dbg = s.dbg := (rfl)
@[simp] theorem bumpWrap_dbg : (bumpWrap a s).dbg = s.dbg := (rfl)
@[simp] theorem wr64_dbg : (wr64 a n s).dbg = s.dbg := (rfl)
@[simp] theorem clearBits_dbg : (clearBits a v s).dbg = s.dbg := (rfl)
@[simp] theorem wr_chafer : (wr a v s).chafer = s.chafer := (rfl)
@[simp] theorem wrF_chafer : (wrF a hi lo n s).chafer = s.chafer := (rfl)
@[simp] theorem wrB_chafer : (wrB a n x s).chafer = s.chafer := (rfl)
@[simp] theorem bump_chafer : (bump a s).chafer = s.chafer := (rfl)
@[simp] theorem bumpWrap_chafer : (bumpWrap a s).chafer = s.chafer := (rfl)
@[simp] theorem wr64_chafer : (wr64 a n s).chafer = s.chafer := (rfl)
@[simp] theorem clearBits_chafer : (clearBits a v s).chafer = s.chafer := (rfl)
@[simp] theorem wr_cam : (wr a v s).cam = s.cam := (rfl)
@[simp] theorem wrF_cam : (wrF a hi lo n s).cam = s.cam := (rfl)
@[simp] theorem wrB_cam : (wrB a n x s).cam = s.cam := (rfl)
@[simp] theorem bump_cam : (bump a s).cam = s.cam := (rfl)
@[simp] theorem bumpWrap_cam : (bumpWrap a s).cam = s.cam := (rfl)
@[simp] theorem wr64_cam : (wr64 a n s).cam = s.cam := (rfl)
@[simp] theorem clearBits_cam : (clearBits a v s).cam = s.cam := (rfl)
@[simp] theorem wr_wing : (wr a v s).wing = s.wing := (rfl)
@[simp] theorem wrF_wing : (wrF a hi lo n s).wing = s.wing := (rfl)
@[simp] theorem wrB_wing : (wrB a n x s).wing = s.wing := (rfl)
@[simp] theorem bump_wing : (bump a s).wing = s.wing := (rfl)
@[simp] theorem bumpWrap_wing : (bumpWrap a s).wing = s.wing := (rfl)
@[simp] theorem wr64_wing : (wr64 a n s).wing = s.wing := (rfl)
@[simp] theorem clearBits_wing : (clearBits a v s).wing = s.wing := (rfl)
@[simp] theorem wr_choir : (wr a v s).choir = s.choir := (rfl)
@[simp] theorem wrF_choir : (wrF a hi lo n s).choir = s.choir := (rfl)
@[simp] theorem wrB_choir : (wrB a n x s).choir = s.choir := (rfl)
@[simp] theorem bump_choir : (bump a s).choir = s.choir := (rfl)
@[simp] theorem bumpWrap_choir : (bumpWrap a s).choir = s.choir := (rfl)
@[simp] theorem wr64_choir : (wr64 a n s).choir = s.choir := (rfl)
@[simp] theorem clearBits_choir : (clearBits a v s).choir = s.choir := (rfl)
@[simp] theorem wr_timer : (wr a v s).timer = s.timer := (rfl)
@[simp] theorem wrF_timer : (wrF a hi lo n s).timer = s.timer := (rfl)
@[simp] theorem wrB_timer : (wrB a n x s).timer = s.timer := (rfl)
@[simp] theorem bump_timer : (bump a s).timer = s.timer := (rfl)
@[simp] theorem bumpWrap_timer : (bumpWrap a s).timer = s.timer := (rfl)
@[simp] theorem wr64_timer : (wr64 a n s).timer = s.timer := (rfl)
@[simp] theorem clearBits_timer : (clearBits a v s).timer = s.timer := (rfl)
@[simp] theorem wr_port : (wr a v s).port = s.port := (rfl)
@[simp] theorem wrF_port : (wrF a hi lo n s).port = s.port := (rfl)
@[simp] theorem wrB_port : (wrB a n x s).port = s.port := (rfl)
@[simp] theorem bump_port : (bump a s).port = s.port := (rfl)
@[simp] theorem bumpWrap_port : (bumpWrap a s).port = s.port := (rfl)
@[simp] theorem wr64_port : (wr64 a n s).port = s.port := (rfl)
@[simp] theorem clearBits_port : (clearBits a v s).port = s.port := (rfl)
@[simp] theorem wr_link : (wr a v s).link = s.link := (rfl)
@[simp] theorem wrF_link : (wrF a hi lo n s).link = s.link := (rfl)
@[simp] theorem wrB_link : (wrB a n x s).link = s.link := (rfl)
@[simp] theorem bump_link : (bump a s).link = s.link := (rfl)
@[simp] theorem bumpWrap_link : (bumpWrap a s).link = s.link := (rfl)
@[simp] theorem wr64_link : (wr64 a n s).link = s.link := (rfl)
@[simp] theorem clearBits_link : (clearBits a v s).link = s.link := (rfl)
@[simp] theorem wr_hymn : (wr a v s).hymn = s.hymn := (rfl)
@[simp] theorem wrF_hymn : (wrF a hi lo n s).hymn = s.hymn := (rfl)
@[simp] theorem wrB_hymn : (wrB a n x s).hymn = s.hymn := (rfl)
@[simp] theorem bump_hymn : (bump a s).hymn = s.hymn := (rfl)
@[simp] theorem bumpWrap_hymn : (bumpWrap a s).hymn = s.hymn := (rfl)
@[simp] theorem wr64_hymn : (wr64 a n s).hymn = s.hymn := (rfl)
@[simp] theorem clearBits_hymn : (clearBits a v s).hymn = s.hymn := (rfl)
@[simp] theorem wr_free : (wr a v s).free = s.free := (rfl)
@[simp] theorem wrF_free : (wrF a hi lo n s).free = s.free := (rfl)
@[simp] theorem wrB_free : (wrB a n x s).free = s.free := (rfl)
@[simp] theorem bump_free : (bump a s).free = s.free := (rfl)
@[simp] theorem bumpWrap_free : (bumpWrap a s).free = s.free := (rfl)
@[simp] theorem wr64_free : (wr64 a n s).free = s.free := (rfl)
@[simp] theorem clearBits_free : (clearBits a v s).free = s.free := (rfl)
@[simp] theorem wr_out : (wr a v s).out = s.out := (rfl)
@[simp] theorem wrF_out : (wrF a hi lo n s).out = s.out := (rfl)
@[simp] theorem wrB_out : (wrB a n x s).out = s.out := (rfl)
@[simp] theorem bump_out : (bump a s).out = s.out := (rfl)
@[simp] theorem bumpWrap_out : (bumpWrap a s).out = s.out := (rfl)
@[simp] theorem wr64_out : (wr64 a n s).out = s.out := (rfl)
@[simp] theorem clearBits_out : (clearBits a v s).out = s.out := (rfl)
@[simp] theorem wr_pending : (wr a v s).pending = s.pending := (rfl)
@[simp] theorem wrF_pending : (wrF a hi lo n s).pending = s.pending := (rfl)
@[simp] theorem wrB_pending : (wrB a n x s).pending = s.pending := (rfl)
@[simp] theorem bump_pending : (bump a s).pending = s.pending := (rfl)
@[simp] theorem bumpWrap_pending : (bumpWrap a s).pending = s.pending := (rfl)
@[simp] theorem wr64_pending : (wr64 a n s).pending = s.pending := (rfl)
@[simp] theorem clearBits_pending : (clearBits a v s).pending = s.pending := (rfl)

end Sys2Proof.Machine
end

