-- ==== Sys2Proof/Laws/Edges.lean ====
section
/-! SUPPORT. What the start of an edge and the end of a command do to a state in which nothing waits. -/
namespace Sys2Proof.Machine

theorem newEdge_quiet {s : State} (h : s.roll.held = []) : newEdge s = edgeBegin s := by
  rcases s with ⟨_, _, _, _, ⟨_, _, _, _, _, held, _⟩⟩
  subst h; rfl

theorem edgeOf_quiet {s : State} (h : s.roll.held = []) : edgeOf false s = edgeBegin s := newEdge_quiet h

theorem settle_calm {s : State} (m : s.adm.made = []) (f : s.adm.fires = []) : settle s = s := by
  rcases s with ⟨_, _, _, _, _, _, _, adm⟩
  rcases adm
  subst m f; rfl

theorem drainRegs_calm {s : State} (h : s.regq = []) : drainRegs s = s := by
  rcases s; subst h; rfl

theorem finish_calm {s : State} (m : s.adm.made = []) (f : s.adm.fires = []) (q : s.regq = []) (a : s.host.answer = [])
    (b : s.host.answerFail = false) : finish s = mirrors s := by
  rw [finish, settle_calm m f, drainRegs_calm q, settle_calm m f]
  rcases s with ⟨_, _, _, _, _, _, host⟩
  rcases host
  subst a b; rfl

/-! ## The start of an edge -/

@[simp] theorem edgeBegin_member (s : State) : (edgeBegin s).member = s.member := (rfl)
@[simp] theorem edgeBegin_clk (s : State) : (edgeBegin s).clk = s.clk := (rfl)
@[simp] theorem edgeBegin_regs (s : State) : (edgeBegin s).regs = s.regs := (rfl)
@[simp] theorem edgeBegin_resetting (s : State) : (edgeBegin s).resetting = s.resetting := (rfl)
@[simp] theorem edgeBegin_boot (s : State) : (edgeBegin s).boot = s.boot := (rfl)
@[simp] theorem edgeBegin_host (s : State) : (edgeBegin s).host = s.host := (rfl)
@[simp] theorem edgeBegin_adm (s : State) : (edgeBegin s).adm = s.adm := (rfl)
@[simp] theorem edgeBegin_pool (s : State) : (edgeBegin s).pool = s.pool := (rfl)
@[simp] theorem edgeBegin_mmu (s : State) : (edgeBegin s).mmu = s.mmu := (rfl)
@[simp] theorem edgeBegin_ms (s : State) : (edgeBegin s).ms = s.ms := (rfl)
@[simp] theorem edgeBegin_mem (s : State) : (edgeBegin s).mem = s.mem := (rfl)
@[simp] theorem edgeBegin_gmem (s : State) : (edgeBegin s).gmem = s.gmem := (rfl)
@[simp] theorem edgeBegin_regq (s : State) : (edgeBegin s).regq = s.regq := (rfl)
@[simp] theorem edgeBegin_cantor (s : State) : (edgeBegin s).cantor = s.cantor := (rfl)
@[simp] theorem edgeBegin_safety (s : State) : (edgeBegin s).safety = s.safety := (rfl)
@[simp] theorem edgeBegin_weevil (s : State) : (edgeBegin s).weevil = s.weevil := (rfl)
@[simp] theorem edgeBegin_dbg (s : State) : (edgeBegin s).dbg = s.dbg := (rfl)
@[simp] theorem edgeBegin_chafer (s : State) : (edgeBegin s).chafer = s.chafer := (rfl)
@[simp] theorem edgeBegin_cam (s : State) : (edgeBegin s).cam = s.cam := (rfl)
@[simp] theorem edgeBegin_wing (s : State) : (edgeBegin s).wing = s.wing := (rfl)
@[simp] theorem edgeBegin_choir (s : State) : (edgeBegin s).choir = s.choir := (rfl)
@[simp] theorem edgeBegin_timer (s : State) : (edgeBegin s).timer = s.timer := (rfl)
@[simp] theorem edgeBegin_port (s : State) : (edgeBegin s).port = s.port := (rfl)
@[simp] theorem edgeBegin_link (s : State) : (edgeBegin s).link = s.link := (rfl)
@[simp] theorem edgeBegin_hymn (s : State) : (edgeBegin s).hymn = s.hymn := (rfl)
@[simp] theorem edgeBegin_free (s : State) : (edgeBegin s).free = s.free := (rfl)
@[simp] theorem edgeBegin_out (s : State) : (edgeBegin s).out = s.out := (rfl)
@[simp] theorem edgeBegin_pending (s : State) : (edgeBegin s).pending = s.pending := (rfl)
@[simp] theorem rd_edgeBegin (s : State) (a : Nat) : rd (edgeBegin s) a = rd s a := (rfl)
@[simp] theorem edgeBegin_held (s : State) : (edgeBegin s).roll.held = s.roll.held := (rfl)
@[simp] theorem edgeBegin_entries (s : State) : (edgeBegin s).roll.entries = s.roll.entries := (rfl)

theorem Quiet.edge {s : State} (h : Quiet s) : Quiet (edgeBegin s) := ⟨h.1, h.2, h.3, h.4, h.5, h.6⟩

theorem Quiet.congr {s t : State} (h : Quiet s) (r : t.roll.held = s.roll.held) (q : t.regq = s.regq) (a : t.adm = s.adm)
    (o : t.host = s.host) : Quiet t :=
  ⟨r ▸ h.1, q ▸ h.2, a ▸ h.3, a ▸ h.4, o ▸ h.5, o ▸ h.6⟩

/-! ## The mirrored values -/

@[simp] theorem mirrors_member (s : State) : (mirrors s).member = s.member := by simp [mirrors, rollFillSync]
@[simp] theorem mirrors_clk (s : State) : (mirrors s).clk = s.clk := by simp [mirrors, rollFillSync]
@[simp] theorem mirrors_resetting (s : State) : (mirrors s).resetting = s.resetting := by simp [mirrors, rollFillSync]
@[simp] theorem mirrors_roll (s : State) : (mirrors s).roll = s.roll := by simp [mirrors, rollFillSync]
@[simp] theorem mirrors_boot (s : State) : (mirrors s).boot = s.boot := by simp [mirrors, rollFillSync]
@[simp] theorem mirrors_host (s : State) : (mirrors s).host = s.host := by simp [mirrors, rollFillSync]
@[simp] theorem mirrors_adm (s : State) : (mirrors s).adm = s.adm := by simp [mirrors, rollFillSync]
@[simp] theorem mirrors_pool (s : State) : (mirrors s).pool = s.pool := by simp [mirrors, rollFillSync]
@[simp] theorem mirrors_evc (s : State) : (mirrors s).evc = s.evc := by simp [mirrors, rollFillSync]
@[simp] theorem mirrors_mmu (s : State) : (mirrors s).mmu = s.mmu := by simp [mirrors, rollFillSync]
@[simp] theorem mirrors_ms (s : State) : (mirrors s).ms = s.ms := by simp [mirrors, rollFillSync]
@[simp] theorem mirrors_mem (s : State) : (mirrors s).mem = s.mem := by simp [mirrors, rollFillSync]
@[simp] theorem mirrors_gmem (s : State) : (mirrors s).gmem = s.gmem := by simp [mirrors, rollFillSync]
@[simp] theorem mirrors_regq (s : State) : (mirrors s).regq = s.regq := by simp [mirrors, rollFillSync]
@[simp] theorem mirrors_cantor (s : State) : (mirrors s).cantor = s.cantor := by simp [mirrors, rollFillSync]
@[simp] theorem mirrors_safety (s : State) : (mirrors s).safety = s.safety := by simp [mirrors, rollFillSync]
@[simp] theorem mirrors_trace (s : State) : (mirrors s).trace = s.trace := by simp [mirrors, rollFillSync]
@[simp] theorem mirrors_weevil (s : State) : (mirrors s).weevil = s.weevil := by simp [mirrors, rollFillSync]
@[simp] theorem mirrors_dbg (s : State) : (mirrors s).dbg = s.dbg := by simp [mirrors, rollFillSync]
@[simp] theorem mirrors_chafer (s : State) : (mirrors s).chafer = s.chafer := by simp [mirrors, rollFillSync]
@[simp] theorem mirrors_cam (s : State) : (mirrors s).cam = s.cam := by simp [mirrors, rollFillSync]
@[simp] theorem mirrors_wing (s : State) : (mirrors s).wing = s.wing := by simp [mirrors, rollFillSync]
@[simp] theorem mirrors_choir (s : State) : (mirrors s).choir = s.choir := by simp [mirrors, rollFillSync]
@[simp] theorem mirrors_timer (s : State) : (mirrors s).timer = s.timer := by simp [mirrors, rollFillSync]
@[simp] theorem mirrors_port (s : State) : (mirrors s).port = s.port := by simp [mirrors, rollFillSync]
@[simp] theorem mirrors_link (s : State) : (mirrors s).link = s.link := by simp [mirrors, rollFillSync]
@[simp] theorem mirrors_hymn (s : State) : (mirrors s).hymn = s.hymn := by simp [mirrors, rollFillSync]
@[simp] theorem mirrors_free (s : State) : (mirrors s).free = s.free := by simp [mirrors, rollFillSync]
@[simp] theorem mirrors_out (s : State) : (mirrors s).out = s.out := by simp [mirrors, rollFillSync]
@[simp] theorem mirrors_pending (s : State) : (mirrors s).pending = s.pending := by simp [mirrors, rollFillSync]

/-- The registers of which mirrored values are made, and the three that hold them. -/
def mirrorRegs : List Nat := [Rg.ROLL_FILL, Rg.ROLL_NEXT_SEQ, Rg.ROLL_TAIL_SEQ, Rg.BOOT_STAT, Rg.TUNE_STAT, Rg.STAVE_STAT,
  Rg.SLINK_LOCK_STAT, Rg.DEBUG_HOLD_STAT]

theorem Mirrored.congr {s t : State} (h : Mirrored s) (r : ∀ a ∈ mirrorRegs, rd t a = rd s a)
    (c : t.clk.running = s.clk.running) : Mirrored t := by
  simp only [mirrorRegs, List.forall_mem_cons, List.not_mem_nil, false_implies, implies_true, and_true] at r
  obtain ⟨a, b, d, e, f, g, i, j⟩ := r
  exact ⟨by simpa [rdN, a, b, d] using h.fill, by simpa [rdB, e, f] using h.defaults, by simpa [rdB, g, c] using h.running,
    by simpa [rdB, g, i] using h.linked, by simpa [rdB, g, j] using h.held⟩

theorem Mirrored.edge {s : State} (h : Mirrored s) : Mirrored (edgeBegin s) := h.congr (fun _ _ => rfl) rfl

theorem Mirrored.wr {s : State} (h : Mirrored s) {a : Nat} (v : W32) (n : a ∉ mirrorRegs) : Mirrored (wr a v s) :=
  h.congr (fun _ m => rd_wr_ne _ _ (fun e => n (e ▸ m))) rfl

/-- Each register that holds a mirrored value, after the values are made to agree. -/
theorem rd_mirrors_fill (s : State) : rd (mirrors s) Rg.ROLL_FILL =
    w32 (sub32 (rdN s Rg.ROLL_NEXT_SEQ) (rdN s Rg.ROLL_TAIL_SEQ)) := by
  simp [mirrors, rollFillSync, wrB, wrF, rd_wr]

theorem rd_mirrors_boot (s : State) : rd (mirrors s) Rg.BOOT_STAT =
    setFld (rd s Rg.BOOT_STAT) 19 19 (b2n (rdB s Rg.TUNE_STAT 1)) := by
  simp [mirrors, rollFillSync, wrB, wrF, rdB, rd_wr]

theorem rd_mirrors_stave (s : State) : rd (mirrors s) Rg.STAVE_STAT =
    setFld (setFld (setFld (rd s Rg.STAVE_STAT) 0 0 (b2n s.clk.running)) 1 1 (b2n (rdB s Rg.SLINK_LOCK_STAT 1)))
      3 3 (b2n (rdB s Rg.DEBUG_HOLD_STAT 1)) := by
  simp [mirrors, rollFillSync, wrB, wrF, rdB, rd_wr]

theorem rd_mirrors_other (s : State) {a : Nat} (f : a ≠ Rg.ROLL_FILL) (b : a ≠ Rg.BOOT_STAT) (v : a ≠ Rg.STAVE_STAT) :
    rd (mirrors s) a = rd s a := by
  simp [mirrors, rollFillSync, wrB, wrF, rd_wr, f, b, v]

/-- The end of a command leaves the mirrored values in agreement. -/
theorem mirrored_mirrors (s : State) : Mirrored (mirrors s) := by
  have o : ∀ a, a ≠ Rg.ROLL_FILL → a ≠ Rg.BOOT_STAT → a ≠ Rg.STAVE_STAT → rd (mirrors s) a = rd s a :=
    fun a f b v => rd_mirrors_other s f b v
  constructor
  · simp only [rdN, rd_mirrors_fill, o Rg.ROLL_NEXT_SEQ (by decide) (by decide) (by decide),
      o Rg.ROLL_TAIL_SEQ (by decide) (by decide) (by decide), w32, BitVec.toNat_ofNat, sub32]
    omega
  · simp only [rdB, rd_mirrors_boot, o Rg.TUNE_STAT (by decide) (by decide) (by decide)]
    exact fbit_setFld_same _ _ _ (by decide)
  · simp only [rdB, rd_mirrors_stave, mirrors_clk]
    rw [fbit_setFld_ne _ _ (by decide) (by decide) (by decide), fbit_setFld_ne _ _ (by decide) (by decide) (by decide),
      fbit_setFld_same _ _ _ (by decide)]
  · simp only [rdB, rd_mirrors_stave, o Rg.SLINK_LOCK_STAT (by decide) (by decide) (by decide)]
    rw [fbit_setFld_ne _ _ (by decide) (by decide) (by decide), fbit_setFld_same _ _ _ (by decide)]
  · simp only [rdB, rd_mirrors_stave, o Rg.DEBUG_HOLD_STAT (by decide) (by decide) (by decide)]
    exact fbit_setFld_same _ _ _ (by decide)

/-- Every command that ends on the shared end of commands leaves the mirrored values in agreement. -/
theorem mirrored_finish (s : State) : Mirrored (finish s) := mirrored_mirrors _

/-- Where they agree already, no register reads otherwise. -/
theorem rd_mirrors {s : State} (h : Mirrored s) (a : Nat) : rd (mirrors s) a = rd s a := by
  by_cases f : a = Rg.ROLL_FILL
  · subst f; rw [rd_mirrors_fill, ← h.fill, rdN, w32_toNat]
  by_cases b : a = Rg.BOOT_STAT
  · subst b; rw [rd_mirrors_boot, ← h.defaults, rdB, setFld_self _ _ (by decide)]
  by_cases v : a = Rg.STAVE_STAT
  · subst v
    rw [rd_mirrors_stave, ← h.running, rdB, setFld_self _ _ (by decide), ← h.linked, rdB, setFld_self _ _ (by decide),
      ← h.held, rdB, setFld_self _ _ (by decide)]
  exact rd_mirrors_other s f b v

theorem mirrors_same {s : State} (h : Mirrored s) : Same (mirrors s) s := by
  refine ⟨rd_mirrors h, ?_⟩
  rcases s
  simp [mirrors, rollFillSync, wrB, wrF, wr]

/-- The end of a command in which nothing is left to do shows the state as the command left it. -/
theorem finish_same {s : State} (q : Quiet s) (h : Mirrored s) : Same (finish s) s := by
  rw [finish_calm q.made q.fires q.regq q.answer q.answered]; exact mirrors_same h

/-- An event on a state in which nothing waits: what is then seen is what it does on its edge. -/
theorem event_same {f : State → State} {s u : State} (q : Quiet s) (e : f (edgeBegin s) = u) (qu : Quiet u)
    (mu : Mirrored u) : Same (event f s) u := by
  rw [event, newEdge_quiet q.held, e]; exact finish_same qu mu

theorem eventIf_same {c : State → Bool} {f : State → State} {s u : State} (q : Quiet s) (g : c (edgeBegin s) = true)
    (e : f (edgeBegin s) = u) (qu : Quiet u) (mu : Mirrored u) : Same (eventIf c f s) u :=
  event_same q (by simp [g, e]) qu mu

end Sys2Proof.Machine
end

