-- ==== Sys2Proof/Laws/Writes.lean ====
section
/-! SUPPORT. A register write that lands: what it does, by the register that it names. -/
namespace Sys2Proof.Machine

theorem w32_leAt (v : W32) : w32 (leAt (toLE 4 v.toNat) 0 4) = v := by
  have h := v.isLt
  have e : leAt (toLE 4 v.toNat) 0 4 = v.toNat := by
    simp only [leAt, toLE, List.drop_zero, List.take, fromLE, BitVec.toNat_ofNat]; omega
  rw [e, w32_toNat]

theorem LandsAt.origin_ne {q : Req} {pl : Place} {v : W32} {e : State} (h : LandsAt q pl v e) : (q.origin != 0) = true := by
  have := h.origin
  simp only [cmdOrigin, Bool.and_eq_true, decide_eq_true_eq] at this
  simp only [bne_iff_ne]; omega

/-- A write that lands goes to its place, whoever sends it. -/
theorem anyWrite_lands {q : Req} {pl : Place} {v : W32} {e : State} (h : LandsAt q pl v e)
    (hp : ∀ f o, pl ≠ .cfg f o ∧ pl ≠ .msix f o) : anyWrite q pl v e = writePlace q pl v e := by
  have i : ∀ n f, liveInput n f e = f e := fun n f => by simp [liveInput, isolated, h.replay]
  have ne := h.origin_ne
  cases pl with
  | cfg f o => exact absurd rfl (hp f o).1
  | msix f o => exact absurd rfl (hp f o).2
  | dev o => rfl
  | vfBar n o =>
    by_cases a : q.origin = n
    · obtain ⟨f, l, w⟩ := h.host n (by simp [senderFn, a])
      have : 1 ≤ n := by subst a; simp only [bne_iff_ne] at ne; omega
      simp [anyWrite, a, f, this, hostWrite, pcieRx, linkToL0, l, w, i, w32_leAt]
    · simp [anyWrite, a]
  | space o =>
    by_cases a : q.origin = 0x41
    · obtain ⟨f, l, w⟩ := h.host 0 (by simp [senderFn, a])
      simp [anyWrite, a, f, hostWrite, pcieRx, linkToL0, l, w, i, w32_leAt]
    · by_cases b : q.origin = 0x48 <;> simp [anyWrite, a, b, i]

/-- A write that lands does what its register or doorbell does, and the Hymnal records it. -/
theorem writeCmd_lands {q : Req} {pl : Place} {v : W32} {s e u : State} (he : e = edgeOf q.same s) (h : LandsAt q pl v e)
    (hp : ∀ f o, pl ≠ .cfg f o ∧ pl ≠ .msix f o) (hu : writeNow q (destOf e pl) v e = (true, u)) :
    writeCmd q pl v s = finish (inputRec q pl (toLE 4 v.toNat) u) := by
  have ro := h.room
  rw [writeCmd, ← he, h.origin, if_pos rfl, anyWrite_lands h hp]
  simp [writePlace, h.awake, h.free, Nat.not_le.mpr ro, hu]

theorem regCmd_lands {q : Req} {off : Nat} {v : W32} {s e : State} (he : e = edgeOf q.same s) (h : Lands q off v e)
    {p o : Nat} {isHdr : Bool} (hd : (spaceDest off).tgt = .page p o isHdr) {x : PageDesc} (hx : pageDesc p = some x)
    {r : RegDesc} (hr : regNamed x p o isHdr = some r) :
    regCmd q off v s = finish (recorded q off v (acceptReg q (spaceDest off) x p o isHdr r v e)) := by
  have t : destOf e (.space off) = spaceDest off := rfl
  have k := h.taken
  rw [t] at k
  exact writeCmd_lands he h (fun _ _ => ⟨nofun, nofun⟩) (by rw [t]; simp [writeNow, k, hd, hx, hr])

/-- A register other than TEN_CFG is given the value written. -/
theorem acceptVal_ne {p off : Nat} (isHdr : Bool) (v : W32) (h : p * 0x1000 + off ≠ 0x213FC) :
    acceptVal p off isHdr v = v := by
  simp [acceptVal, Rg.SRIOV_TEN_CFG, h]

/-- A table none of whose registers is tied to one instance reads alike on every instance. -/
theorem findReg_inst {l : List RegDesc} (h : l.all (fun r => r.only.isNone) = true) (n off : Nat) :
    findReg n l off = findReg 0 l off := by
  unfold findReg
  induction l with
  | nil => rfl
  | cons r l ih =>
    simp only [List.all_cons, Bool.and_eq_true] at h
    have e : r.only = none := by simpa using h.1
    simp only [List.find?_cons, e, ih h.2]

/-- The destination of a header register's key. -/
theorem spaceDest_hdr {p off : Nat} {x : PageDesc} (hp : p < 0x200) (ho : off < 0x40) (h4 : off % 4 = 0)
    (hx : pageDesc p = some x) : (spaceDest (hdr p off)).tgt = .page p off true := by
  by_cases r : isRingPage p = true
  · have r' := r
    simp only [isRingPage, Bool.and_eq_true, decide_eq_true_eq] at r'
    have e : hdr p off / 4 * 4 = 0x220000 + 64 * (p - 0x100) + off := by simp [hdr, r]; omega
    simp only [spaceDest, e]
    rw [if_neg (by omega), if_neg (by omega), if_pos (by omega)]
    simp; omega
  · have e : hdr p off / 4 * 4 = p * 0x1000 + off := by simp [hdr, r]; omega
    have d : (p * 0x1000 + off) / 0x1000 = p := by omega
    have m : (p * 0x1000 + off) % 0x1000 = off := by omega
    simp only [spaceDest, e, d, m]
    rw [if_pos (by omega)]
    simp [hx, r, ho]

/-- The destination of a page's own register. -/
theorem spaceDest_page {a p off : Nat} {x : PageDesc} (ha : a = p * 0x1000 + off) (hp : p < 0x200) (ho : off < 0x1000)
    (h4 : off % 4 = 0) (hx : pageDesc p = some x) (hh : isRingPage p = true ∨ 0x40 ≤ off) :
    (spaceDest a).tgt = .page p off false := by
  subst ha
  have e : (p * 0x1000 + off) / 4 * 4 = p * 0x1000 + off := by omega
  have d : (p * 0x1000 + off) / 0x1000 = p := by omega
  have m : (p * 0x1000 + off) % 0x1000 = off := by omega
  simp only [spaceDest, e, d, m]
  rw [if_pos (by omega)]
  rcases hh with hh | hh
  · simp [hx, hh]
  · have : ¬ off < 0x40 := by omega
    simp [hx, this]

end Sys2Proof.Machine
end

