-- ==== Sys2Proof/Laws/Ends.lean ====
section
/-! SUPPORT. How a command ends, by the shape of its meaning: an event, an event with a condition, an answered read of
the host, a register write that lands. -/
namespace Sys2Proof.Machine

variable {i : Instr} {s e u : State} {f : State → State} {c : State → Bool} {q : Req} {v : W32} {off p o : Nat} {isHdr : Bool}
  {x : PageDesc} {r : RegDesc}

theorem ends_event (hx : Sys2Proof.Machine.exec i s = .next (event f s)) (h : f (newEdge s) = u) : Ends i s u := by
  rw [Ends, hx, event, h]

theorem ends_eventIf (hx : Sys2Proof.Machine.exec i s = .next (eventIf c f s)) (g : c (newEdge s) = true)
    (h : f (newEdge s) = u) : Ends i s u := by
  rw [Ends, hx, eventIf, event]; simp only [g, if_true, h]

/-- Where the condition of an event does not hold, nothing but the edge passes. -/
theorem ends_eventIf_not (hx : Sys2Proof.Machine.exec i s = .next (eventIf c f s)) (g : c (newEdge s) = false) :
    Ends i s (newEdge s) := by
  rw [Ends, hx, eventIf, event]; simp [g]

theorem ends_write (hx : Sys2Proof.Machine.exec i s = .next (regCmd q off v s)) (he : e = edgeOf q.same s) (h : Lands q off v e)
    (hd : (spaceDest off).tgt = .page p o isHdr) (hp : pageDesc p = some x) (hr : regNamed x p o isHdr = some r)
    (hu : acceptReg q (spaceDest off) x p o isHdr r v e = u) : Ends i s (recorded q off v u) := by
  rw [Ends, hx, regCmd_lands he h hd hp hr, hu]

/-- A write that makes no roll entry: its effect alone. -/
theorem ends_data (hx : Sys2Proof.Machine.exec i s = .next (regCmd q off v s)) (he : e = edgeOf q.same s) (h : Lands q off v e)
    (hd : (spaceDest off).tgt = .page p o isHdr) (hp : pageDesc p = some x) (hr : regNamed x p o isHdr = some r)
    (hc : isConfig q.origin x o isHdr r = false) (hv : acceptVal p o isHdr v = v)
    (hu : writeFx q x p o isHdr r v e = u) : Ends i s (recorded q off v u) :=
  ends_write hx he h hd hp hr (by simp [acceptReg, hc, hv, hu])

/-- A configuration change: entered in the roll, then its effect. -/
theorem ends_config (hx : Sys2Proof.Machine.exec i s = .next (regCmd q off v s)) (he : e = edgeOf q.same s) (h : Lands q off v e)
    (hd : (spaceDest off).tgt = .page p o isHdr) (hp : pageDesc p = some x) (hr : regNamed x p o isHdr = some r)
    (hc : isConfig q.origin x o isHdr r = true) (hf : fxFirst x.kind = false) (hv : acceptVal p o isHdr v = v)
    (hu : writeFx q x p o isHdr r v (logged q off v e e) = u) : Ends i s (recorded q off v u) :=
  ends_write hx he h hd hp hr (by rw [← hu]; simp [acceptReg, hc, hf, hv, logged, hd, hp, hr])

/-- A configuration change whose effect comes first. -/
theorem ends_config_late (hx : Sys2Proof.Machine.exec i s = .next (regCmd q off v s)) (he : e = edgeOf q.same s)
    (h : Lands q off v e) (hd : (spaceDest off).tgt = .page p o isHdr) (hp : pageDesc p = some x)
    (hr : regNamed x p o isHdr = some r) (hc : isConfig q.origin x o isHdr r = true) (hf : fxFirst x.kind = true)
    (hv : acceptVal p o isHdr v = v) (hu : writeFx q x p o isHdr r v e = u) :
    Ends i s (recorded q off v (logged q off v e u)) :=
  ends_write hx he h hd hp hr (by rw [← hu]; simp [acceptReg, hc, hf, hv, logged, hd, hp, hr])

/-- An event that reads the host finds its answer. -/
theorem ends_answered {data : HostData} (hx : Sys2Proof.Machine.exec i s = answered data f s) (hd : data ≠ .peer)
    (h : f (newEdge (given data s)) = u) : Ends i s u := by
  cases data with
  | peer => exact absurd rfl hd
  | bytes l => rw [Ends, hx, ← h]; rfl
  | failed => rw [Ends, hx, ← h]; rfl

theorem withData_data (op : CfgOp) : op.withData op.data = op := by
  cases op <;> simp [CfgOp.withData, CfgOp.data, w32_leAt]

/-- A change of configuration space that reaches the device takes effect. -/
theorem cfgArrive_reaches (op : CfgOp) (h : HostReaches e) : cfgArrive op e = cfgDo op e := by
  have i : ∀ n f, liveInput n f e = f e := fun n f => by simp [liveInput, isolated, h.replay]
  have j : ∀ a b d l, hymnRec a b d l e = e := fun a b d l => by simp [hymnRec, h.quiet]
  unfold cfgArrive
  cases hc : cfgEvent op <;>
    simp [h.up, hostEvent, inputOf, i, j, pcieRx, linkToL0, h.l0, h.idle, withData_data]

theorem ends_cfg {op : CfgOp} (hx : Sys2Proof.Machine.exec i s = .next (event (cfgArrive op) s)) (h : HostReaches (newEdge s))
    (hu : cfgDo op (newEdge s) = u) : Ends i s u := ends_event hx (by rw [cfgArrive_reaches op h, hu])

/-- A register read that reaches its page, on its own edge or on that of the command before, answers what the page
reads. -/
theorem ends_read_on {o a : Nat} {w : W32} {t : State} {same : Bool}
    (hx : Sys2Proof.Machine.exec i s = .next (readCmd o a same s)) (hd : locate (a / 4 * 4) = (p, off, false))
    (h : ReadsAt o p off (edgeOf same s)) (hs : a / 4 * 4 < 0x200000) (hp : pageDesc p = some x)
    (ht : isTenantPage p = false) (pr : present (edgeOf same s).member p = true)
    (hw : (readPage o p off (edgeOf same s)).1 = w) (hr : (readPage o p off (edgeOf same s)).2 = t) :
    Ends i s (emit (.readData o w.toNat) t) := by
  have l : (if (o == 0x41) = true then linkToL0 (edgeOf same s) else edgeOf same s) = edgeOf same s := by
    by_cases ho : o = 0x41
    · simp [ho, linkToL0, h.l0 ho]
    · simp [ho]
  rw [Ends, hx, readCmd]
  simp only [h.reaches, if_true, l]
  have n1 : ¬ 0x200000 ≤ a / 4 * 4 := by omega
  have n2 : ¬ 0x224000 ≤ a / 4 * 4 := by omega
  simp [regRead, n1, n2, hd, hp, ht, h.visible, pr, hw, hr, answer]

/-- A register read on its own edge. -/
theorem ends_read {o a : Nat} {w : W32} {t : State} (hx : Sys2Proof.Machine.exec i s = .next (readCmd o a false s))
    (hd : locate (a / 4 * 4) = (p, off, false)) (h : ReadsAt o p off (newEdge s)) (hs : a / 4 * 4 < 0x200000)
    (hp : pageDesc p = some x) (ht : isTenantPage p = false) (pr : present (newEdge s).member p = true)
    (hw : (readPage o p off (newEdge s)).1 = w) (hr : (readPage o p off (newEdge s)).2 = t) :
    Ends i s (emit (.readData o w.toNat) t) :=
  ends_read_on (same := false) hx hd h hs hp ht pr hw hr

/-- A header register's write: entered in the roll before its effect or, on some pages, after it. -/
theorem ends_header {g : State → State} (hx : Sys2Proof.Machine.exec i s = .next (regCmd q (hdr p o) v s))
    (he : e = edgeOf q.same s) (h : Lands q (hdr p o) v e) (hp : p < 0x200) (ho : o < 0x40) (h4 : o % 4 = 0)
    (hd : pageDesc p = some x) (hr : regNamed x p o true = some r) (hc : isConfig q.origin x o true r = true)
    (hu : ∀ t, writeFx q x p o true r v t = g t) :
    Ends i s (recorded q (hdr p o) v
      (if fxFirst x.kind then logged q (hdr p o) v e (g e) else g (logged q (hdr p o) v e e))) := by
  have d := spaceDest_hdr hp ho h4 hd
  refine ends_write hx he h d hd hr ?_
  have av : acceptVal p o true v = v := by simp [acceptVal]
  cases hf : fxFirst x.kind <;> simp [acceptReg, hc, hf, av, hu, logged, d, hd, hr]

end Sys2Proof.Machine
end

