-- ==== Sys2Proof/Laws/Memory.lean ====
section
/-! SUPPORT. Memory: every operation keeps the canonical form, a byte stored is read back, and a store leaves every other
byte as it was. -/
namespace Sys2Proof.Machine

/-! ## The canonical form -/

theorem kvSorted_cons {α : Type} {a : Nat} {x : α} {l : List (Nat × α)} :
    kvSorted ((a, x) :: l) = true ↔ (∀ c ∈ l, a < c.1) ∧ kvSorted l = true := by
  induction l generalizing a x with
  | nil => simp [kvSorted]
  | cons c r ih =>
    rcases c with ⟨b, w⟩
    simp only [kvSorted, Bool.and_eq_true, decide_eq_true_eq, List.mem_cons]
    constructor
    · rintro ⟨h, k⟩
      refine ⟨?_, k⟩
      rintro c (rfl | hc)
      · exact h
      · exact Nat.lt_trans h ((ih.mp k).1 c hc)
    · rintro ⟨h, k⟩
      exact ⟨h (b, w) (Or.inl rfl), k⟩

theorem kvErase_sub {α : Type} {l : List (Nat × α)} {k : Nat} : ∀ c ∈ kvErase l k, c ∈ l := by
  induction l with
  | nil => simp [kvErase]
  | cons c r ih =>
    rcases c with ⟨a, x⟩
    intro c hc
    by_cases h : k = a
    · simp only [kvErase, h, beq_self_eq_true, if_true] at hc
      exact List.mem_cons_of_mem _ (ih c (h ▸ hc))
    · simp only [kvErase, beq_iff_eq, h, if_false, List.mem_cons] at hc
      rcases hc with rfl | hc
      · exact List.mem_cons_self ..
      · exact List.mem_cons_of_mem _ (ih c hc)

theorem kvErase_sorted {α : Type} {l : List (Nat × α)} {k : Nat} (h : kvSorted l = true) : kvSorted (kvErase l k) = true := by
  induction l with
  | nil => simpa [kvErase] using h
  | cons c r ih =>
    rcases c with ⟨a, x⟩
    have hh := kvSorted_cons.mp h
    by_cases e : k = a
    · simp only [kvErase, e, beq_self_eq_true, if_true]; exact e ▸ ih hh.2
    · simp only [kvErase, beq_iff_eq, e, if_false]
      exact kvSorted_cons.mpr ⟨fun c hc => hh.1 c (kvErase_sub c hc), ih hh.2⟩

theorem kvInsert_mem {α : Type} {l : List (Nat × α)} {k : Nat} {v : α} : ∀ c ∈ kvInsert l k v, c = (k, v) ∨ c ∈ l := by
  induction l with
  | nil => simp [kvInsert]
  | cons c r ih =>
    rcases c with ⟨a, x⟩
    intro c hc
    simp only [kvInsert] at hc
    split at hc
    · simpa using hc
    · split at hc
      · rcases List.mem_cons.mp hc with h | h
        · exact Or.inl h
        · exact Or.inr (List.mem_cons_of_mem _ h)
      · rcases List.mem_cons.mp hc with h | h
        · exact Or.inr (h ▸ List.mem_cons_self ..)
        · exact (ih c h).imp id (List.mem_cons_of_mem _)

theorem kvInsert_sorted {α : Type} {l : List (Nat × α)} {k : Nat} {v : α} (h : kvSorted l = true) :
    kvSorted (kvInsert l k v) = true := by
  induction l with
  | nil => simp [kvInsert, kvSorted]
  | cons c r ih =>
    rcases c with ⟨a, x⟩
    have hh := kvSorted_cons.mp h
    simp only [kvInsert]
    split
    · rename_i lt
      refine kvSorted_cons.mpr ⟨fun c hc => ?_, h⟩
      rcases List.mem_cons.mp hc with rfl | hc
      · exact lt
      · exact Nat.lt_trans lt (hh.1 c hc)
    · split
      · rename_i ge e
        have e : k = a := by simpa using e
        exact e ▸ kvSorted_cons.mpr hh
      · rename_i ge ne
        have ne : k ≠ a := by simpa using ne
        refine kvSorted_cons.mpr ⟨fun c hc => ?_, ih hh.2⟩
        rcases kvInsert_mem c hc with rfl | hc
        · show a < k; omega
        · exact hh.1 c hc

/-- A byte put keeps the canonical form. -/
theorem wf_put {m : List Host.Cell} (h : Memory.wf m = true) (a : Nat) (b : Byte) : Memory.wf (kvPut 0 m a b) = true := by
  simp only [Memory.wf, Bool.and_eq_true, List.all_eq_true] at h ⊢
  by_cases e : b = 0
  · simp only [kvPut, e, if_true]
    exact ⟨kvErase_sorted h.1, fun c hc => h.2 c (kvErase_sub c hc)⟩
  · simp only [kvPut, e, if_false]
    refine ⟨kvInsert_sorted h.1, fun c hc => ?_⟩
    rcases kvInsert_mem c hc with rfl | hc
    · simpa using e
    · exact h.2 c hc

theorem wf_cellsWrite {m : List Host.Cell} (h : Memory.wf m = true) (a : Nat) (l : List Byte) : Memory.wf (cellsWrite m a l) = true := by
  induction l generalizing m a with
  | nil => exact h
  | cons b r ih => exact ih (wf_put h a b) (a + 1)

theorem wf_memWrite {s : State} (h : Memory.wf s.mem = true) (a : Nat) (l : List Byte) : Memory.wf (memWrite a l s).mem = true :=
  wf_cellsWrite h a l

theorem wf_gmemWrite {s : State} (h : Memory.wf s.gmem = true) (a : Nat) (l : List Byte) : Memory.wf (gmemWrite a l s).gmem = true :=
  wf_cellsWrite h a l

theorem reset_wf : Memory.wf State.reset.mem = true ∧ Memory.wf State.reset.gmem = true := by decide

/-! ## Bytes -/

/-- A byte of memory after a store: the stored byte within it, as before outside it. -/
theorem kvGet_cellsWrite (m : List Host.Cell) (a : Nat) (l : List Byte) (x : Nat) :
    kvGet 0 (cellsWrite m a l) x = if a ≤ x ∧ x < a + l.length then (l.drop (x - a)).headD 0 else kvGet 0 m x := by
  induction l generalizing m a with
  | nil => simp only [cellsWrite, List.length_nil]; rw [if_neg (by omega)]
  | cons b r ih =>
    simp only [cellsWrite, ih, List.length_cons]
    by_cases h : x = a
    · subst h
      rw [if_neg (by omega), if_pos (by omega), Nat.sub_self]
      exact kvGet_put_same 0 m x b
    · by_cases k : a ≤ x ∧ x < a + (r.length + 1)
      · rw [if_pos (by omega), if_pos k]
        have e : x - a = x - (a + 1) + 1 := by omega
        rw [e, List.drop_succ_cons]
      · rw [if_neg (by omega), if_neg k]
        simp only [kvGet]; rw [kvFind_put_ne 0 m b h]

theorem cellsRead_eq (m : List Host.Cell) (a n : Nat) : cellsRead m a n = (List.range n).map fun i => kvGet 0 m (a + i) := by
  induction n generalizing a with
  | zero => rfl
  | succ n ih =>
    rw [cellsRead, ih, List.range_succ_eq_map, List.map_cons, List.map_map]
    congr 1
    apply List.map_congr_left
    intro i _
    simp only [Function.comp]; congr 1; omega

/-! ## What a store of a unit leaves alone -/

/-- What a part of the block that only counts, logs, reports and raises leaves as it was. -/
structure Beside (s t : State) : Prop where
  member : t.member = s.member
  mem : t.mem = s.mem
  regq : t.regq = s.regq
  adm : t.adm = s.adm
  host : t.host = s.host
  held : t.roll.held = s.roll.held

theorem Beside.refl (s : State) : Beside s s := ⟨rfl, rfl, rfl, rfl, rfl, rfl⟩
theorem Beside.trans {s t u : State} (h : Beside s t) (k : Beside t u) : Beside s u :=
  ⟨k.1.trans h.1, k.2.trans h.2, k.3.trans h.3, k.4.trans h.4, k.5.trans h.5, k.6.trans h.6⟩

theorem Beside.fold {α : Type} {f : State → α → State} (h : ∀ s x, Beside s (f s x)) (l : List α) (s : State) : Beside s (l.foldl f s) := by
  induction l generalizing s with
  | nil => exact .refl s
  | cons x r ih => exact (h s x).trans (ih _)

variable (s : State)

theorem beside_wr (a : Nat) (v : W32) : Beside s (wr a v s) := ⟨rfl, rfl, rfl, rfl, rfl, rfl⟩
theorem beside_bump (a : Nat) : Beside s (bump a s) := beside_wr s ..
theorem beside_bumpWrap (a : Nat) : Beside s (bumpWrap a s) := beside_wr s ..
theorem beside_wrB (a n : Nat) (b : Bool) : Beside s (wrB a n b s) := beside_wr s ..
theorem beside_wrF (a hi lo v : Nat) : Beside s (wrF a hi lo v s) := beside_wr s ..
theorem beside_wr64 (a v : Nat) : Beside s (wr64 a v s) := (beside_wr s ..).trans (beside_wr ..)
theorem beside_gmem (a : Nat) (l : List Byte) : Beside s (gmemWrite a l s) := ⟨rfl, rfl, rfl, rfl, rfl, rfl⟩

theorem beside_emit (m : Msg) : Beside s (emit m s) := by
  unfold emit; split
  · exact .refl s
  · exact ⟨rfl, rfl, rfl, rfl, rfl, rfl⟩

theorem beside_setEvt (p i : Nat) : Beside s (setEvt p i s) := by
  unfold setEvt; split
  · exact .refl s
  · have k := beside_wrB s (hdr p Hdr.EVT_STAT) i true
    dsimp only
    split
    · split
      · exact k.trans ⟨rfl, rfl, rfl, rfl, rfl, rfl⟩
      · exact k
    · exact k

theorem beside_wrWords (l : List W32) (a : Nat) : Beside s (wrWords a l s) := by
  unfold wrWords
  suffices h : ∀ x : Nat × State, Beside x.2 (l.foldl (fun (x : Nat × State) w => (x.1 + 4, wr x.1 w x.2)) x).2 from h (a, s)
  induction l with
  | nil => exact fun x => .refl _
  | cons w r ih => exact fun x => (beside_wr x.2 x.1 w).trans (ih (x.1 + 4, wr x.1 w x.2))

theorem beside_logPut (h b : Nat) (e : List Byte) : Beside s (logPut h b e s) := by
  unfold logPut; dsimp only; split
  · exact beside_bump ..
  · exact (beside_wrWords s ..).trans (beside_bumpWrap ..)

theorem beside_ite {s t : State} {c : Prop} [Decidable c] (h : Beside s t) : Beside s (if c then t else s) := by
  split
  · exact h
  · exact .refl s

theorem beside_traceEvt (k u d : Nat) : Beside s (traceEvt k u d s) := by
  unfold traceEvt; extract_lets c; split
  · exact .refl s
  · split
    · exact Beside.trans (t := { s with trace := { s.trace with gap := true } }) ⟨rfl, rfl, rfl, rfl, rfl, rfl⟩ (beside_bump ..)
    · rename_i t1 t2 _ _
      have h1 : Beside s t1 := beside_gmem ..
      have h2 : Beside s t2 := (h1.trans (t := t1) (u := { t1 with trace := ⟨s.trace.edgeN + 1, false, s.trace.sinceEn + 1⟩ })
        ⟨rfl, rfl, rfl, rfl, rfl, rfl⟩).trans (beside_bumpWrap ..)
      exact h2.trans (beside_ite (beside_wrB ..))

theorem beside_pinAssert : Beside s (pinAssert s) := by
  unfold pinAssert; split
  · exact .refl s
  · dsimp only
    have k : Beside s (setEvt Pg.FAULT 1 (wr Rg.FAULT_PIN (w32 1) { s with safety := { s.safety with pinLines := 0 } })) :=
      Beside.trans (t := wr Rg.FAULT_PIN (w32 1) { s with safety := { s.safety with pinLines := 0 } })
        ⟨rfl, rfl, rfl, rfl, rfl, rfl⟩ (beside_setEvt ..)
    split
    · exact k
    · exact k.trans (beside_emit ..)

theorem beside_pinSafe : Beside s (pinSafe s) := Beside.fold (fun s _ => beside_wrB s ..) _ _

/-- A fault reported leaves memory and everything that waits as it was. -/
theorem beside_raiseFault (c p x y : Nat) : Beside s (raiseFault c p x y s) := by
  unfold raiseFault; extract_lets cls pinSet full t1 t2 t3 t4 t5 t6 t7
  have h1 : Beside s t1 := beside_logPut ..
  have h2 : Beside s t2 := h1.trans (by
    show Beside t1 (if full then setEvt Pg.FAULT 2 t1 else wrB (hdr p Hdr.BLK_STAT) 2 true t1)
    split
    · exact beside_setEvt ..
    · exact beside_wrB ..)
  have h4 : Beside s t4 := (h2.trans (beside_bump ..)).trans (beside_traceEvt ..)
  have h5 : Beside s t5 := h4.trans (beside_ite (beside_setEvt ..))
  have h6 : Beside s t6 := h5.trans (beside_ite (beside_wrB ..))
  have h7 : Beside s t7 := h6.trans (beside_ite (beside_pinAssert ..))
  exact h7.trans (beside_ite (beside_pinSafe ..))

theorem beside_reportErr (pa c : Nat) (scrub : Bool) : Beside s (reportErr pa c scrub s) := by
  unfold reportErr; extract_lets ue; split
  · rename_i k _; extract_lets b t1 t2 t3
    have h1 : Beside s t1 := beside_bump ..
    have h2 : Beside s t2 := (h1.trans (beside_wr ..)).trans (beside_wr ..)
    have h3 : Beside s t3 := h2.trans (beside_setEvt ..)
    exact h3.trans (beside_ite (beside_raiseFault ..))
  · rename_i t1 t2 t3 t4 _ _
    have h1 : Beside s t1 := beside_bump ..
    have h2 : Beside s t2 := (h1.trans (beside_wr64 ..)).trans (beside_wr ..)
    have h3 : Beside s t3 := h2.trans (beside_wr64 ..)
    have h4 : Beside s t4 := h3.trans (beside_setEvt ..)
    exact h4.trans (beside_ite (beside_raiseFault ..))

theorem beside_setMark (pa c : Nat) : Beside s (setMark pa c s) := ⟨rfl, rfl, rfl, rfl, rfl, rfl⟩

theorem beside_setPoison (pa : Nat) (b : Bool) : Beside s (setPoison pa b s) := ⟨rfl, rfl, rfl, rfl, rfl, rfl⟩

theorem beside_poisonWord (pa : Nat) : Beside s (poisonWord pa s) := by
  unfold poisonWord; split <;> exact ⟨rfl, rfl, rfl, rfl, rfl, rfl⟩

theorem beside_writeWord (u : State) (pa n w : Nat) : Beside s (writeWord u pa n w s) := by
  unfold writeWord; extract_lets c; split
  · exact beside_setMark ..
  · split
    · exact .refl s
    · split
      · exact (beside_reportErr ..).trans (beside_setMark ..)
      · exact (beside_reportErr ..).trans (beside_poisonWord ..)

theorem beside_writeErrs (pa n : Nat) : Beside s (writeErrs pa n s) := by
  unfold writeErrs; split
  · exact .refl s
  · refine (Beside.fold (fun t w => beside_writeWord t s ..) _ _).trans (Beside.fold (fun t p => ?_) _ _)
    exact beside_ite (beside_setPoison ..)

theorem beside_noteScratch (pa n : Nat) : Beside s (noteScratch pa n s) := by
  unfold noteScratch; split
  · exact ⟨rfl, rfl, rfl, rfl, rfl, rfl⟩
  · exact .refl s

theorem beside_noteStream (pa n : Nat) : Beside s (noteStream pa n s) := ⟨rfl, rfl, rfl, rfl, rfl, rfl⟩
theorem beside_freeBit : Beside s (freeBit s).2 := ⟨rfl, rfl, rfl, rfl, rfl, rfl⟩
theorem beside_freeVal : Beside s (freeVal s).2 := ⟨rfl, rfl, rfl, rfl, rfl, rfl⟩
theorem beside_staveBump (k n : Nat) : Beside s (staveBump k n s) := ⟨rfl, rfl, rfl, rfl, rfl, rfl⟩
theorem beside_putWvRule (r : Nat) (x : WvRule) : Beside s (putWvRule r x s) := ⟨rfl, rfl, rfl, rfl, rfl, rfl⟩
theorem beside_wvPassed (p : Nat) : Beside s (wvPassed p s) := ⟨rfl, rfl, rfl, rfl, rfl, rfl⟩

theorem beside_wvTrigger (r : Nat) : Beside s (wvTrigger r s) := by
  unfold wvTrigger; extract_lets x; split
  · exact .refl s
  · exact (beside_putWvRule s ..).trans (beside_wrB ..)

theorem beside_wvMatch (r h : Nat) (l : List Byte) : Beside s (wvMatch r h l s).2 := by
  unfold wvMatch; extract_lets o; split
  · exact beside_freeBit s
  · exact .refl s

theorem beside_wvWants (r : Nat) : Beside s (wvWants r s).2 := by
  unfold wvWants; extract_lets x rep; split
  · exact .refl s
  · exact beside_putWvRule ..

theorem beside_wvSee (r h : Nat) (l : List Byte) : Beside s (wvSee r h l s).2 := by
  unfold wvSee; extract_lets trig; split
  · have k := beside_wvMatch s r h l
    split; rename_i m t e
    rw [e] at k
    split
    · exact (k.trans (beside_wvTrigger ..)).trans (beside_wvWants ..)
    · exact k
  · refine Beside.trans ?_ (beside_wvWants ..)
    rename_i n src t u _
    have k : Beside s t := beside_putWvRule ..
    refine beside_ite ?_
    show Beside s (if _ then _ else _)
    split
    · exact k.trans (beside_wvTrigger ..)
    · exact k

theorem beside_wvCount (r : Nat) : Beside s (wvCount r s) := by
  unfold wvCount; extract_lets a x n
  split; rename_i m t e
  have h1 : Beside s t := by
    split at e
    · have k := beside_freeVal s; rw [e] at k; exact k
    · cases e; exact .refl s
  extract_lets t2 t3 t4 rep
  have h2 : Beside s t2 := (h1.trans (beside_wrF ..)).trans (beside_putWvRule ..)
  have h3 : Beside s t3 := ((h2.trans (beside_bump ..)).trans (beside_wrB ..)).trans (beside_setEvt ..)
  have h4 : Beside s t4 := h3.trans (beside_traceEvt ..)
  exact h4.trans (beside_ite (beside_wrB ..))

theorem beside_wvChoose (p h : Nat) (l : List Byte) : Beside s (wvChoose p h l s).2 := by
  unfold wvChoose
  suffices k : ∀ (rs : List Nat) (x : Option Nat × State), Beside x.2 (rs.foldl _ x).2 from k _ (none, s)
  intro rs
  induction rs with
  | nil => exact fun x => .refl _
  | cons r rs ih =>
    intro x; refine Beside.trans ?_ (ih _)
    dsimp only; split
    · have k := beside_wvSee x.2 r h l
      split
      · exact k
      · split
        · exact k.trans (beside_wvCount ..)
        · exact k.trans (beside_bump ..)
    · exact .refl _

/-- A unit of a link that no store can hold passes its Weevil point, dropped or not, with memory as it was. -/
theorem beside_wvPass_none (p h : Nat) (l : List Byte) : Beside s (wvPass p h l (fun _ => none) s).2 := by
  unfold wvPass; extract_lets stopped
  have k := beside_wvChoose s p h l
  split; rename_i go x r t e
  rw [e] at k
  have hg : ∀ (l : List Byte) (b : Bool) (u : State), Beside s u → Beside s (go l b u).2 := by
    intro l b u hu
    show Beside s (match (none : Option WvUnit), stopped with
      | some x, true => wvTryHold p x true 0 0 u
      | _, _ => (WvRes.pass l b, wvPassed p u)).2
    exact hu.trans (beside_wvPassed ..)
  split
  · exact hg _ _ _ k
  · extract_lets act arg
    split
    · exact k
    · split
      · split
        · exact hg _ _ _ (k.trans (beside_bump ..))
        · exact hg _ _ _ k
      · split
        · exact hg _ _ _ k
        · split
          · exact hg _ _ _ (k.trans ⟨rfl, rfl, rfl, rfl, rfl, rfl⟩)
          · exact hg _ _ _ k

theorem beside_countFlit (h : Nat) : Beside s (countFlit h s) := by
  unfold countFlit
  refine Beside.trans ?_ (beside_staveBump ..)
  have k := beside_wvPass_none s (if h == 0 then 0x40 else 0x41) 64 []
  split
  · rename_i e; rw [e] at k; exact k.trans (beside_bump ..)
  · rename_i e; rw [e] at k; exact k

theorem beside_countLookup (h c : Nat) (b : Bool) : Beside s (countLookup h c b s) := by
  unfold countLookup; extract_lets a t
  have k : Beside s t := (beside_bumpWrap ..).trans (beside_staveBump ..)
  split
  · exact (k.trans (beside_bumpWrap ..)).trans (beside_staveBump ..)
  · exact k

theorem beside_homeLookup (l h c : Nat) : Beside s (homeLookup l h c s) := by
  unfold homeLookup
  have k : Beside s (if kvGet false s.ms.touched l = true then freeBit s else (false, s)).2 := by
    split
    · exact beside_freeBit s
    · exact .refl s
  split; rename_i b t e
  rw [e] at k
  extract_lets u
  have k2 : Beside s u := k.trans (beside_countLookup ..)
  split
  · exact k2
  · exact k2.trans ⟨rfl, rfl, rfl, rfl, rfl, rfl⟩

theorem beside_lineWrite (h c pa : Nat) : Beside s (lineWrite h c pa s) := by
  unfold lineWrite; extract_lets l home t src u
  have k : Beside s t := by
    show Beside s (if home == h then s else _)
    split
    · exact .refl s
    · have k : Beside s (if kvGet false s.ms.far l = true then freeBit s else (false, s)).2 := by
        split
        · exact beside_freeBit s
        · exact .refl s
      split; rename_i b t e
      rw [e] at k
      exact (k.trans (beside_countLookup ..)).trans (beside_countFlit ..)
  have k2 : Beside s u := k.trans ⟨rfl, rfl, rfl, rfl, rfl, rfl⟩
  exact (k2.trans (beside_homeLookup ..)).trans ⟨rfl, rfl, rfl, rfl, rfl, rfl⟩

/-- What a store of a unit that its target can take does to memory, and what it leaves alone. -/
theorem homeWrite_beside {h c pa : Nat} {l : List Byte} (r : reaches s h pa = true) :
    (homeWrite h c pa l s).2.mem = cellsWrite s.mem pa l
      ∧ Beside s { (homeWrite h c pa l s).2 with mem := s.mem } := by
  unfold homeWrite
  rw [if_neg (by rw [r]; decide)]
  extract_lets t u src w
  have k1 : Beside s t := by
    show Beside s (match targetOf s.member pa with | .dram => _ | _ => s)
    split
    · exact Beside.fold (fun s x => beside_lineWrite s ..) _ _
    · exact .refl s
  have k2 : Beside s u := k1.trans (beside_writeErrs ..)
  have k3 : Beside s w := by
    show Beside s (if _ then _ else _)
    split
    · exact k2.trans ⟨rfl, rfl, rfl, rfl, rfl, rfl⟩
    · exact k2
  have k4 := (k3.trans (beside_noteStream w pa l.length)).trans (beside_noteScratch _ pa l.length)
  refine ⟨?_, ⟨k4.1, rfl, k4.3, k4.4, k4.5, k4.6⟩⟩
  show cellsWrite (noteScratch pa l.length (noteStream pa l.length w)).mem pa l = _
  rw [k4.2]

end Sys2Proof.Machine
end

