-- ==== Sys2Proof/Tests/Slice0.lean ====
section
/-! SUPPORT. Tests of the model, and for every statement with hypotheses a witness: a theorem that applies the statement
to a concrete state and concrete operands, on which every hypothesis of every clause is evaluated. -/
namespace Sys2Proof.Tests
open Sys2Proof Sys2Proof.Machine

set_option Elab.async false

/-! ## States for the witnesses -/

/-- A main hart's write of a whole word. -/
def hart : Req := { origin := 0x44 }

/-- The Guard die has power and the resets are high. -/
def guardOn : State :=
  { State.reset with boot := { State.reset.boot with powered := true, porstN := true } }

/-- No unit has power. -/
def unpowered : State := { State.reset with boot := { State.reset.boot with powered := false } }

/-- After S6, with the stave counter running. -/
def live : State :=
  wr Rg.BOOT_STAT 6 { guardOn with boot := { guardOn.boot with everS6 := true }, clk := { guardOn.clk with running := true, released := true } }

/-- With the host link up in L0. -/
def linked : State := wr Rg.HOST_LINK_STAT 0x400 live

/-- A state in a boot stage, with the counter running. -/
def inBoot (n : Nat) : State :=
  wr Rg.BOOT_STAT (w32 n) { guardOn with clk := { guardOn.clk with running := true } }

/-- An image of 256 bytes without segments, and its signature's place. -/
def emptyImage : List Byte :=
  [0x5A, 0x53, 0x42, 0x49, 1, 0, 0, 0, 0, 0, 0, 0, 0, 1, 0, 0] ++ List.replicate 336 0

/-- Boot stage S1 reading image slot A. -/
def inSlot : State := { inBoot 1 with boot := { (inBoot 1).boot with xspiRead := true } }

/-- Stage S5 with the straps of host download, a download in a state, and the link up. -/
def download (n : Nat) (l : List Byte) : State :=
  wr Rg.HOST_LINK_STAT 0x400 (wr Rg.BOOT_STRAP 4 { inBoot 5 with boot := { (inBoot 5).boot with dl := ⟨n, 352, 0, l⟩ } })

/-- A tuning record with no field set, unlocked and ready to be programmed; its CRC is that of R117, worked by hand. -/
def tuneReady : State :=
  wr Rg.TUNE_STAT 0x80 { live with boot := { live.boot with
    unlockEnd := some 1000000, buf := [(0, 0x3152545A), (1, 1), (255, 0xC7BC0829)] } }

/-- A half at 800 mV with a target of 850 mV, and a request sent or none. -/
def supplied (h : Nat) (req : Option Nat) : State :=
  { live with boot := { live.boot with avs := [(h, ⟨0, some 850, 800, req, 0⟩)] } }

/-- With a number of VFs enabled, beside the link. -/
def tenants (n : Nat) : State := wr Rg.SRIOV_VF_STAT (w32 (0x80 + n)) linked

/-- A score image in force has been written to. -/
def imageHit : State := { live with cantor := { live.cantor with imageWritten := true } }

/-- With the configuration of function 0, beside the link. -/
def withFn (c : FnCfg) : State := { linked with host := { linked.host with fns := [(0, c)] } }

/-- The link may sleep: the host has enabled L0s, L1 and its substates, and the idle times are set. -/
def sleepy : State := wr Rg.HOST_ASPM_IDLE 0x0101 (withFn { FnCfg.reset with aspm := 15 })

/-- Every channel of DRAM is enabled, beside the link. -/
def serving : State := (List.range 8).foldl (fun s c => wr (hdr (Pg.DRAMC + c) Hdr.BLK_CTRL) 1 s) linked

/-- A descriptor read of the host under way. -/
def waiting : Fetch := ⟨0, 0, 0, .waiting 0 0, false⟩

/-- Tenant 1 has a ring. -/
def tenantRing : State := wr (Rg.SRIOV_TEN_RINGS + 16) 0x10040 live

/-- Ring 0 is set up with queues of 16 entries, in a state, with its tail and the functions able to issue requests. -/
def ring0 (n : Nat) (tail : W32) : State :=
  wr Rg.RINGSTATE_SQ_TAIL tail (wr Rg.RINGSTATE_SIZE 0x0404 (wr Rg.RINGSTATE_STATE (w32 (n * 0x10000))
    (withFn { FnCfg.reset with bme := true })))

/-- An invocation of ring 0 whose fragment header has not arrived. -/
def invocation : Invoc :=
  ⟨0, 0, 0, 7, 0, false, 0, 0, 0, 0, 0, 0, [], 0, false, none, 0, 0, false, false, false, false, false, false, 0, 0, []⟩

/-- A source of the event controller that pends, is taken or rests, enabled and routed to hart 0. -/
def source (n : Nat) (x : EvSrc) : State :=
  wr (evCfgReg n) 0xFFFFFFFF { live with evc := { live.evc with src := [(n, x)] } }

/-- Pool 127 of two buffers, of which buffer 1 is free. -/
def pool1 : State :=
  wr (Rg.POOL_POOL_CFG + 4 * 127) 0x00200000 { live with pool := { live.pool with free := [(127, [1])] } }

/-- Context 0 maps its first GiB by one leaf: to DRAM from 0, or to the host's memory. -/
def mapped (hostPage : Bool) : State :=
  wr Rg.MMU_ROOT_LO 0x1001 { serving with
    mem := [(0x1000, 0x01), (0x1001, 0x20), (0x2000, 0x1F)] ++ (if hostPage then [(0x2001, 0x04)] else []) }

/-- An access of 8 bytes of DRAM ordered and not completed. -/
def ordered (kind : Nat) : Access := ⟨some ⟨0, 0, 0, 0, 0, 0, false⟩, kind, 0, 0, false, 8, 0, List.replicate 8 0, 0, false⟩

/-- Core 0 is live with a state of Cantor. -/
def withCantor (f : CantorSt → CantorSt) : State := { live with cantor := f live.cantor }

/-- A task of job 0 on core 0 that asks for nothing and may begin at once. -/
def plainTask : Wait := ⟨0, 0, false, 0, ⟨0, 0, 0, 0, 0, 0, 0, 0, 0, 0, 0, 1, 0, 0⟩, 0, 0, 0, 0, [], false, [], 0, none⟩

/-- A job of job slot 0 in half 0. -/
def job0 (kind span : Nat) : Job := ⟨kind, 0, 0, 0, 0, 0, false, 0, 0, 0, 0, span, 1, [0], 0, 0, 0, [], none, false, 0⟩

/-- Job 0 is an invocation of PF0, which is not a bus master. -/
def heldJob (s : State) : State := { s with cantor := { s.cantor with jobs := [(0, { job0 2 0 with inv := some invocation })] } }

/-- Channel 7 of DRAM is trained and scrubbed in passes of one stave, beside the link and every channel's enable. -/
def scrubbing : State :=
  wr (drReg Rg.DRAMC_STAT 7) 2 (wr (drReg Rg.DRAMC_SCRUB 7) 1 { serving with clk := { serving.clk with staves := 1 } })

/-- The Bridge is up. -/
def bridged : State := wr Rg.BRIDGE_STAT 1 live

/-- What LandsAt asks, evaluated. -/
def landsOk (q : Req) (pl : Place) (v : W32) (e : State) : Bool :=
  cmdOrigin q.origin
    && (match senderFn q pl with
        | none => true
        | some f => fnAnswers e f && linkState e == 0 && wvIdle e)
    && !replaying e
    && (e.resetting.find? fun x => some x.1 == (destOf e pl).pageKey).isNone && !pageHeld e (destOf e pl).pageKey
    && decide (e.roll.edgeN < 8) && (verdict e q (destOf e pl) v).isNone

theorem lands_of {q : Req} {pl : Place} {v : W32} {e : State} (h : landsOk q pl v e = true) : LandsAt q pl v e := by
  simp only [landsOk, Bool.and_eq_true, Bool.not_eq_true', decide_eq_true_eq, Option.isNone_iff_eq_none] at h
  obtain ⟨⟨⟨⟨⟨⟨a, b⟩, c⟩, d⟩, f⟩, g⟩, i⟩ := h
  refine ⟨a, ?_, c, d, f, g, i⟩
  intro x hx
  simp only [hx, Bool.and_eq_true, beq_iff_eq] at b
  exact ⟨b.1.1, b.1.2, b.2⟩

theorem pair {α β : Type} (x : α × β) : x = (x.1, x.2) := rfl

theorem translated {x : XRes × State} (p : XOut → State → Bool)
    (h : (match x.1 with | .ok o => p o x.2 | .flt _ => false) = true) : ∃ o t, x = (.ok o, t) ∧ p o t = true := by
  rcases x with ⟨o | f, t⟩
  · exact ⟨o, t, rfl, h⟩
  · cases h

theorem faulted {x : XRes × State} (h : (match x.1 with | .ok _ => false | .flt _ => true) = true) : ∃ f t, x = (.flt f, t) := by
  rcases x with ⟨o | f, t⟩
  · cases h
  · exact ⟨f, t, rfl⟩

theorem host_reaches {e : State} (h : (dlUp e && linkState e == 0 && wvIdle e && !replaying e && !recording e) = true) :
    HostReaches e := by
  simp only [Bool.and_eq_true, Bool.not_eq_true', beq_iff_eq] at h
  obtain ⟨⟨⟨⟨a, b⟩, c⟩, d⟩, f⟩ := h
  exact ⟨a, b, c, d, f⟩

theorem reads_at {o p off : Nat} {e : State} (h : (readReaches e o && o != 0x41 && readVisible e o p off false) = true) :
    ReadsAt o p off e := by
  simp only [Bool.and_eq_true, bne_iff_ne, ne_eq] at h
  exact ⟨h.1.1, fun x => absurd x h.1.2, h.2⟩

/-! ## A tuning record that may be programmed -/

theorem crc_append (c : Nat) (a b : List Byte) : crcMore 0xEDB88320 c (a ++ b) = crcMore 0xEDB88320 (crcMore 0xEDB88320 c a) b := by
  simp only [crcMore, List.foldl_append]

theorem crc_zeros {c d : Nat} (n : Nat) (h : crcMore 0xEDB88320 c (List.replicate 92 0) = d) :
    crcMore 0xEDB88320 c (List.replicate (92 + n) 0) = crcMore 0xEDB88320 d (List.replicate n 0) := by
  rw [← List.replicate_append_replicate, crc_append, h]

theorem crc_zero_record : crcMore 0xEDB88320 0xEC1A5D93 (List.replicate 1012 0) = 0x3843F7D6 := by
  rw [show (1012 : Nat) = 92 + 920 from rfl, crc_zeros (d := 0x92400347) 920 (by decide +kernel),
    show (920 : Nat) = 92 + 828 from rfl, crc_zeros (d := 0xD42CAA25) 828 (by decide +kernel),
    show (828 : Nat) = 92 + 736 from rfl, crc_zeros (d := 0xA949F0D3) 736 (by decide +kernel),
    show (736 : Nat) = 92 + 644 from rfl, crc_zeros (d := 0xEC028349) 644 (by decide +kernel),
    show (644 : Nat) = 92 + 552 from rfl, crc_zeros (d := 0x1FDB4462) 552 (by decide +kernel),
    show (552 : Nat) = 92 + 460 from rfl, crc_zeros (d := 0x49B66A5E) 460 (by decide +kernel),
    show (460 : Nat) = 92 + 368 from rfl, crc_zeros (d := 0x7571FF31) 368 (by decide +kernel),
    show (368 : Nat) = 92 + 276 from rfl, crc_zeros (d := 0x9904D73A) 276 (by decide +kernel),
    show (276 : Nat) = 92 + 184 from rfl, crc_zeros (d := 0x4E05B41B) 184 (by decide +kernel),
    show (184 : Nat) = 92 + 92 from rfl, crc_zeros (d := 0xE05A8827) 92 (by decide +kernel),
    show (92 : Nat) = 92 + 0 from rfl, crc_zeros (d := 0x3843F7D6) 0 (by decide +kernel)]
  rfl

theorem record_bytes : bufBytes (newEdge tuneReady)
    = [0x5A, 0x54, 0x52, 0x31, 1, 0, 0, 0] ++ List.replicate 1012 0 ++ [0x29, 0x08, 0xBC, 0xC7] := by decide +kernel

theorem commit_ready : commitOk (newEdge tuneReady) = true := by
  have c : recordOk (bufBytes (newEdge tuneReady)) = true := by
    have l : ([0x5A, 0x54, 0x52, 0x31, 1, 0, 0, 0] ++ List.replicate 1012 0 : List Byte).length = 0x3FC := by decide +kernel
    have k : crc32 ((bufBytes (newEdge tuneReady)).take 0x3FC) = 0xC7BC0829 := by
      rw [record_bytes, ← l, List.take_left', crc32, crcRefl, crc_append,
        show crcMore 0xEDB88320 0xFFFFFFFF [0x5A, 0x54, 0x52, 0x31, 1, 0, 0, 0] = 0xEC1A5D93 by decide +kernel, crc_zero_record]
      · decide
      · rfl
    rw [recordOk, k, record_bytes]
    decide +kernel
  rw [commitOk, c]
  decide +kernel

theorem commit_lands : Lands hart Rg.TUNE_COMMIT 1 (newEdge tuneReady) := by
  refine ⟨by decide, fun f h => absurd h (by simp [senderFn, hart]), by decide +kernel, by decide +kernel, by decide +kernel,
    by decide +kernel, ?_⟩
  have hd : pageDesc Pg.TUNE = some ⟨.tune, 0x3, 1, true, false, false, 0x7, 0x0, 3, 0, regsTune⟩ := by decide +kernel
  have hr : ((regNamed ⟨.tune, 0x3, 1, true, false, false, 0x7, 0x0, 3, 0, regsTune⟩ Pg.TUNE 0x4C false).any fun r =>
      regWritable (newEdge tuneReady) ⟨.tune, 0x3, 1, true, false, false, 0x7, 0x0, 3, 0, regsTune⟩ Pg.TUNE 0x4C false r) = true := by
    decide +kernel
  rw [Option.any_eq_true] at hr
  obtain ⟨r, hr, hw⟩ := hr
  have ht : (destOf (newEdge tuneReady) (.space Rg.TUNE_COMMIT)).tgt = .page Pg.TUNE 0x4C false := by decide +kernel
  have h1 : present (newEdge tuneReady).member Pg.TUNE = true := by decide +kernel
  have h2 : beforeS6 (newEdge tuneReady) = false := by decide +kernel
  have h3 : authorised (newEdge tuneReady) hart Pg.TUNE 0x4C false = true := by decide +kernel
  have h4 : rollHolds (newEdge tuneReady) = false := by decide +kernel
  have h5 : hart.origin = 0x44 := rfl
  have h6 : hart.be % 16 = 15 := rfl
  simp only [verdict, ht, pageVerdict, hd, hr, hw, h1, h2, h3, h4, h6, valueOk, commit_ready, rhOk, h5]
  simp [isShadow, ownerReg, isMain]
/-! ## Power, reset, bring-up and the tuning record -/

theorem witness_ResetCommandsEnd (h : Obligations.ResetCommandsEnd) :
    (∃ u, Ends .powerOn unpowered u) ∧ (∃ u, Ends .vddGrdLoss guardOn u)
    ∧ Sys2Proof.Machine.exec (.porstNRise 7) unpowered = .fault .powerSequence
    ∧ (∃ u, Ends (.porstNRise 7) { guardOn with boot := { guardOn.boot with porstN := false } } u)
    ∧ (∃ u, Ends (.porstNPulse 31 0) guardOn u) ∧ (∃ u, Ends (.porstNPulse 192 0) guardOn u)
    ∧ (∃ u, Ends (.porstNPulse 32 0) guardOn u) ∧ (∃ u, Ends (.porstNPulse 191 0) guardOn u)
    ∧ (∃ u, Ends (.warmNPulse 3) guardOn u) ∧ (∃ u, Ends (.warmNPulse 20) guardOn u)
    ∧ (∃ u, Ends (.warmNPulse 4) guardOn u) ∧ (∃ u, Ends (.warmNPulse 19) guardOn u)
    ∧ (∃ u, Ends (.guardResetCold hart 0) live u) ∧ (∃ u, Ends (.guardResetWarm hart 4) live u)
    ∧ (∃ u, Ends (.guardResetStave hart 0) live u) := by
  obtain ⟨p, g⟩ := h
  refine ⟨⟨_, (p unpowered _ 0 0 rfl).1 (by decide +kernel)⟩, ⟨_, (p guardOn _ 0 0 rfl).2.1 (by decide +kernel)⟩,
    (p unpowered _ 0 7 rfl).2.2.1 (by decide +kernel), ⟨_, (p _ _ 0 7 rfl).2.2.2.1 (by decide +kernel) (by decide +kernel)⟩,
    ⟨_, (p guardOn _ 31 0 rfl).2.2.2.2.1 (by decide +kernel) (by decide)⟩,
    ⟨_, (p guardOn _ 192 0 rfl).2.2.2.2.2.1 (by decide +kernel) (by decide)⟩,
    ⟨_, (p guardOn _ 32 0 rfl).2.2.2.2.2.2.1 (by decide +kernel) (by decide) (by decide)⟩,
    ⟨_, (p guardOn _ 191 0 rfl).2.2.2.2.2.2.1 (by decide +kernel) (by decide) (by decide)⟩,
    ⟨_, (p guardOn _ 3 0 rfl).2.2.2.2.2.2.2.1 (by decide +kernel) (by decide)⟩,
    ⟨_, (p guardOn _ 20 0 rfl).2.2.2.2.2.2.2.2.1 (by decide +kernel) (by decide)⟩,
    ⟨_, (p guardOn _ 4 0 rfl).2.2.2.2.2.2.2.2.2 (by decide +kernel) (by decide) (by decide)⟩,
    ⟨_, (p guardOn _ 19 0 rfl).2.2.2.2.2.2.2.2.2 (by decide +kernel) (by decide) (by decide)⟩,
    ⟨_, (g hart 0 live _ rfl).1 (lands_of (by decide +kernel))⟩,
    ⟨_, (g hart 4 live _ rfl).2.1 (lands_of (by decide +kernel)) (by decide +kernel)⟩,
    ⟨_, (g hart 0 live _ rfl).2.2 (lands_of (by decide +kernel)) (by decide +kernel) (by decide +kernel)⟩⟩

theorem witness_BootStagesEnd (h : Obligations.BootStagesEnd) :
    (∃ u, Ends (.imageSlotCheck emptyImage) inSlot u) ∧ (∃ u, Ends (.imageSlotCheck []) inSlot u) ∧ (∃ u, Ends .flashTimeout inSlot u)
    ∧ (∃ u, Ends (.bootStageTimeout 0x13 0) (inBoot 1) u) ∧ (∃ u, Ends (.bootStageTimeout 0x51 0) (inBoot 5) u)
    ∧ (∃ u, Ends (.tuneLoad false) (inBoot 2) u) ∧ (∃ u, Ends (.ddrTrainDone []) (inBoot 3) u)
    ∧ (∃ u, Ends .fabricInitDone (inBoot 4) u)
    ∧ (∃ u, Ends (.s5Complete 3 16) { inBoot 5 with boot := { (inBoot 5).boot with imageOk := true } } u)
    ∧ (∃ u, Ends .dlVerifyDone (download 2 emptyImage) u) ∧ (∃ u, Ends .dlVerifyDone (download 2 []) u)
    ∧ (∃ u, Ends .dlGo (download 1 []) u) ∧ (∃ u, Ends .dlRestart (download 4 []) u) ∧ (∃ u, Ends (.dlData 0) (download 0 []) u) := by
  obtain ⟨b, d⟩ := h
  refine ⟨⟨_, (b inSlot _ emptyImage [] 0 0 0 0 false rfl).1 (by decide +kernel) (by decide +kernel)⟩,
    ⟨_, (b inSlot _ [] [] 0 0 0 0 false rfl).2.1 (by decide +kernel) (by decide +kernel)⟩,
    ⟨_, (b inSlot _ [] [] 0 0 0 0 false rfl).2.2.1 (by decide +kernel)⟩,
    ⟨_, (b (inBoot 1) _ [] [] 0x13 0 0 0 false rfl).2.2.2.1 (by decide +kernel)⟩,
    ⟨_, (b (inBoot 5) _ [] [] 0x51 0 0 0 false rfl).2.2.2.1 (by decide +kernel)⟩,
    ⟨_, (b (inBoot 2) _ [] [] 0 0 0 0 false rfl).2.2.2.2.1 (by decide +kernel)⟩,
    ⟨_, (b (inBoot 3) _ [] [] 0 0 0 0 false rfl).2.2.2.2.2.1 (by decide +kernel)⟩,
    ⟨_, (b (inBoot 4) _ [] [] 0 0 0 0 false rfl).2.2.2.2.2.2.1 (by decide +kernel)⟩,
    ⟨_, (b _ _ [] [] 0 0 3 16 false rfl).2.2.2.2.2.2.2.1 (by decide +kernel) (by decide +kernel) (by decide +kernel)⟩,
    ⟨_, (b (download 2 emptyImage) _ [] [] 0 0 0 0 false rfl).2.2.2.2.2.2.2.2.1 (by decide +kernel) (by decide +kernel) (by decide +kernel)⟩,
    ⟨_, (b (download 2 []) _ [] [] 0 0 0 0 false rfl).2.2.2.2.2.2.2.2.2 (by decide +kernel) (by decide +kernel) (by decide +kernel)⟩,
    ⟨_, (d (download 1 []) _ 0 rfl (host_reaches (by decide +kernel)) (by decide +kernel)).1⟩,
    ⟨_, (d (download 4 []) _ 0 rfl (host_reaches (by decide +kernel)) (by decide +kernel)).2.1⟩,
    ⟨_, (d (download 0 []) _ 0 rfl (host_reaches (by decide +kernel)) (by decide +kernel)).2.2⟩⟩

theorem witness_OtpAndTuneEnd (h : Obligations.OtpAndTuneEnd) :
    (∃ u, Ends (.otpProg hart 0) live u)
    ∧ (∃ u, Ends .otpProgDone { live with boot := { live.boot with otpProg := some (50, 1) } } u)
    ∧ (∃ u, Ends (.tuneBufDataWrite hart 0xFFFFFFFF) live u) ∧ (∃ u, Ends (.tuneUnlock hart 0x5A53A11C) live u)
    ∧ (∃ u, Ends .tuneUnlockExpiry { live with boot := { live.boot with keyA := some 0 } } u)
    ∧ (∃ u, Ends (.tuneCommitGo hart 0) tuneReady u)
    ∧ (∃ u, Ends (.tuneProgDone true) (wr Rg.TUNE_STAT 8 live) u) ∧ (∃ u, Ends (.tuneRecDataRead 0x44) live u) := by
  refine ⟨⟨_, (h hart 0 live _ rfl).1 (lands_of (by decide +kernel))⟩,
    ⟨_, (h hart 0 _ _ rfl).2.1 50 1 rfl⟩,
    ⟨_, (h hart 0xFFFFFFFF live _ rfl).2.2.1 (lands_of (by decide +kernel))⟩,
    ⟨_, (h hart 0x5A53A11C live _ rfl).2.2.2.1 (lands_of (by decide +kernel))⟩,
    ⟨_, (h hart 0 _ _ rfl).2.2.2.2.1 (by decide +kernel)⟩,
    ⟨_, (h hart 0 tuneReady _ rfl).2.2.2.2.2.1 commit_lands⟩,
    ⟨_, (h hart 0 _ _ rfl).2.2.2.2.2.2.1 true (by decide +kernel)⟩,
    ⟨_, (h hart 0 live _ rfl).2.2.2.2.2.2.2 0x44 (reads_at (by decide +kernel))⟩⟩

theorem witness_ClocksAndSuppliesEnd (h : Obligations.ClocksAndSuppliesEnd) :
    (∃ u, Ends .xspiFirstRead { inBoot 1 with boot := { (inBoot 1).boot with xspiResetN := true } } u)
    ∧ (∃ u, Ends .rootLock (inBoot 1) u) ∧ (∃ u, Ends .rootLockTimeout (inBoot 1) u)
    ∧ (∃ u, Ends .dividerRelease (wr Rg.CLOCK_STAT 1 guardOn) u)
    ∧ (∃ u, Ends .hartClockSwitch { live with clk := { live.clk with beat := 1 } } u)
    ∧ (∃ u, Ends .lockLost (wr Rg.CLOCK_STAT 1 live) u) ∧ (∃ u, Ends (.xpllLost 2) (wr Rg.CLOCK_STAT 4 live) u)
    ∧ (∃ u, Ends (.xpllLost 5) (wr Rg.CLOCK_STAT 32 live) u) ∧ (∃ u, Ends (.refCheck 0) live u)
    ∧ (∃ u, Ends (.avsRequest 0) (supplied 0 none) u) ∧ (∃ u, Ends (.avsAck 1) (supplied 1 (some 825)) u)
    ∧ (∃ u, Ends (.avsRetry 0) (supplied 0 (some 825)) u) := by
  obtain ⟨c, a⟩ := h
  refine ⟨⟨_, (c _ _ 0 0 rfl).1 (by decide +kernel) (by decide +kernel) (by decide +kernel)⟩,
    ⟨_, (c (inBoot 1) _ 0 0 rfl).2.1 (by decide +kernel)⟩, ⟨_, (c (inBoot 1) _ 0 0 rfl).2.2.1 (by decide +kernel)⟩,
    ⟨_, (c (wr Rg.CLOCK_STAT 1 guardOn) _ 0 0 rfl).2.2.2.1 (by decide +kernel) (by decide +kernel) (by decide +kernel)⟩,
    ⟨_, (c _ _ 0 0 rfl).2.2.2.2.1 (by decide +kernel) (by decide +kernel) (by decide +kernel)⟩,
    ⟨_, (c (wr Rg.CLOCK_STAT 1 live) _ 0 0 rfl).2.2.2.2.2.1 (by decide +kernel)⟩,
    ⟨_, (c (wr Rg.CLOCK_STAT 4 live) _ 2 0 rfl).2.2.2.2.2.2.1 (by decide) (by decide) (by decide +kernel)⟩,
    ⟨_, (c (wr Rg.CLOCK_STAT 32 live) _ 5 0 rfl).2.2.2.2.2.2.1 (by decide) (by decide) (by decide +kernel)⟩,
    ⟨_, (c live _ 0 0 rfl).2.2.2.2.2.2.2 (by decide +kernel)⟩,
    ⟨_, (a (supplied 0 none) _ 0 _ rfl rfl).1 850 _ (by decide +kernel) (by decide +kernel) rfl⟩,
    ⟨_, (a (supplied 1 (some 825)) _ 1 _ rfl rfl).2.1 825 (by decide +kernel)⟩,
    ⟨_, (a (supplied 0 (some 825)) _ 0 _ rfl rfl).2.2 825 (by decide +kernel) (by decide +kernel)⟩⟩

/-! ## Stave time, register pages and the change roll -/

/-- The descriptor of a page that is listed. -/
def descOf (p : Nat) (h : (pageDesc p).isSome = true) : PageDesc := (pageDesc p).get h

theorem descOf_eq {p : Nat} (h : (pageDesc p).isSome = true) : pageDesc p = some (descOf p h) := (Option.some_get h).symm

theorem witness_StaveRowsEnd (h : Obligations.StaveRowsEnd) :
    (∃ u, Ends (.lineBoundary []) { live with clk := { live.clk with line := 1248 } } u)
    ∧ (∃ u, Ends (.staveBoundary []) { live with clk := { live.clk with line := 1249 } } u)
    ∧ Sys2Proof.Machine.exec (.lineBoundary []) imageHit = .fault .imageWritten
    ∧ Sys2Proof.Machine.exec (.staveBoundary []) imageHit = .fault .imageWritten
    ∧ (∃ u, Ends (.snumLoadArm hart 0) live u) ∧ (∃ u, Ends (.head1DivWrite hart 16) live u)
    ∧ (∃ u, Ends (.nowLoRead 0x44 false) live u) ∧ (∃ u, Ends (.nowLoRead 1 true) (tenants 64) u)
    ∧ (∃ u, Ends (.nowLoRead 64 true) (tenants 64) u) := by
  obtain ⟨b, t⟩ := h
  refine ⟨⟨_, (b _ _ [] rfl).1 (by decide +kernel) (by decide +kernel) (by decide +kernel)⟩,
    ⟨_, (b _ _ [] rfl).2.1 (by decide +kernel) (by decide +kernel) (by decide +kernel)⟩,
    (b _ _ [] rfl).2.2.1 (by decide +kernel), (b _ _ [] rfl).2.2.2 (by decide +kernel),
    ⟨_, (t hart 0 live _ 0 0 rfl).1 (lands_of (by decide +kernel))⟩,
    ⟨_, (t hart 16 live _ 0 0 rfl).2.1 _ rfl (lands_of (by decide +kernel))⟩,
    ⟨_, (t hart 0 live _ 0x44 0 rfl).2.2.1 (reads_at (by decide +kernel))⟩,
    ⟨_, (t hart 0 (tenants 64) _ 0 1 rfl).2.2.2 (by decide) (by decide) (by decide +kernel) (by decide +kernel) (by decide +kernel)⟩,
    ⟨_, (t hart 0 (tenants 64) _ 0 64 rfl).2.2.2 (by decide) (by decide) (by decide +kernel) (by decide +kernel) (by decide +kernel)⟩⟩

theorem witness_PageRowsEnd (h : Obligations.PageRowsEnd) :
    (∃ u, Ends (.registerWrite hart (.space Rg.ROLL_CTRL) 1) live u) ∧ (∃ u, Ends (.registerWrite hart (.cfg 0 0x34) 0) linked u)
    ∧ (∃ u, Ends (.registerWrite hart (.msix 0 0) 0) linked u) ∧ (∃ u, Ends (.pageOwnerWrite hart Pg.EVCSRC 0x47) live u)
    ∧ (∃ u, Ends (.pageWmaskWrite hart 0x1FF 0x7F) live u) ∧ (∃ u, Ends (.evtSetWrite hart 1 0xFFFFFFFF) live u)
    ∧ (∃ u, Ends (.stageDiscard hart Pg.STREAMGRP 0) live u) ∧ (∃ u, Ends (.softReset hart Pg.EVCSRC 0) live u)
    ∧ (∃ u, Ends (.blockResetDone Pg.EVC) { live with resetting := [(Pg.EVC, [])] } u) ∧ (∃ u, Ends .rollHeldWrite live u) := by
  obtain ⟨r, g⟩ := h
  refine ⟨⟨_, (r hart 1 live _ Rg.ROLL_CTRL Pg.ROLL 0x40 0 false (descOf Pg.ROLL (by decide +kernel))
      ((regNamed (descOf Pg.ROLL (by decide +kernel)) Pg.ROLL 0x40 false).get (by decide +kernel)) rfl).1 (lands_of (by decide +kernel))
      (by decide +kernel) (descOf_eq _) (Option.some_get _).symm⟩,
    ⟨_, (r hart 0 linked _ 0x34 0 0 0 false (descOf Pg.EVC (by decide +kernel)) ⟨0, 1, 4, false, none, []⟩ rfl).2.1 (host_reaches (by decide +kernel)) rfl⟩,
    ⟨_, (r hart 0 linked _ 0 0 0 0 false (descOf Pg.EVC (by decide +kernel)) ⟨0, 1, 4, false, none, []⟩ rfl).2.2 (host_reaches (by decide +kernel)) rfl⟩,
    ⟨_, (g hart 0x47 live _ Pg.EVCSRC (descOf Pg.EVCSRC (by decide +kernel)) _ rfl (by decide) (descOf_eq _) rfl).1 _ _ rfl rfl (lands_of (by decide +kernel))⟩,
    ⟨_, (g hart 0x7F live _ 0x1FF (descOf 0x1FF (by decide +kernel)) _ rfl (by decide) (descOf_eq _) rfl).2.1 _ _ rfl rfl (lands_of (by decide +kernel))⟩,
    ⟨_, (g hart 0xFFFFFFFF live _ 1 (descOf 1 (by decide +kernel)) _ rfl (by decide) (descOf_eq _) rfl).2.2.1 _ _ rfl rfl (lands_of (by decide +kernel))⟩,
    ⟨_, (g hart 0 live _ Pg.STREAMGRP (descOf Pg.STREAMGRP (by decide +kernel)) _ rfl (by decide) (descOf_eq _) rfl).2.2.2.1 _ _ rfl rfl (by decide +kernel) (lands_of (by decide +kernel))⟩,
    ⟨_, (g hart 0 live _ Pg.EVCSRC (descOf Pg.EVCSRC (by decide +kernel)) _ rfl (by decide) (descOf_eq _) rfl).2.2.2.2.1 _ _ rfl rfl (lands_of (by decide +kernel))⟩,
    ⟨_, (g hart 0 _ _ Pg.EVC (descOf Pg.EVC (by decide +kernel)) _ rfl (by decide) (descOf_eq _) rfl).2.2.2.2.2.1 (by decide +kernel)⟩,
    ⟨_, (g hart 0 live _ Pg.EVC (descOf Pg.EVC (by decide +kernel)) _ rfl (by decide) (descOf_eq _) rfl).2.2.2.2.2.2⟩⟩

theorem witness_RollAndLockRowsEnd (h : Obligations.RollAndLockRowsEnd) :
    (∃ u, Ends (.guardHdrLock hart 0) live u) ∧ (∃ u, Ends (.allHdrLock hart 0) live u) ∧ (∃ u, Ends (.rollModeWrite hart 1) live u)
    ∧ (∃ u, Ends (.rollTailWrite hart 0) live u) ∧ (∃ u, Ends (.rollRdSeqWrite hart 0xFFFFFFFF) live u)
    ∧ (∃ u, Ends (.rollRdData0Read 0x44 true) live u) ∧ (∃ u, Ends (.rollRdData7Read 0x44) live u) := by
  refine ⟨⟨_, (h hart 0 live _ _ 0 false rfl).1 rfl (lands_of (by decide +kernel))⟩,
    ⟨_, (h hart 0 live _ _ 0 false rfl).2.1 rfl (lands_of (by decide +kernel))⟩,
    ⟨_, (h hart 1 live _ live 0 false rfl).2.2.1 (lands_of (by decide +kernel))⟩,
    ⟨_, (h hart 0 live _ live 0 false rfl).2.2.2.1 _ rfl (lands_of (by decide +kernel))⟩,
    ⟨_, (h hart 0xFFFFFFFF live _ live 0 false rfl).2.2.2.2.1 (lands_of (by decide +kernel))⟩,
    ⟨_, (h hart 0 live _ live 0x44 true rfl).2.2.2.2.2.1 (reads_at (by decide +kernel))⟩,
    ⟨_, (h hart 0 live _ live 0x44 false rfl).2.2.2.2.2.2 (reads_at (by decide +kernel))⟩⟩

/-! ## The host link and tenants -/

theorem witness_HostLinkEventsEnd (h : Obligations.HostLinkEventsEnd) :
    (∃ u, Ends (.pcieLinkUp 4 16) (wr Rg.BOOT_STAT 5 live) u) ∧ (∃ u, Ends .pcieLinkDown linked u) ∧ (∃ u, Ends .pcieHotReset linked u)
    ∧ (∃ u, Ends (.pciePerst true) live u) ∧ (∃ u, Ends (.pciePerst false) (wr Rg.BOOT_STAT 5 live) u)
    ∧ (∃ u, Ends (.pciePerst false) (inBoot 4) u) ∧ (∃ u, Ends (.pcieSpeedChange 1 0) linked u)
    ∧ (∃ u, Ends (.pcieSpeedChange 0 1) linked u)
    ∧ (∃ u, Ends .aspmL0sEntry sleepy u) ∧ (∃ u, Ends .aspmL1Entry sleepy u) ∧ (∃ u, Ends .pmeTurnOff linked u)
    ∧ (∃ u, Ends .msixAfterL0 (wrF Rg.HOST_LINK_STAT 13 11 4 linked) u) := by
  refine ⟨⟨_, (h (wr Rg.BOOT_STAT 5 live) _ 4 16 rfl (by decide +kernel) (by decide +kernel)).1 (by decide +kernel)⟩,
    ⟨_, (h linked _ 0 0 rfl (by decide +kernel) (by decide +kernel)).2.1 (by decide +kernel)⟩,
    ⟨_, (h linked _ 0 0 rfl (by decide +kernel) (by decide +kernel)).2.2.1 (by decide +kernel)⟩,
    ⟨_, (h live _ 0 0 rfl (by decide +kernel) (by decide +kernel)).2.2.2.1⟩,
    ⟨_, (h (wr Rg.BOOT_STAT 5 live) _ 0 0 rfl (by decide +kernel) (by decide +kernel)).2.2.2.2.1 (by decide +kernel)⟩,
    ⟨_, (h (inBoot 4) _ 0 0 rfl (by decide +kernel) (by decide +kernel)).2.2.2.2.2.1 (by decide +kernel) (by decide +kernel)⟩,
    ⟨_, (h linked _ 1 0 rfl (by decide +kernel) (by decide +kernel)).2.2.2.2.2.2.1 (by decide +kernel) (by decide +kernel)⟩,
    ⟨_, (h linked _ 0 1 rfl (by decide +kernel) (by decide +kernel)).2.2.2.2.2.2.1 (by decide +kernel) (by decide +kernel)⟩,
    ⟨_, (h sleepy _ 0 0 rfl (by decide +kernel) (by decide +kernel)).2.2.2.2.2.2.2.1 (by decide +kernel) (by decide +kernel) (by decide +kernel) (by decide +kernel)⟩,
    ⟨_, (h sleepy _ 0 0 rfl (by decide +kernel) (by decide +kernel)).2.2.2.2.2.2.2.2.1 (by decide +kernel) (by decide +kernel) (by decide +kernel) (by decide +kernel) _ rfl⟩,
    ⟨_, (h linked _ 0 0 rfl (by decide +kernel) (by decide +kernel)).2.2.2.2.2.2.2.2.2.1 (by decide +kernel)⟩,
    ⟨_, (h _ _ 0 0 rfl (by decide +kernel) (by decide +kernel)).2.2.2.2.2.2.2.2.2.2 (by decide +kernel) (by decide +kernel)⟩⟩

theorem witness_FunctionEventsEnd (h : Obligations.FunctionEventsEnd) :
    (∃ u, Ends (.vfFlr 64) (tenants 64) u) ∧ (∃ u, Ends .vfEnableClear (tenants 64) u) ∧ (∃ u, Ends .vfEnableSet linked u)
    ∧ (∃ u, Ends (.numvfsWrite 64) linked u) ∧ (∃ u, Ends .pf0Flr linked u) ∧ (∃ u, Ends (.pmcsrD3hot 0) linked u)
    ∧ (∃ u, Ends (.pmcsrD0 0) (withFn { FnCfg.reset with d3 := true }) u) ∧ (∃ u, Ends (.bmeClear 0) (withFn { FnCfg.reset with bme := true }) u)
    ∧ (∃ u, Ends (.bmeSet 0) linked u) ∧ (∃ u, Ends (.msixUnmask 0 0) linked u) ∧ (∃ u, Ends (.msixUnmask 64 3) linked u) := by
  refine ⟨⟨_, (h (tenants 64) _ 64 0 0 0 rfl (host_reaches (by decide +kernel))).1 (by decide) (by decide +kernel)⟩,
    ⟨_, (h (tenants 64) _ 0 0 0 0 rfl (host_reaches (by decide +kernel))).2.1 (by decide +kernel)⟩,
    ⟨_, (h linked _ 0 0 0 0 rfl (host_reaches (by decide +kernel))).2.2.1 (by decide +kernel)⟩,
    ⟨_, (h linked _ 0 0 64 0 rfl (host_reaches (by decide +kernel))).2.2.2.1 (by decide +kernel) (by decide)⟩,
    ⟨_, (h linked _ 0 0 0 0 rfl (host_reaches (by decide +kernel))).2.2.2.2.1⟩,
    ⟨_, (h linked _ 0 0 0 0 rfl (host_reaches (by decide +kernel))).2.2.2.2.2.1 (by decide +kernel)⟩,
    ⟨_, (h _ _ 0 0 0 0 rfl (host_reaches (by decide +kernel))).2.2.2.2.2.2.1 (by decide +kernel)⟩,
    ⟨_, (h _ _ 0 0 0 0 rfl (host_reaches (by decide +kernel))).2.2.2.2.2.2.2.1 (by decide +kernel)⟩,
    ⟨_, (h linked _ 0 0 0 0 rfl (host_reaches (by decide +kernel))).2.2.2.2.2.2.2.2.1 (by decide +kernel)⟩,
    ⟨_, (h linked _ 0 0 0 0 rfl (host_reaches (by decide +kernel))).2.2.2.2.2.2.2.2.2 (by decide +kernel) (by decide +kernel) (by decide +kernel)⟩,
    ⟨_, (h linked _ 0 64 0 3 rfl (host_reaches (by decide +kernel))).2.2.2.2.2.2.2.2.2 (by decide +kernel) (by decide +kernel) (by decide +kernel)⟩⟩

theorem witness_HostDataEnds (h : Obligations.HostDataEnds) :
    (∃ u, Ends (.hostReadFailure 0) { linked with adm := { linked.adm with fetches := [waiting] } } u) ∧ (∃ u, Ends .poisonedWriteDrop linked u)
    ∧ (∃ u, Ends (.windowAccess 0x0FFFFFC0 0 (some (List.replicate 64 1))) serving u) ∧ (∃ u, Ends (.windowAccess 0 1 none) serving u)
    ∧ (∃ u, Ends (.windowAccess 0x0FFFFFFF 0 (some [1, 1])) (wr Rg.HOST_WIN_BASE 0x7F serving) u) ∧ (∃ u, Ends (.hostNpOutRead 0x44) live u) := by
  refine ⟨⟨_, (h _ _ 0 0 0 0 [] rfl).1 waiting (by decide +kernel)⟩, ⟨_, (h linked _ 0 0 0 0 [] rfl).2.1 (by decide +kernel)⟩,
    ⟨_, (h serving _ 0 0x0FFFFFC0 0 0 (List.replicate 64 1) rfl).2.2.1 _ rfl (host_reaches (by decide +kernel)) (by decide) (by decide +kernel)
      (by decide) (by decide +kernel) (by decide +kernel)⟩,
    ⟨_, (h serving _ 0 0 1 0 [] rfl).2.2.2.1 _ rfl (host_reaches (by decide +kernel)) (by decide) (by decide +kernel)
      (by decide) (by decide +kernel) (by decide +kernel)⟩,
    ⟨_, (h (wr Rg.HOST_WIN_BASE 0x7F serving) _ 0 0x0FFFFFFF 0 0 [1, 1] rfl).2.2.2.2.1 _ rfl (host_reaches (by decide +kernel)) (by decide) (by decide +kernel)
      (by decide) (by decide +kernel)⟩,
    ⟨_, (h live _ 0 0 0 0x44 [] rfl).2.2.2.2.2 (reads_at (by decide +kernel))⟩⟩

theorem witness_TenantRowsEnd (h : Obligations.TenantRowsEnd) :
    (∃ u, Ends (.tenRingsWrite hart 64 0) live u) ∧ (∃ u, Ends (.tenGuarWrite hart 0 0) live u) ∧ (∃ u, Ends (.tenCeilWrite hart 64 0x3FFFFF) live u)
    ∧ (∃ u, Ends (.tenEnable hart 1 0) tenantRing u) ∧ (∃ u, Ends (.tenDisable hart 0 0) live u) ∧ (∃ u, Ends (.tenPrioWrite hart 64 7) live u)
    ∧ (∃ u, Ends (.jobQuotaWrite hart 64 0x1FFF0) live u) ∧ (∃ u, Ends (.tenantMbox { origin := 64 } 64 3) (tenants 64) u) := by
  refine ⟨⟨_, (h hart 0 live _ 64 rfl (by decide)).1 _ _ rfl rfl (lands_of (by decide +kernel))⟩,
    ⟨_, (h hart 0 live _ 0 rfl (by decide)).2.1 _ _ rfl rfl (lands_of (by decide +kernel))⟩,
    ⟨_, (h hart 0x3FFFFF live _ 64 rfl (by decide)).2.2.1 _ _ rfl rfl (lands_of (by decide +kernel))⟩,
    ⟨_, (h hart 0 tenantRing _ 1 rfl (by decide)).2.2.2.1 _ _ _ _ _ _ (.head _) rfl rfl rfl rfl (lands_of (by decide +kernel))⟩,
    ⟨_, (h hart 0 live _ 0 rfl (by decide)).2.2.2.1 _ _ _ _ _ _ (.tail _ (.head _)) rfl rfl rfl rfl (lands_of (by decide +kernel))⟩,
    ⟨_, (h hart 7 live _ 64 rfl (by decide)).2.2.2.1 _ _ _ _ _ _ (.tail _ (.tail _ (.head _))) rfl rfl rfl rfl (lands_of (by decide +kernel))⟩,
    ⟨_, (h hart 0x1FFF0 live _ 64 rfl (by decide)).2.2.2.1 _ _ _ _ _ _ (.tail _ (.tail _ (.tail _ (.head _)))) rfl rfl rfl rfl (lands_of (by decide +kernel))⟩,
    ⟨_, (h { origin := 64 } 3 (tenants 64) _ 64 rfl (by decide)).2.2.2.2 (by decide) rfl (lands_of (by decide +kernel))⟩⟩

/-! ## Rings, pools and the event controller -/

theorem witness_RingWritesEnd (h : Obligations.RingWritesEnd) :
    (∃ u, Ends (.ringEnable hart 0 0) (ring0 0 0) u) ∧ (∃ u, Ends (.ringDisable hart 16383 0) live u)
    ∧ (∃ u, Ends (.ringReset hart 0 0) live u) ∧ (∃ u, Ends (.ringVectorWrite hart 16383 0x1FF00) live u)
    ∧ (∃ u, Ends (.modWrite hart 16383 0x4BFF) live u) ∧ (∃ u, Ends (.sqTailDoorbell hart (.space 0x200000) 16 none) (ring0 1 0) u)
    ∧ (∃ u, Ends (.cqHeadDoorbell hart (.space 0x200004) 0) (ring0 1 0) u)
    ∧ (∃ u, Ends (.sqTailDoorbell { hart with be := 255 } (.space 0x200000) 0 (some 0)) (ring0 1 0) u) := by
  obtain ⟨r, d⟩ := h
  refine ⟨⟨_, (r hart 0 (ring0 0 0) _ 0 rfl (by decide)).1 _ _ _ _ _ _ _ (.head _) rfl rfl rfl rfl rfl (lands_of (by decide +kernel))⟩,
    ⟨_, (r hart 0 live _ 16383 rfl (by decide)).1 _ _ _ _ _ _ _ (.tail _ (.head _)) rfl rfl rfl rfl rfl (lands_of (by decide +kernel))⟩,
    ⟨_, (r hart 0 live _ 0 rfl (by decide)).1 _ _ _ _ _ _ _ (.tail _ (.tail _ (.head _))) rfl rfl rfl rfl rfl (lands_of (by decide +kernel))⟩,
    ⟨_, (r hart 0x1FF00 live _ 16383 rfl (by decide)).1 _ _ _ _ _ _ _ (.tail _ (.tail _ (.tail _ (.head _)))) rfl rfl rfl rfl rfl (lands_of (by decide +kernel))⟩,
    ⟨_, (r hart 0x4BFF live _ 16383 rfl (by decide)).2 _ _ rfl rfl (lands_of (by decide +kernel))⟩,
    ⟨_, (d hart 16 0 (ring0 1 0) _ (.space 0x200000) 0 rfl).1 (by decide +kernel) (lands_of (by decide +kernel))⟩,
    ⟨_, (d hart 0 0 (ring0 1 0) _ (.space 0x200004) 0 rfl).2.1 (by decide +kernel) (lands_of (by decide +kernel))⟩,
    ⟨_, (d { hart with be := 255 } 0 0 (ring0 1 0) _ (.space 0x200000) 0 rfl).2.2 0 (by decide +kernel) (by decide +kernel)
      (fun f hf => absurd hf (by simp [senderFn, hart])) (by decide +kernel) (by decide +kernel)⟩⟩

theorem witness_RingEngineEventsEnd (h : Obligations.RingEngineEventsEnd) :
    (∃ u, Ends (.ringResetDone 0) (ring0 3 0) u) ∧ (∃ u, Ends (.descriptorFetch 0) (ring0 1 1) u)
    ∧ (∃ u, Ends (.descriptorArrival 0 (.bytes (List.replicate 64 0))) { ring0 1 1 with adm := { (ring0 1 1).adm with fetches := [waiting] } } u)
    ∧ (∃ u, Ends (.descriptorArrival 0 .failed) { ring0 1 1 with adm := { (ring0 1 1).adm with fetches := [waiting] } } u)
    ∧ (∃ u, Ends (.fragmentHeaderArrival 0 7 (.bytes [])) { ring0 1 1 with adm := { (ring0 1 1).adm with queued := [(0, [invocation])] } } u)
    ∧ (∃ u, Ends (.modExpiry 0) { live with adm := { live.adm with mods := [(0, { ModSt.reset with open_ := true })] } } u) := by
  refine ⟨⟨_, (h (ring0 3 0) _ _ 0 0 .failed [] rfl rfl).1 (by decide +kernel) (by decide +kernel)⟩,
    ⟨_, (h (ring0 1 1) _ _ 0 0 .failed [] rfl rfl).2.1 (by decide +kernel)⟩,
    ⟨_, (h _ _ _ 0 0 (.bytes (List.replicate 64 0)) (List.replicate 64 0) rfl rfl).2.2.1 waiting 0 0 _ (by decide) (by decide +kernel) rfl rfl (by decide +kernel) rfl⟩,
    ⟨_, (h _ _ _ 0 0 .failed [] rfl rfl).2.2.2.1 waiting (by decide) (by decide +kernel)⟩,
    ⟨_, (h _ _ _ 0 7 (.bytes []) [] rfl rfl).2.2.2.2.1 invocation (by decide) (by decide +kernel)⟩,
    ⟨_, (h _ _ _ 0 0 .failed [] rfl rfl).2.2.2.2.2.2.2 (by decide +kernel)⟩⟩

theorem witness_PoolRowsEnd (h : Obligations.PoolRowsEnd) :
    (∃ u, Ends (.poolAlloc 31 127) pool1 u) ∧ (∃ u, Ends (.poolFree 127 0) pool1 u) ∧ (∃ u, Ends (.poolFree 127 0xF000) pool1 u)
    ∧ (∃ u, Ends (.poolFree 127 2) pool1 u) ∧ (∃ u, Ends (.poolFree 127 1) pool1 u)
    ∧ (∃ u, Ends (.poolSwReq hart 0x7F) live u) ∧ (∃ u, Ends (.poolSwFree hart 0) live u) := by
  refine ⟨⟨_, (h hart 0 pool1 _ 31 127 0 rfl).1 (by decide) (by decide)⟩,
    ⟨_, (h hart 0 pool1 _ 0 127 0 rfl).2.1 (by decide) (by decide +kernel) (by decide +kernel) (by decide +kernel)⟩,
    ⟨_, (h hart 0 pool1 _ 0 127 0xF000 rfl).2.2.1 (by decide) (by decide +kernel)⟩,
    ⟨_, (h hart 0 pool1 _ 0 127 2 rfl).2.2.2.1 (by decide) (by decide +kernel) (by decide +kernel)⟩,
    ⟨_, (h hart 0 pool1 _ 0 127 1 rfl).2.2.2.1 (by decide) (by decide +kernel) (by decide +kernel)⟩,
    ⟨_, (h hart 0x7F live _ 0 0 0 rfl).2.2.2.2.1 (lands_of (by decide +kernel))⟩,
    ⟨_, (h hart 0 live _ 0 0 0 rfl).2.2.2.2.2 (lands_of (by decide +kernel))⟩⟩

theorem witness_EventControllerRowsEnd (h : Obligations.EventControllerRowsEnd) :
    (∃ u, Ends (.evcDoorbell hart 0xFFF) live u) ∧ (∃ u, Ends (.evcRaise 0 true) { live with evc := { live.evc with inflight := [4095] } } u)
    ∧ (∃ u, Ends .evcRaiseHeld { live with evc := { live.evc with held := [7, 3] } } u) ∧ (∃ u, Ends (.fwdCommit 63) (wr (Rg.EVC_FWD + 252) 0x40000000 live) u)
    ∧ (∃ u, Ends (.evcClaim 0x44) (source 4095 ⟨true, 0, false, 0, 0, true⟩) u)
    ∧ (∃ u, Ends (.evcComplete hart 0xFFF) (source 4095 ⟨false, 0, true, 0, 0, true⟩) u)
    ∧ (∃ u, Ends (.evcPendSet hart 127 0xFFFFFFFF) live u) ∧ (∃ u, Ends (.evcPendClear hart 127 0xFFFFFFFF) live u)
    ∧ (∃ u, Ends (.evcCfgWrite hart 2047 0xFFFFFFFF) live u) := by
  refine ⟨⟨_, (h hart 0xFFF live _ _ 0 0 0 0 false rfl rfl).1 (lands_of (by decide +kernel))⟩,
    ⟨_, (h hart 0 _ _ _ 0 0 0 4095 true rfl rfl).2.1 (by decide +kernel)⟩,
    ⟨_, (h hart 0 _ _ _ 0 0 0 0 false rfl rfl).2.2.1 7 [3] (by decide +kernel)⟩,
    ⟨_, (h hart 0 (wr (Rg.EVC_FWD + 252) 0x40000000 live) _ _ 63 0 0 0 false rfl rfl).2.2.2.1 _ rfl (by decide) (by decide +kernel)⟩,
    ⟨_, (h hart 0 (source 4095 ⟨true, 0, false, 0, 0, true⟩) _ _ 0 0 0x44 4095 false rfl rfl).2.2.2.2.1 0 _ (reads_at (by decide +kernel)) rfl (by decide)
      (by decide +kernel) rfl⟩,
    ⟨_, (h hart 0xFFF (source 4095 ⟨false, 0, true, 0, 0, true⟩) _ _ 0 0 0 0 false rfl rfl).2.2.2.2.2.1 (lands_of (by decide +kernel)) (by decide +kernel)⟩,
    ⟨_, (h hart 0xFFFFFFFF live _ _ 0 127 0 0 false rfl rfl).2.2.2.2.2.2.1 _ rfl (by decide) (lands_of (by decide +kernel))⟩,
    ⟨_, (h hart 0xFFFFFFFF live _ _ 0 127 0 0 false rfl rfl).2.2.2.2.2.2.2.1 _ rfl (by decide) (lands_of (by decide +kernel))⟩,
    ⟨_, (h hart 0xFFFFFFFF live _ _ 0 2047 0 0 false rfl rfl).2.2.2.2.2.2.2.2 _ _ rfl (by decide) rfl (lands_of (by decide +kernel))⟩⟩

/-! ## Memory, translation, DRAM and the Bridge -/

theorem witness_AccessRowsEnd (h : Obligations.AccessRowsEnd) :
    (∃ u, Ends (.memoryAccess 0 0 0 0 0 56 8 []) live u) ∧ (∃ u, Ends (.memoryAccess 0 0 0 0 0 56 8 []) (mapped true) u)
    ∧ Ends (.memoryAccess 0 0 0 0 0 56 8 []) (heldJob (mapped true)) (newEdge (heldJob (mapped true)))
    ∧ (∃ u, Ends (.memoryAccess 0 0 0 0 1 63 0 [1]) (mapped false) u)
    ∧ (∃ u, Ends (.accessComplete 0 3 0 .failed) { serving with ms := { serving.ms with accesses := [ordered 0] } } u)
    ∧ (∃ u, Ends (.accessComplete 0 0 0 .failed) { serving with ms := { serving.ms with accesses := [ordered 1] } } u) := by
  refine ⟨?_, ?_, ?_, ?_,
    ⟨_, (h _ _ _ 0 0 0 0 0 0 0 0 3 0 [] .failed _ rfl rfl rfl).2.2.2.2.1 (ordered 0) _ _ ⟨0, 0, 0, 0, 0, 0, false⟩ (by decide) (by decide +kernel) (pair _)
      (by decide +kernel) (by decide +kernel)⟩,
    ⟨_, (h _ _ _ 0 0 0 0 0 0 0 0 0 0 [] .failed _ rfl rfl rfl).2.2.2.2.2.1 (ordered 1) (by decide) (by decide +kernel)⟩⟩
  · obtain ⟨f, t, ht⟩ := faulted (x := translate 0 0 (accOf 0) 56 (newEdge live)) (by decide +kernel)
    exact ⟨_, (h live _ _ 0 0 0 0 0 56 8 0 0 0 [] .failed _ rfl rfl rfl).1 f t (by decide +kernel) ht⟩
  · obtain ⟨o, t, ht, ho⟩ := translated (x := translate 0 0 (accOf 0) 56 (newEdge (mapped true)))
      (fun o t => o.host && !hostHeld t (jobWho (newEdge (mapped true)) 0 0 0 0)) (by decide +kernel)
    simp only [Bool.and_eq_true, Bool.not_eq_true'] at ho
    exact ⟨_, (h (mapped true) _ _ 0 0 0 0 0 56 8 0 0 0 [] .failed _ rfl rfl rfl).2.1 o t _ (by decide +kernel) ht rfl ho.1 ho.2⟩
  · obtain ⟨o, t, ht, ho⟩ := translated (x := translate 0 0 (accOf 0) 56 (newEdge (heldJob (mapped true))))
      (fun o t => o.host && hostHeld t (jobWho (newEdge (heldJob (mapped true))) 0 0 0 0)) (by decide +kernel)
    simp only [Bool.and_eq_true] at ho
    exact (h (heldJob (mapped true)) _ _ 0 0 0 0 0 56 8 0 0 0 [] .failed _ rfl rfl rfl).2.2.1 o t (by decide +kernel) ht ho.1 ho.2
  · obtain ⟨o, t, ht, ho⟩ := translated (x := translate 0 0 (accOf 1) 63 (newEdge (mapped false)))
      (fun o t => !o.host && targetOf t.member o.pa != .regs && paServes t o.pa 1) (by decide +kernel)
    simp only [Bool.and_eq_true, Bool.not_eq_true', bne_iff_ne, ne_eq] at ho
    exact ⟨_, (h (mapped false) _ _ 0 0 0 0 1 63 0 0 0 0 [1] .failed _ rfl rfl rfl).2.2.2.1 o t _ (by decide +kernel) ht rfl ho.1.1 ho.1.2 ho.2⟩

theorem witness_MemoryRowsEnd (h : Obligations.MemoryRowsEnd) :
    (∃ u, Ends (.flogTailWrite hart Pg.MMU 0) live u) ∧ (∃ u, Ends (.flogTailWrite hart Pg.FAULT 0) live u)
    ∧ (∃ u, Ends (.flogTailWrite hart (Pg.CANTOR + 1) 0) live u) ∧ (∃ u, Ends (.flogTailWrite hart (Pg.SLINK + 1) 0) live u)
    ∧ (∃ u, Ends (.invGo hart 1) (wr Rg.MMU_INV_COUNT 1 live) u) ∧ (∃ u, Ends (.nrcInvArm hart 1 0xFFFF) live u) ∧ (∃ u, Ends (.dramcEnableWrite hart 7 1) live u)
    ∧ (∃ u, Ends .invDone (wr Rg.MMU_INV_STAT 1 live) u) ∧ (∃ u, Ends (.refreshSlot 7) scrubbing u) ∧ (∃ u, Ends (.mr4Poll 7 7) scrubbing u)
    ∧ (∃ u, Ends (.scrubRead 7 0 4) scrubbing u) ∧ (∃ u, Ends (.scrubPassEnd 7) scrubbing u)
    ∧ (∃ u, Ends .bridgeReplay bridged u) ∧ (∃ u, Ends .bridgeDown bridged u) := by
  obtain ⟨r, e⟩ := h
  refine ⟨⟨_, (r hart 0 live _ 0 rfl).1 (lands_of (by decide +kernel))⟩, ⟨_, (r hart 0 live _ 0 rfl).2.1 (lands_of (by decide +kernel))⟩,
    ⟨_, (r hart 0 live _ 1 rfl).2.2.1 _ rfl (by decide) (lands_of (by decide +kernel))⟩,
    ⟨_, (r hart 0 live _ 1 rfl).2.2.2.1 _ rfl (by decide) (lands_of (by decide +kernel))⟩,
    ⟨_, (r hart 1 (wr Rg.MMU_INV_COUNT 1 live) _ 0 rfl).2.2.2.2.1 (lands_of (by decide +kernel)) (by decide +kernel)⟩,
    ⟨_, (r hart 0xFFFF live _ 1 rfl).2.2.2.2.2.1 _ _ rfl (by decide) rfl (lands_of (by decide +kernel))⟩,
    ⟨_, (r hart 1 live _ 7 rfl).2.2.2.2.2.2 _ _ rfl (by decide) rfl (lands_of (by decide +kernel))⟩,
    ⟨_, (e (wr Rg.MMU_INV_STAT 1 live) _ 0 0 0 0 rfl).1 (by decide +kernel) (by decide +kernel) _ rfl⟩,
    ⟨_, (e scrubbing _ 7 0 0 0 rfl).2.1 _ _ (by decide +kernel) (by decide +kernel) rfl rfl⟩,
    ⟨_, (e scrubbing _ 7 7 0 0 rfl).2.2.1 (by decide +kernel) (by decide +kernel) (by decide) (by decide +kernel) (by decide +kernel)⟩,
    ⟨_, (e scrubbing _ 7 0 0 4 rfl).2.2.2.1 (by decide +kernel) (by decide +kernel) (by decide)⟩,
    ⟨_, (e scrubbing _ 7 0 0 0 rfl).2.2.2.2.1 (by decide +kernel) (by decide +kernel)⟩,
    ⟨_, (e bridged _ 0 0 0 0 rfl).2.2.2.2.2.1 (by decide +kernel)⟩, ⟨_, (e bridged _ 0 0 0 0 rfl).2.2.2.2.2.2 (by decide +kernel)⟩⟩

/-! ## Cantor -/

theorem witness_ScoreRowsEnd (h : Obligations.ScoreRowsEnd) :
    (∃ u, Ends (.scoreLoadGo hart 0) live u) ∧ (∃ u, Ends (.scoreLoadCancel hart 0) (wr Rg.CANTOR_LOAD_STAT 2 live) u)
    ∧ (∃ u, Ends (.cantorTokenWrite hart 1 0xFFFFFFFF) live u) ∧ (∃ u, Ends (.cantorTokenAtWrite hart 1 0) live u)
    ∧ (∃ u, Ends (.spanEnd 0 0) (withCantor fun c => { c with jobs := [(8192, job0 2 0)] }) u) := by
  obtain ⟨r, e⟩ := h
  refine ⟨⟨_, (r hart 0 live _ 0 rfl).1 _ _ rfl rfl (lands_of (by decide +kernel)) (by decide +kernel)⟩,
    ⟨_, (r hart 0 (wr Rg.CANTOR_LOAD_STAT 2 live) _ 0 rfl).2.1 _ _ rfl rfl (lands_of (by decide +kernel)) (by decide +kernel) (by decide +kernel)⟩,
    ⟨_, (r hart 0xFFFFFFFF live _ 1 rfl).2.2.1 _ rfl (by decide) (lands_of (by decide +kernel))⟩,
    ⟨_, (r hart 0 live _ 1 rfl).2.2.2 _ _ rfl (by decide) rfl (lands_of (by decide +kernel))⟩,
    ⟨_, (e _ _ 0 0 8192 (job0 2 0) rfl (by decide) (by decide +kernel) rfl rfl (by decide +kernel) (by decide +kernel) (by decide +kernel))⟩⟩

/-! ## A score image of ZS804Q without jobs: its refresh patterns and its open lines -/

/-- The header of R261, with the bytes of its CRC. -/
def scoreHead (a b c d : Byte) : List Byte :=
  [90, 83, 67, 83, 1, 0, 0, 0, 48, 3, 0, 0, 2, 0, 0, 0, 0, 0, 0, 0, 0, 0, 0, 0, 0, 0, 0, 0] ++ [a, b, c, d] ++ List.replicate 32 0

/-- The directory of R261 and the two REFRESH entries. -/
def scoreBody : List Byte :=
  [4, 0, 0, 0, 2, 0, 0, 0, 96, 0, 0, 0, 0, 0, 0, 0, 3, 0, 0, 0, 4, 0, 0, 0, 144, 0, 0, 0, 0, 0, 0, 0] ++
  [0, 4, 0, 0, 0, 0, 0, 0, 0, 2, 4, 6, 0, 0, 0, 0, 0, 0, 0, 0, 0, 0, 0, 0, 1, 4, 0, 0, 0, 0, 0, 0, 0, 2, 4, 6, 0, 0, 0, 0, 0, 0, 0, 0, 0, 0, 0, 0]

/-- The OPEN entries of the four cores: no line is open. -/
def scoreOpen : List Byte :=
  (List.range 4).flatMap fun k => [(BitVec.ofNat 8 k), 0] ++ List.replicate 83 0 ++ List.replicate 83 0

def scoreImage : List Byte := scoreHead 89 247 147 68 ++ scoreBody ++ scoreOpen

theorem crcc_append {c d : Nat} (a b : List Byte) (h : crcMore 0x82F63B78 c a = d) :
    crcMore 0x82F63B78 c (a ++ b) = crcMore 0x82F63B78 d b := by
  rw [← h]; simp only [crcMore, List.foldl_append]

theorem score_chunks : scoreImage.take 28 ++ [0, 0, 0, 0] ++ scoreImage.drop 32 =
    scoreHead 0 0 0 0 ++ (scoreBody ++ ([0, 0] ++ (List.replicate 83 0 ++ (List.replicate 83 0 ++ ([1, 0] ++ (List.replicate 83 0 ++ (List.replicate 83 0 ++ ([2, 0] ++ (List.replicate 83 0 ++ (List.replicate 83 0 ++ ([3, 0] ++ (List.replicate 83 0 ++ (List.replicate 83 0))))))))))))) := by
  decide +kernel

theorem score_crc : crc32c (scoreImage.take 28 ++ [0, 0, 0, 0] ++ scoreImage.drop 32) = 0x4493F759 := by
  rw [score_chunks, crc32c, crcRefl,
    crcc_append (d := 0xFEB1CBA1) _ _ (by decide +kernel),
    crcc_append (d := 0xCB4A12F2) _ _ (by decide +kernel),
    crcc_append (d := 0x92BA6242) _ _ (by decide +kernel),
    crcc_append (d := 0xC3B3B025) _ _ (by decide +kernel),
    crcc_append (d := 0x163BDEE6) _ _ (by decide +kernel),
    crcc_append (d := 0x7E995E0D) _ _ (by decide +kernel),
    crcc_append (d := 0x76A2141E) _ _ (by decide +kernel),
    crcc_append (d := 0x0FBB5DAD) _ _ (by decide +kernel),
    crcc_append (d := 0x8D3C8ABD) _ _ (by decide +kernel),
    crcc_append (d := 0x2768CA90) _ _ (by decide +kernel),
    crcc_append (d := 0x3C7ED46E) _ _ (by decide +kernel),
    crcc_append (d := 0x54E955DF) _ _ (by decide +kernel),
    crcc_append (d := 0xC848D4ED) _ _ (by decide +kernel),
    show crcMore 0x82F63B78 0xC848D4ED (List.replicate 83 0) = 0xBB6C08A6 by decide +kernel]
  decide +kernel

/-- ZS804Q with a memory, and the load of a score at address 0 under way. -/
def scoreLoading (m : List Host.Cell) : State :=
  { live with member := .zs804q, mem := m, cantor := { live.cantor with validating := some 0 } }

def scoreState : State := scoreLoading (cellsWrite [] 0 scoreImage)

theorem score_mem (m : List Host.Cell) (c : CantorSt) :
    (setEvt Pg.CANTOR 2 { newEdge (scoreLoading m) with cantor := c }).mem = m := (beside_setEvt _ Pg.CANTOR 2).mem

/-- The two sections as they are read. -/
def scoreDirs : List Dir :=
  [⟨0, 4, 0, 0, 0, 2, 96, [[0, 4, 0, 0, 0, 0, 0, 0, 0, 2, 4, 6] ++ List.replicate 12 0, [1, 4, 0, 0, 0, 0, 0, 0, 0, 2, 4, 6] ++ List.replicate 12 0]⟩,
   ⟨1, 3, 0, 0, 0, 4, 144, (List.range 4).map fun k => [(BitVec.ofNat 8 k), 0] ++ List.replicate 166 0⟩]

theorem score_dirs : parseDirs scoreImage = scoreDirs := by decide +kernel

theorem read_back (l : List Byte) : cellsRead (cellsWrite [] 0 l) 0 l.length = l := by
  rw [cellsRead_eq]
  apply List.ext_getElem
  · simp
  · intro i a b
    rw [List.getElem_map, List.getElem_range, kvGet_cellsWrite, if_pos (by omega), Nat.zero_add, Nat.sub_zero,
      List.drop_eq_getElem_cons b]
    rfl

theorem score_bytes : cellsRead (cellsWrite [] 0 scoreImage) 0 816 = scoreImage := by
  have h := read_back scoreImage
  rwa [show scoreImage.length = 816 by decide +kernel] at h

theorem score_absent : checkAbsent .zs804q scoreDirs = none := by decide +kernel

theorem score_refresh : checkRefresh .zs804q scoreDirs = none := by decide +kernel

theorem score_fields : checkField .zs804q scoreImage scoreDirs = none := by decide +kernel

theorem score_rest : checkOverlap scoreDirs = none ∧ checkCapacity scoreImage scoreDirs = none
    ∧ checkAlt .zs804q scoreImage scoreDirs = none ∧ fb scoreImage 8 4 = 816 := by decide +kernel

theorem score_format : checkFormat scoreImage 816 scoreDirs = none := by
  unfold checkFormat
  simp only [score_crc]
  decide +kernel

theorem parse_ok {m : Member} {a n : Nat} {b : List Byte} {d : List Dir} (p : parseDirs b = d) (l : fb b 8 4 = n)
    (h1 : checkFormat b n d = none) (h2 : checkAbsent m d = none) (h3 : checkRefresh m d = none) (h4 : checkField m b d = none)
    (h5 : checkOverlap d = none) (h6 : checkCapacity b d = none) (h7 : checkAlt m b d = none) : ∃ c, parseScore m a b = .ok c := by
  unfold parseScore
  simp only [l, p, h1, h2, h3, h4, h5, h6, h7, firstOf]
  exact ⟨_, rfl⟩

theorem read_ok {s : State} {n : Nat} {b : List Byte} (l : leAt (memRead s 8 4) 0 4 = n) (r : memRead s 0 n = b)
    (t : 64 ≤ dramTop s.member) (k : n ≤ dramTop s.member) (x : n ≤ 0x1000000) (p : ∃ c, parseScore s.member 0 b = .ok c) :
    ∃ c, readScore s 0 = .ok c := by
  unfold readScore
  rw [if_neg (by omega)]
  simp only [Nat.zero_add, l]
  rw [if_neg (by simp; omega), r]
  exact p

theorem score_reads (t : State) (m : t.member = .zs804q) (g : t.mem = cellsWrite [] 0 scoreImage) : ∃ c, readScore t 0 = .ok c := by
  have r : ∀ a n, memRead t a n = cellsRead (cellsWrite [] 0 scoreImage) a n := fun a n => by rw [memRead, g]
  refine read_ok (n := 816) (b := scoreImage) ?_ ?_ ?_ ?_ (by decide) ?_
  · rw [r]; decide +kernel
  · rw [r]; exact score_bytes
  · rw [m]; decide
  · rw [m]; decide
  · rw [m]
    exact parse_ok score_dirs score_rest.2.2.2 score_format score_absent score_refresh score_fields score_rest.1 score_rest.2.1 score_rest.2.2.1

theorem errored {α β : Type} {x : Except α β} (h : (match x with | .ok _ => false | .error _ => true) = true) : ∃ e, x = .error e := by
  rcases x with e | a
  · exact ⟨e, rfl⟩
  · cases h

/-- Core 0 runs the plain task, with a command outstanding or none; a store has met its stream or none has. -/
def running (n : Nat) (hit : Bool) : State :=
  withCantor fun c => { c with
    runs := [(0, ⟨plainTask, 0, if n = 0 then [] else [⟨n, [], [], 0, none⟩], 0⟩)], streams := [⟨0, 0, 0, [], hit⟩] }

theorem witness_CantorEventsEnd (h : Obligations.CantorEventsEnd) :
    (∃ u, Ends .scoreLoadDone scoreState u) ∧ (∃ u, Ends .scoreLoadDone (withCantor fun c => { c with validating := some 0 }) u)
    ∧ Sys2Proof.Machine.exec .scoreLoadDone imageHit = .fault .imageWritten
    ∧ (∃ u, Ends (.taskFire 0) (withCantor fun c => { c with ready := [plainTask] }) u)
    ∧ (∃ u, Ends (.taskSlip 0) { withCantor (fun c => { c with ready := [plainTask] }) with clk := { live.clk with beat := 1 } } u)
    ∧ (∃ u, Ends (.fencedTaskCancel 0) (wr (hdr Pg.CORE Hdr.BLK_STAT) 8 (withCantor fun c => { c with ready := [plainTask] })) u)
    ∧ (∃ u, Ends (.taskEnd 0) (running 0 false) u) ∧ Sys2Proof.Machine.exec (.taskEnd 0) (running 0 true) = .fault .streamWritten
    ∧ (∃ u, Ends (.tokenArrival 0) (withCantor fun c => { c with tokens := [7] }) u)
    ∧ (∃ u, Ends (.commandFetch 0 none .failed) (running 0 false) u) ∧ (∃ u, Ends (.commandFetch 0 (some 0) .failed) (running 0 false) u)
    ∧ Sys2Proof.Machine.exec (.commandFetch 0 none .failed) (running 0 true) = .fault .streamWritten
    ∧ Sys2Proof.Machine.exec (.commandFetch 0 none .peer) (running 0 false) = .fault .peerAccess
    ∧ (∃ u, Ends (.commandComplete 0 1) (running 1 false) u) := by
  have run : ∀ s n, _ := fun s n => h s _ _ 0 0 0 n none .failed rfl rfl
  obtain ⟨c, hc⟩ := score_reads (setEvt Pg.CANTOR 2 { newEdge scoreState with cantor := { (newEdge scoreState).cantor with validating := none } })
    (by decide +kernel) (score_mem _ _)
  obtain ⟨x, hx⟩ := errored (x := readScore (setEvt Pg.CANTOR 2 { newEdge (withCantor fun c => { c with validating := some 0 }) with
    cantor := { (newEdge (withCantor fun c => { c with validating := some 0 })).cantor with validating := none } }) 0) (by decide +kernel)
  refine ⟨⟨_, (run scoreState 0).1 _ c (by decide +kernel) (by decide +kernel) rfl hc⟩, ⟨_, (run _ 0).2.1 _ x (by decide +kernel) (by decide +kernel) rfl hx⟩,
    (run _ 0).2.2.1 (by decide +kernel),
    ⟨_, (run _ 0).2.2.2.1 _ plainTask (by decide +kernel) (by decide +kernel) (by decide +kernel) (by decide +kernel) rfl (by decide +kernel) (by decide +kernel)⟩,
    ⟨_, (run _ 0).2.2.2.2.1 plainTask (by decide +kernel) (by decide +kernel) (by decide +kernel) (by decide +kernel)⟩,
    ⟨_, (run _ 0).2.2.2.2.2.1 plainTask [] (by decide +kernel) (by decide +kernel) (by decide +kernel) (by decide +kernel)⟩,
    ⟨_, (run _ 0).2.2.2.2.2.2.1 (by decide +kernel) (by decide +kernel)⟩, (run _ 0).2.2.2.2.2.2.2.1 (by decide +kernel),
    ⟨_, (run _ 0).2.2.2.2.2.2.2.2.1 7 (by decide +kernel)⟩, ⟨_, (run _ 0).2.2.2.2.2.2.2.2.2.1 (by decide +kernel) (by decide)⟩,
    ⟨_, (h _ _ _ 0 0 0 0 (some 0) .failed rfl rfl).2.2.2.2.2.2.2.2.2.1 (by decide +kernel) (by decide)⟩,
    (run _ 0).2.2.2.2.2.2.2.2.2.2.1 (by decide +kernel), (run _ 0).2.2.2.2.2.2.2.2.2.2.2.1 (by decide +kernel),
    ⟨_, (run _ 1).2.2.2.2.2.2.2.2.2.2.2.2 ⟨plainTask, 0, [⟨1, [], [], 0, none⟩], 0⟩ ⟨1, [], [], 0, none⟩ (by decide +kernel) (by decide +kernel)⟩⟩

/-! ## Commands of the inference cores -/

/-- Core 0's task with one command at the head of its stream, beside a state. -/
def commanded (z : State) (l : List Byte) : State :=
  { z with cantor := { z.cantor with runs := [(0, ⟨{ plainTask with cmds := [l] }, 0, [], 0⟩)] } }

/-- A command of 32 bytes: 16 written and the rest zeros. -/
def tcmd (l : List Byte) : List Byte := l ++ List.replicate 16 0

/-- A command over two small operands (first units 0, 1 and 2, the sizes 1). -/
def tcSome (op fmt sub : Byte) : List Byte := tcmd [op, fmt, 0, sub, 0, 0, 1, 0, 2, 0, 1, 0, 1, 0, 1, 0]

/-- One element by element. -/
def tcElem (op fmt sub : Byte) : List Byte := tcmd [op, fmt, 0, sub, 0, 0, 1, 0, 2, 0, 0, 0, 1, 0, 0, 0]

/-- One of a matrix of one element. -/
def tcRows (op fmt sub : Byte) : List Byte := tcmd [op, fmt, 0, sub, 0, 0, 1, 0, 1, 0, 1, 0, 0, 0, 0, 0]

def tcPoolOne (sub : Byte) : List Byte := tcmd [0x22, 0x11, 0, sub, 0, 0, 1, 0, 1, 0, 1, 0, 1, 0, 0x11, 0x11]

def tcSigOne (sub : Byte) : List Byte := tcmd [0x30, 0, 0, sub, 0, 0, 1, 0, 32, 0, 0, 0, 0, 0, 0, 0]

def tcTokenOne : List Byte := tcmd [0x31, 0, 0, 1, 0, 0, 0, 0, 0, 0, 0, 0, 0, 0, 0, 0]

def tcConvOne : List Byte :=
  [0x11, 0x80, 0, 0, 0, 0, 1, 0, 2, 0, 1, 0, 1, 0, 1, 0, 1, 0, 0x11, 0x11, 0x11, 0, 0, 0] ++ List.replicate 8 0

def tcMemory (op sub : Byte) : List Byte :=
  [op, (if sub = 0 then 0 else 0x88), 0, sub, 0, 0, 0, 0, 0, 0, 0, 0, 0, 0, 4, 0, 1, 0, 1, 0, 0, 0, 0, 0, 0, 0, 0, 0, 0, 0, 0, 0]

/-- What TensorCommandsIssue asks of a command of the head's row, evaluated; the third case says how it ends. -/
def tcIssues (z : State) (l : List Byte) (row : Nat × Nat) (k : Option XErr × Option SigMsg × State → Bool) : Bool :=
  match coreRun z 0 with
  | none => false
  | some r => r.w.cmds == [l] && tcmdRow l == row && tcmdCause z 0 r.w l == 0
    && mayIssueCmd r l (absSpans z 0 r.w.inv (inSpans l ++ (if bit (subopOf l) 0 then accSpan l else []))) (absSpans z 0 r.w.inv (outSpans l))
    && k (runCmd regRead 0 { r.w with cmds := [] } l (wr (Rg.CORE_CMD_IDX + 0 * 0x1000) (w32 (r.idx + 1))
      { z with cantor := { z.cantor with runs := kvInsert z.cantor.runs 0 { r with w := { r.w with cmds := [] }, idx := r.idx + 1 } } }))

def tcFails (x : Option XErr × Option SigMsg × State) : Bool := x.1.isSome
def tcOutstanding (x : Option XErr × Option SigMsg × State) : Bool := x.1.isNone && (coreRun x.2.2 0).isSome
def tcAtOnce (x : Option XErr × Option SigMsg × State) : Bool := x.1.isNone

theorem tc_parts {z : State} {l : List Byte} {row : Nat × Nat} {k : Option XErr × Option SigMsg × State → Bool}
    (h : tcIssues z l row k = true) : ∃ r, coreRun z 0 = some r ∧ r.w.cmds = [l] ∧ tcmdRow l = row ∧ tcmdCause z 0 r.w l = 0
    ∧ mayIssueCmd r l (absSpans z 0 r.w.inv (inSpans l ++ (if bit (subopOf l) 0 then accSpan l else []))) (absSpans z 0 r.w.inv (outSpans l)) = true
    ∧ k (runCmd regRead 0 { r.w with cmds := [] } l (wr (Rg.CORE_CMD_IDX + 0 * 0x1000) (w32 (r.idx + 1))
      { z with cantor := { z.cantor with runs := kvInsert z.cantor.runs 0 { r with w := { r.w with cmds := [] }, idx := r.idx + 1 } } })) = true := by
  unfold tcIssues at h
  cases hr : coreRun z 0 with
  | none => rw [hr] at h; cases h
  | some r =>
    rw [hr] at h
    simp only [Bool.and_eq_true, beq_iff_eq] at h
    obtain ⟨⟨⟨⟨a, b⟩, c⟩, d⟩, e⟩ := h
    exact ⟨r, rfl, a, b, c, d, e⟩

/-- A command that issues ends, in each of its three ways. -/
theorem tc_ends {s z : State} {i : Instr} {row : Nat × Nat} {l : List Byte} {P : CoreRun → Prop}
    (h : ∀ r, coreRun z 0 = some r → r.w.cmds = [l] → tcmdRow l = row →
      (∀ d u r1 t, tcmdCause z 0 r.w l = 0 →
        d = absSpans z 0 r.w.inv (inSpans l ++ (if bit (subopOf l) 0 then accSpan l else [])) →
        u = absSpans z 0 r.w.inv (outSpans l) → mayIssueCmd r l d u = true →
        r1 = { r with w := { r.w with cmds := [] }, idx := r.idx + 1 } →
        t = wr (Rg.CORE_CMD_IDX + 0 * 0x1000) (w32 r1.idx)
          { z with cantor := { z.cantor with runs := kvInsert z.cantor.runs 0 r1 } } →
        (∀ x g y, runCmd regRead 0 r1.w l t = (some x, g, y) → x.held = false → Ends i s (accessFail r1.w.job x 0 0 r1.w.task.idx y))
        ∧ (∀ x g y, runCmd regRead 0 r1.w l t = (some x, g, y) → x.held = true → Ends i s z)
        ∧ (∀ g y, runCmd regRead 0 r1.w l t = (none, g, y) → opcodeOf l = tcNop ∨ opcodeOf l = tcToken →
          Ends i s (fetchFault 0 (bump (Rg.CORE_CMDS + 0 * 0x1000) y)))
        ∧ (∀ g y r2 r3, runCmd regRead 0 r1.w l t = (none, g, y) → opcodeOf l ≠ tcNop → opcodeOf l ≠ tcToken →
          coreRun y 0 = some r2 → r3 = { r2 with out := r2.out ++ [⟨unitOf (opcodeOf l), d, u, linBeat y, g⟩] } →
          Ends i s (fetchFault 0 { y with cantor := { y.cantor with runs := kvInsert y.cantor.runs 0 r3 } })))
      ∧ P r)
    (k : tcIssues z l row (fun x => tcFails x || (if opcodeOf l == tcNop || opcodeOf l == tcToken then tcAtOnce x else tcOutstanding x)) = true) :
    ∃ u, Ends i s u := by
  obtain ⟨r, h1, h2, h3, h4, h5, h6⟩ := tc_parts k
  obtain ⟨a, d, b, c⟩ := (h r h1 h2 h3).1 _ _ _ _ h4 rfl rfl h5 rfl rfl
  dsimp only at a b c d h6
  rcases hx : runCmd regRead 0 { r.w with cmds := [] } l (wr (Rg.CORE_CMD_IDX + 0 * 0x1000) (w32 (r.idx + 1))
      { z with cantor := { z.cantor with runs := kvInsert z.cantor.runs 0 { r with w := { r.w with cmds := [] }, idx := r.idx + 1 } } }) with ⟨e | e, g, y⟩
  · by_cases ho : opcodeOf l = tcNop ∨ opcodeOf l = tcToken
    · exact ⟨_, b g y hx ho⟩
    · have ho' := not_or.mp ho
      rw [hx] at h6
      simp only [tcFails, tcOutstanding, Option.isSome_none, Bool.false_or, Option.isNone_none, Bool.true_and, Bool.or_eq_true,
        beq_iff_eq, ho, if_false] at h6
      obtain ⟨r2, hr2⟩ := Option.isSome_iff_exists.mp h6
      exact ⟨_, c g y r2 _ hx ho'.1 ho'.2 hr2 rfl⟩
  · cases hd : e.held
    · exact ⟨_, a e g y hx hd⟩
    · exact ⟨_, d e g y hx hd⟩

/-- The commands that move data or issue none. -/
theorem witness_TensorCommandsIssue_moves (h : Obligations.TensorCommandsIssue) :
    (∃ u, Ends (.nop 0) (commanded live (tcmd (List.replicate 16 0))) u)
    ∧ (∃ u, Ends (.token 0) (commanded live (tcTokenOne)) u) :=
  ⟨tc_ends (fun r => h _ 0 .failed _ _ (tcNop, 0) r (tcmd (List.replicate 16 0)) [] (.inl ⟨rfl, by simp⟩)) (by decide +kernel),
   tc_ends (fun r => h _ 0 .failed _ _ (tcToken, 0) r (tcTokenOne) [] (.inl ⟨rfl, by simp⟩)) (by decide +kernel)⟩

/-- The commands of the matrix unit. -/
theorem witness_TensorCommandsIssue_products (h : Obligations.TensorCommandsIssue) :
    (∃ u, Ends (.mma 0) (commanded live (tcSome 0x10 0x80 0)) u)
    ∧ (∃ u, Ends (.conv 0) (commanded live (tcConvOne)) u) :=
  ⟨tc_ends (fun r => h _ 0 .failed _ _ (tcMma, 0) r (tcSome 0x10 0x80 0) [] (.inl ⟨rfl, by simp⟩)) (by decide +kernel),
   tc_ends (fun r => h _ 0 .failed _ _ (tcConv, 0) r (tcConvOne) [] (.inl ⟨rfl, by simp⟩)) (by decide +kernel)⟩

/-- The commands over elements. -/
theorem witness_TensorCommandsIssue_elements (h : Obligations.TensorCommandsIssue) :
    (∃ u, Ends (.ewiseAdd 0) (commanded live (tcElem 0x20 0 0)) u)
    ∧ (∃ u, Ends (.ewiseSub 0) (commanded live (tcElem 0x20 0 1)) u)
    ∧ (∃ u, Ends (.ewiseMul 0) (commanded live (tcElem 0x20 0 2)) u)
    ∧ (∃ u, Ends (.ewiseMax 0) (commanded live (tcElem 0x20 0 3)) u)
    ∧ (∃ u, Ends (.ewiseMin 0) (commanded live (tcElem 0x20 0 4)) u)
    ∧ (∃ u, Ends (.ewiseCvt 0) (commanded live (tcElem 0x20 0 5)) u)
    ∧ (∃ u, Ends (.ewiseAbs 0) (commanded live (tcElem 0x20 0 6)) u)
    ∧ (∃ u, Ends (.ewiseNeg 0) (commanded live (tcElem 0x20 0 7)) u)
    ∧ (∃ u, Ends (.act 0) (commanded live (tcElem 0x21 0x11 0)) u) :=
  ⟨tc_ends (fun r => h _ 0 .failed _ _ (tcEwise, 0) r (tcElem 0x20 0 0) [] (.inl ⟨rfl, by simp⟩)) (by decide +kernel),
   tc_ends (fun r => h _ 0 .failed _ _ (tcEwise, 1) r (tcElem 0x20 0 1) [] (.inl ⟨rfl, by simp⟩)) (by decide +kernel),
   tc_ends (fun r => h _ 0 .failed _ _ (tcEwise, 2) r (tcElem 0x20 0 2) [] (.inl ⟨rfl, by simp⟩)) (by decide +kernel),
   tc_ends (fun r => h _ 0 .failed _ _ (tcEwise, 3) r (tcElem 0x20 0 3) [] (.inl ⟨rfl, by simp⟩)) (by decide +kernel),
   tc_ends (fun r => h _ 0 .failed _ _ (tcEwise, 4) r (tcElem 0x20 0 4) [] (.inl ⟨rfl, by simp⟩)) (by decide +kernel),
   tc_ends (fun r => h _ 0 .failed _ _ (tcEwise, 5) r (tcElem 0x20 0 5) [] (.inl ⟨rfl, by simp⟩)) (by decide +kernel),
   tc_ends (fun r => h _ 0 .failed _ _ (tcEwise, 6) r (tcElem 0x20 0 6) [] (.inl ⟨rfl, by simp⟩)) (by decide +kernel),
   tc_ends (fun r => h _ 0 .failed _ _ (tcEwise, 7) r (tcElem 0x20 0 7) [] (.inl ⟨rfl, by simp⟩)) (by decide +kernel),
   tc_ends (fun r => h _ 0 .failed _ _ (tcAct, 0) r (tcElem 0x21 0x11 0) [] (.inl ⟨rfl, by simp⟩)) (by decide +kernel)⟩

/-- The commands over windows, rows and bytes. -/
theorem witness_TensorCommandsIssue_windows (h : Obligations.TensorCommandsIssue) :
    (∃ u, Ends (.poolMax 0) (commanded live (tcPoolOne 0)) u)
    ∧ (∃ u, Ends (.poolAvg 0) (commanded live (tcPoolOne 1)) u)
    ∧ (∃ u, Ends (.reduceSum 0) (commanded live (tcRows 0x23 0x81 0)) u)
    ∧ (∃ u, Ends (.reduceMax 0) (commanded live (tcRows 0x23 0x81 1)) u)
    ∧ (∃ u, Ends (.reduceMin 0) (commanded live (tcRows 0x23 0x81 2)) u)
    ∧ (∃ u, Ends (.reduceArgmax 0) (commanded live (tcRows 0x23 0x81 3)) u)
    ∧ (∃ u, Ends (.reduceArgmin 0) (commanded live (tcRows 0x23 0x81 4)) u)
    ∧ (∃ u, Ends (.transpose 0) (commanded live (tcRows 0x24 0x11 0)) u)
    ∧ (∃ u, Ends (.sig 0) (commanded live (tcSigOne 0)) u) :=
  ⟨tc_ends (fun r => h _ 0 .failed _ _ (tcPool, 0) r (tcPoolOne 0) [] (.inl ⟨rfl, by simp⟩)) (by decide +kernel),
   tc_ends (fun r => h _ 0 .failed _ _ (tcPool, 1) r (tcPoolOne 1) [] (.inl ⟨rfl, by simp⟩)) (by decide +kernel),
   tc_ends (fun r => h _ 0 .failed _ _ (tcReduce, 0) r (tcRows 0x23 0x81 0) [] (.inl ⟨rfl, by simp⟩)) (by decide +kernel),
   tc_ends (fun r => h _ 0 .failed _ _ (tcReduce, 1) r (tcRows 0x23 0x81 1) [] (.inl ⟨rfl, by simp⟩)) (by decide +kernel),
   tc_ends (fun r => h _ 0 .failed _ _ (tcReduce, 2) r (tcRows 0x23 0x81 2) [] (.inl ⟨rfl, by simp⟩)) (by decide +kernel),
   tc_ends (fun r => h _ 0 .failed _ _ (tcReduce, 3) r (tcRows 0x23 0x81 3) [] (.inl ⟨rfl, by simp⟩)) (by decide +kernel),
   tc_ends (fun r => h _ 0 .failed _ _ (tcReduce, 4) r (tcRows 0x23 0x81 4) [] (.inl ⟨rfl, by simp⟩)) (by decide +kernel),
   tc_ends (fun r => h _ 0 .failed _ _ (tcTranspose, 0) r (tcRows 0x24 0x11 0) [] (.inl ⟨rfl, by simp⟩)) (by decide +kernel),
   tc_ends (fun r => h _ 0 .failed _ _ (tcSig, 0) r (tcSigOne 0) [] (.inl ⟨rfl, by simp⟩)) (by decide +kernel)⟩

/-- The commands of memory, on memory that is mapped and on none. -/
theorem witness_TensorCommandsIssue_memory (h : Obligations.TensorCommandsIssue) :
    (∃ u, Ends (.load 0 .failed) (commanded (mapped false) (tcMemory 1 0)) u) ∧ (∃ u, Ends (.load 0 .failed) (commanded live (tcMemory 1 0)) u)
    ∧ (∃ u, Ends (.store 0 .failed) (commanded (mapped false) (tcMemory 2 0)) u) ∧ (∃ u, Ends (.store 0 .failed) (commanded live (tcMemory 2 0)) u)
    ∧ (∃ u, Ends (.atomicAdd 0 .failed) (commanded (mapped false) (tcMemory 2 1)) u) ∧ (∃ u, Ends (.atomicAdd 0 .failed) (commanded live (tcMemory 2 1)) u)
    ∧ (∃ u, Ends (.atomicMax 0 .failed) (commanded (mapped false) (tcMemory 2 2)) u) ∧ (∃ u, Ends (.atomicMax 0 .failed) (commanded live (tcMemory 2 2)) u) :=
  ⟨tc_ends (fun r => h _ 0 .failed _ _ (tcLoad, 0) r (tcMemory 1 0) [] (.inr ⟨rfl, by decide, by simp⟩)) (by decide +kernel),
   tc_ends (fun r => h _ 0 .failed _ _ (tcLoad, 0) r (tcMemory 1 0) [] (.inr ⟨rfl, by decide, by simp⟩)) (by decide +kernel),
   tc_ends (fun r => h _ 0 .failed _ _ (tcStore, 0) r (tcMemory 2 0) [] (.inr ⟨rfl, by decide, by simp⟩)) (by decide +kernel),
   tc_ends (fun r => h _ 0 .failed _ _ (tcStore, 0) r (tcMemory 2 0) [] (.inr ⟨rfl, by decide, by simp⟩)) (by decide +kernel),
   tc_ends (fun r => h _ 0 .failed _ _ (tcStore, 1) r (tcMemory 2 1) [] (.inr ⟨rfl, by decide, by simp⟩)) (by decide +kernel),
   tc_ends (fun r => h _ 0 .failed _ _ (tcStore, 1) r (tcMemory 2 1) [] (.inr ⟨rfl, by decide, by simp⟩)) (by decide +kernel),
   tc_ends (fun r => h _ 0 .failed _ _ (tcStore, 2) r (tcMemory 2 2) [] (.inr ⟨rfl, by decide, by simp⟩)) (by decide +kernel),
   tc_ends (fun r => h _ 0 .failed _ _ (tcStore, 2) r (tcMemory 2 2) [] (.inr ⟨rfl, by decide, by simp⟩)) (by decide +kernel)⟩

/-- A store of an invocation to a host page while its function may not issue requests waits. -/
theorem witness_TensorCommandsIssue_held (h : Obligations.TensorCommandsIssue) :
    Ends (.store 0 .failed) (heldJob (commanded (mapped true) (tcMemory 2 0)))
      (newEdge (given .failed (heldJob (commanded (mapped true) (tcMemory 2 0))))) := by
  have k : tcIssues (newEdge (given .failed (heldJob (commanded (mapped true) (tcMemory 2 0))))) (tcMemory 2 0) (tcStore, 0)
      (fun x => match x.1 with | some e => e.held | none => false) = true := by decide +kernel
  obtain ⟨r, h1, h2, h3, h4, h5, h6⟩ := tc_parts k
  have d := ((h _ 0 .failed _ (.store 0 .failed) (tcStore, 0) r (tcMemory 2 0) [] (.inr ⟨rfl, by decide, by simp⟩) h1 h2 h3).1 _ _ _ _ h4 rfl rfl h5 rfl rfl).2.1
  dsimp only at d h6
  rcases hx : runCmd regRead 0 { r.w with cmds := [] } (tcMemory 2 0) (wr (Rg.CORE_CMD_IDX + 0 * 0x1000) (w32 (r.idx + 1))
      { newEdge (given .failed (heldJob (commanded (mapped true) (tcMemory 2 0)))) with cantor :=
        { (newEdge (given .failed (heldJob (commanded (mapped true) (tcMemory 2 0))))).cantor with runs := kvInsert (newEdge (given .failed (heldJob (commanded (mapped true) (tcMemory 2 0))))).cantor.runs 0 { r with w := { r.w with cmds := [] }, idx := r.idx + 1 } } }) with ⟨e | e, g, y⟩
  · rw [hx] at h6; cases h6
  · rw [hx] at h6; exact d e g y hx h6

/-- A command of an unknown opcode. -/
theorem witness_TensorCommandsIssue_error (h : Obligations.TensorCommandsIssue) :
    ∃ u, Ends (.nop 0) (commanded live (tcElem 3 0 0)) u :=
  ⟨_, (h _ 0 .failed _ _ (tcNop, 0) (CoreRun.mk { plainTask with cmds := [tcElem 3 0 0] } 0 [] 0) _ _ (.inl ⟨rfl, by simp⟩)
    (by decide +kernel) rfl (by decide +kernel)).2 (by decide +kernel) rfl⟩

/-- The operands hold no error and the view is the core's scratch. -/
theorem witness_TensorCommandResults (h : Obligations.TensorCommandResults) :
    (∀ l ∈ [tcSome 0x10 0x80 0, tcConvOne, tcElem 0x20 0 0, tcElem 0x21 0x11 0, tcPoolOne 0, tcRows 0x23 0x81 0, tcRows 0x24 0x11 0, tcSome 0x25 0x80 0],
      ∃ r, runCmd regRead 0 plainTask l live = (none, none, r)) := by
  have ok : ∀ l ∈ [tcSome 0x10 0x80 0, tcConvOne, tcElem 0x20 0 0, tcElem 0x21 0x11 0, tcPoolOne 0, tcRows 0x23 0x81 0, tcRows 0x24 0x11 0, tcSome 0x25 0x80 0],
      (scrErrs 0 plainTask.inv (inSpans l ++ (if (opcodeOf l == tcMma || opcodeOf l == tcConv) && bit (subopOf l) 0 then accSpan l else [])) live).1 = false := by
    decide +kernel
  intro l hl
  have hs : scrErrs 0 plainTask.inv _ live = (false, _) := (pair _).trans (congrArg (·, _) (ok l hl))
  have run := fun n out => h live _ 0 plainTask l _ _ n out hs rfl rfl
  simp only [List.mem_cons, List.not_mem_nil, or_false] at hl
  rcases hl with rfl | rfl | rfl | rfl | rfl | rfl | rfl | rfl
  · exact ⟨_, run _ _ (.inl ⟨by decide, rfl, rfl⟩)⟩
  · exact ⟨_, run _ _ (.inr (.inl ⟨by decide, rfl, rfl⟩))⟩
  · exact ⟨_, run _ _ (.inr (.inr (.inl ⟨by decide, rfl, rfl⟩)))⟩
  · exact ⟨_, run _ _ (.inr (.inr (.inr (.inl ⟨by decide, rfl, rfl⟩))))⟩
  · exact ⟨_, run _ _ (.inr (.inr (.inr (.inr (.inl ⟨by decide, rfl, rfl⟩)))))⟩
  · exact ⟨_, run _ _ (.inr (.inr (.inr (.inr (.inr (.inl ⟨by decide, rfl, rfl⟩))))))⟩
  · exact ⟨_, run _ _ (.inr (.inr (.inr (.inr (.inr (.inr (.inl ⟨by decide, rfl, rfl⟩)))))))⟩
  · exact ⟨_, run _ _ (.inr (.inr (.inr (.inr (.inr (.inr (.inr ⟨by decide, rfl, rfl⟩)))))))⟩

/-- SCALE's two outputs come in either order. -/
theorem witness_TensorCommandsIssue_scale (h : Obligations.TensorCommandsIssue) (k : Obligations.TensorCommandResults) :
    ∃ u, Ends (.scale 0) (commanded live (tcSome 0x25 0x80 0)) u := by
  let z := newEdge (commanded live (tcSome 0x25 0x80 0))
  let r : CoreRun := ⟨{ plainTask with cmds := [tcSome 0x25 0x80 0] }, 0, [], 0⟩
  have all := (h (commanded live (tcSome 0x25 0x80 0)) 0 .failed z (.scale 0) (tcScale, 0) r (tcSome 0x25 0x80 0) [] (.inl ⟨rfl, by simp⟩) (by decide +kernel) rfl (by decide +kernel)).1
    _ _ _ _ (by decide +kernel) rfl rfl (by decide +kernel) rfl rfl
  have hs : (scrErrs 0 false (inSpans (tcSome 0x25 0x80 0)) (wr (Rg.CORE_CMD_IDX + 0 * 0x1000) (w32 1)
      { z with cantor := { z.cantor with runs := kvInsert z.cantor.runs 0 { r with w := { r.w with cmds := [] }, idx := 1 } } })).1 = false := by
    decide +kernel
  have run := k _ _ 0 { r.w with cmds := [] } (tcSome 0x25 0x80 0) _ _ _ _ ((pair _).trans (congrArg (·, _) hs)) rfl rfl
    (.inr (.inr (.inr (.inr (.inr (.inr (.inr ⟨rfl, rfl, rfl⟩)))))))
  generalize Config.freeBool _ = b at run
  cases b
  · exact ⟨_, all.2.2.2 _ _ { r with w := { r.w with cmds := [] }, idx := 1 } _ run (by decide) (by decide) (by decide +kernel) rfl⟩
  · exact ⟨_, all.2.2.2 _ _ { r with w := { r.w with cmds := [] }, idx := 1 } _ run (by decide) (by decide) (by decide +kernel) rfl⟩

/-! ## Cameras and Chafer -/

/-- Camera port 7 receives. -/
def camOn : State := wr (portReg Rg.CAM_PORT_STAT 7) 1 (wr (hdr (camPort 7) Hdr.BLK_CTRL) 1 live)

/-- Stream 31 is attached and has been silent for as long as its configuration allows, and group 3 has an open frame. -/
def camQuiet : State :=
  { wr (camReg (Rg.CAM_SCFG0 + 12) 16 31) 0x10000 (wr (camStat 31) 0x0101 live) with
    clk := { live.clk with line := 40 }, cam := { live.cam with groups := [(3, { CamGroup.reset with open_ := true })] } }

theorem witness_CameraRowsEnd (h : Obligations.CameraRowsEnd) :
    (∃ u, Ends (.cameraFs 7 0 1 0) camOn u) ∧ (∃ u, Ends (.cameraFe 7 0 1 0) camOn u)
    ∧ (∃ u, Ends (.cameraLongPacket 7 0 0x10 4 0 true [1, 2, 3, 4]) camOn u)
    ∧ (∃ u, Ends (.cameraLongPacket 7 0 0x3F 4 0 true [1, 2, 3, 4]) camOn u)
    ∧ (∃ u, Ends (.cameraOtherShortPacket 7 0 2 0 0) camOn u) ∧ (∃ u, Ends (.cameraOtherShortPacket 7 0 0xF 0 0) camOn u)
    ∧ (∃ u, Ends (.cameraDetach 31) camQuiet u) ∧ (∃ u, Ends (.groupHoldExpiry 3) camQuiet u)
    ∧ (∃ u, Ends (.camRelease hart 7 0xF3) (wr (camReg Rg.CAM_SCFG0 16 31) 1 camOn) u) ∧ (∃ u, Ends (.phyUpChange 7 true) live u) := by
  obtain ⟨r, e⟩ := h
  have pk := fun dt => r camOn _ 7 0 dt 0 0 0 true [] rfl (by decide +kernel) (by decide +kernel)
  have ev := e hart 0x03 camQuiet _ _ 31 3 7 true rfl rfl
  exact ⟨⟨_, (r camOn _ 7 0 0 1 0 0 true [] rfl (by decide +kernel) (by decide +kernel)).1⟩,
    ⟨_, (r camOn _ 7 0 0 1 0 0 true [] rfl (by decide +kernel) (by decide +kernel)).2.1⟩,
    ⟨_, (r camOn _ 7 0 0x10 0 4 0 true [1, 2, 3, 4] rfl (by decide +kernel) (by decide +kernel)).2.2.1 (by decide) (by decide)⟩,
    ⟨_, (r camOn _ 7 0 0x3F 0 4 0 true [1, 2, 3, 4] rfl (by decide +kernel) (by decide +kernel)).2.2.1 (by decide) (by decide)⟩,
    ⟨_, (pk 2).2.2.2 (by decide) (by decide)⟩, ⟨_, (pk 0xF).2.2.2 (by decide) (by decide)⟩,
    ⟨_, ev.1 (by decide) (by decide +kernel) (by decide +kernel)⟩, ⟨_, ev.2.1 (by decide) (by decide +kernel)⟩,
    ⟨_, (e hart 0xF3 (wr (camReg Rg.CAM_SCFG0 16 31) 1 camOn) _ _ 31 3 7 true rfl rfl).2.2.1 _ rfl (by decide) (lands_of (by decide +kernel))⟩,
    ⟨_, (e hart 0x03 live _ _ 31 3 7 true rfl rfl).2.2.2 (by decide) (by decide +kernel)⟩⟩

/-- Half 1's Chafer in a phase of a window, with its data taken or not, at a line of the stave. -/
def window (phase line : Nat) (took : Bool) (l : List Survey) : State :=
  { live with clk := { live.clk with line := line }, chafer := { live.chafer with
      wins := [(1, ⟨0, phase, false, false, took, 0, 0, 0, [], [], false, l, 0⟩)] } }

/-- A survey whose token is due. -/
def surveyed : Survey := ⟨none, 0, 0, 0, false, false, false, false, 0, 0, 0, 0, 0, 0, 0, 0, 0, [], 0, [], 0, true⟩

theorem witness_ChaferWindowsEnd (h : Obligations.ChaferWindowsEnd) :
    (∃ u, Ends (.chaferWindowStart 1 .failed) (withCantor fun c => { c with events := [⟨1, 1, 0, 0, 0⟩] }) u)
    ∧ (∃ u, Ends (.chaferOpenTake 1 .failed) (window 1 1 false []) u) ∧ (∃ u, Ends (.chaferSetupDone 1 .failed) (window 1 1 true []) u)
    ∧ (∃ u, Ends (.chaferEvalEnd 1 0 .failed) (window 2 72 true []) u) ∧ (∃ u, Ends (.chaferSurveyToken 1) (window 3 72 true [surveyed]) u)
    ∧ (∃ u, Ends (.chaferLate 1) (window 3 75 true [surveyed]) u)
    ∧ (∀ i ∈ [Instr.chaferWindowStart 1 .peer, .chaferOpenTake 1 .peer, .chaferSetupDone 1 .peer, .chaferEvalEnd 1 0 .peer],
      Sys2Proof.Machine.exec i live = .fault .peerAccess) :=
  ⟨⟨_, (h (withCantor fun c => { c with events := [⟨1, 1, 0, 0, 0⟩] }) _ _ 1 0 .failed rfl rfl).1 _ (by decide) rfl⟩,
    ⟨_, (h (window 1 1 false []) _ _ 1 0 .failed rfl rfl).2.1 _ (by decide) rfl rfl (by decide +kernel)⟩,
    ⟨_, (h (window 1 1 true []) _ _ 1 0 .failed rfl rfl).2.2.1 _ (by decide) rfl rfl rfl⟩,
    ⟨_, (h (window 2 72 true []) _ _ 1 0 .failed rfl rfl).2.2.2.1 _ (by decide) rfl rfl (by decide +kernel)⟩,
    ⟨_, (h (window 3 72 true [surveyed]) _ _ 1 0 .failed rfl rfl).2.2.2.2.1 _ rfl rfl rfl⟩,
    ⟨_, (h (window 3 75 true [surveyed]) _ _ 1 0 .failed rfl rfl).2.2.2.2.2.1 _ rfl rfl (by decide +kernel)⟩,
    (h live _ _ 1 0 .failed rfl rfl).2.2.2.2.2.2⟩

/-! ## Display and audio -/

/-- Head 1 of a frame of two lines at its first line, enabled, with its line table on. -/
def showing : State :=
  wr (Rg.WINGCASE_LT1_CTRL + 0x1000) 1 (wr (wcReg Rg.WINGCASE_TIMING3 1) 0x20000 (wr (hdr (wcPg 1) Hdr.BLK_CTRL) 1
    { live with wing := { live.wing with heads := [(1, { WHead.reset with lines := 1, sprAt := 0 })] } }))

theorem witness_DisplayEventsEnd (h : Obligations.DisplayEventsEnd) :
    (∃ u, Ends (.setBoundary 1 []) showing u) ∧ (∃ u, Ends (.displayLineStart 0 []) live u) ∧ (∃ u, Ends (.displayLineStart 1 []) live u)
    ∧ (∃ u, Ends (.spriteTableFetch 1 true) showing u) ∧ (∃ u, Ends (.spriteTableFetch 1 false) showing u)
    ∧ (∃ u, Ends (.lineTableFetch 0) (withCantor fun c => { c with events := [⟨2, 0, 0, 0, 5⟩] }) u)
    ∧ (∃ u, Ends (.lineTableFetch 1) showing u) ∧ (∃ u, Ends (.lineTableLoaded 1) showing u) :=
  ⟨⟨_, (h showing _ 1 [] [] true rfl).1 (by decide +kernel)⟩, ⟨_, (h live _ 0 [] [] true rfl).2.1 (by decide +kernel)⟩,
    ⟨_, (h live _ 1 [] [] true rfl).2.1 (by decide +kernel)⟩,
    ⟨_, ((h showing _ 1 [] [] true rfl).2.2.1 (by decide +kernel) (by decide) (by decide +kernel) (by decide +kernel) (by decide +kernel)
      _ _ rfl rfl (by decide +kernel) (by decide +kernel)).1 rfl⟩,
    ⟨_, ((h showing _ 1 [] [] false rfl).2.2.1 (by decide +kernel) (by decide) (by decide +kernel) (by decide +kernel) (by decide +kernel)
      _ _ rfl rfl (by decide +kernel) (by decide +kernel)).2 rfl⟩,
    ⟨_, (h (withCantor fun c => { c with events := [⟨2, 0, 0, 0, 5⟩] }) _ 0 [] [] true rfl).2.2.2.1 _ rfl rfl⟩,
    ⟨_, (h showing _ 1 [] [] true rfl).2.2.2.2.1 0 rfl (by decide +kernel)⟩, ⟨_, (h showing _ 1 [] [] true rfl).2.2.2.2.2 (by decide)⟩⟩

theorem witness_DisplayAndAudioRegistersEnd (h : Obligations.DisplayAndAudioRegistersEnd) :
    (∃ u, Ends (.palDataWrite hart 1 0xFFFFFFFF) live u) ∧ (∃ u, Ends (.palDataRead 0x44 1) live u) ∧ (∃ u, Ends (.safeOnlyWrite hart 1 1) live u)
    ∧ (∃ u, Ends (.dsiGenGo hart 0) (wr Rg.DSI_GEN_HDR 5 live) u) ∧ (∃ u, Ends (.choirKeyOnWrite hart 31) live u)
    ∧ (∃ u, Ends (.keyOff hart 15) { live with choir := { live.choir with voices := [(15, { Voice.reset with phase := 3 })] } } u)
    ∧ (∃ u, Ends (.xpNodeWrite hart 0x00107FFF) live u) :=
  ⟨⟨_, (h hart 0xFFFFFFFF live _ 1 0 rfl).1 _ _ rfl rfl (by decide) (lands_of (by decide +kernel))⟩,
    ⟨_, (h hart 0 live _ 1 0x44 rfl).2.1 _ _ rfl rfl (by decide) (reads_at (by decide +kernel))⟩,
    ⟨_, (h hart 1 live _ 1 0 rfl).2.2.1 _ _ rfl rfl (by decide) (lands_of (by decide +kernel))⟩,
    ⟨_, (h hart 0 (wr Rg.DSI_GEN_HDR 5 live) _ 1 0 rfl).2.2.2.1 _ _ rfl rfl (lands_of (by decide +kernel))⟩,
    ⟨_, (h hart 31 live _ 1 0 rfl).2.2.2.2.1 (lands_of (by decide +kernel))⟩,
    ⟨_, (h hart 15 _ _ 1 0 rfl).2.2.2.2.2.1 _ rfl (by decide +kernel) (lands_of (by decide +kernel))⟩,
    ⟨_, (h hart 0x00107FFF live _ 1 0 rfl).2.2.2.2.2.2 _ rfl (lands_of (by decide +kernel))⟩⟩

/-- DSI is on in a line of blanking with a packet waiting, and port 3 of TDM runs from its own clock, locked or not. -/
def sounding (locked : Bool) : State :=
  wrB (Rg.TDM_STAT + 0x1000 * 3) 1 locked (wr (Rg.TDM_CFG + 0x1000 * 3) 1 (wr (hdr (Pg.TDM + 3) Hdr.BLK_CTRL) 1
    (wr (hdr Pg.DSI Hdr.BLK_CTRL) 1 <| wr (wcReg Rg.WINGCASE_HEAD_STAT 0) 12 { live with clk := { live.clk with line := 25 }, wing := { live.wing with gen := some (0, 0, []) } })))

theorem witness_AudioEventsEnd (h : Obligations.AudioEventsEnd) :
    (∃ u, Ends .dsiGenSend (sounding true) u) ∧ (∃ u, Ends .keyOnAllocate (sounding true) u) ∧ (∃ u, Ends (.audioSample [] []) (sounding true) u)
    ∧ (∃ u, Ends .domainCSample { live with choir := { live.choir with lastA := 5 } } u)
    ∧ (∃ u, Ends (.asrcLock 3) (sounding false) u) ∧ (∃ u, Ends (.asrcUnlock 3) (sounding true) u)
    ∧ (∃ u, Ends (.tdmFrameReceive 3 [1, 2] true) (sounding true) u) ∧ (∃ u, Ends (.tdmFrameReceive 0 [1, 2] true) (sounding true) u) :=
  ⟨⟨_, (h (sounding true) _ [] [] [] 3 true rfl).1 _ _ _ rfl (by decide +kernel) (by decide +kernel) (by decide +kernel)⟩,
    ⟨_, (h (sounding true) _ [] [] [] 3 true rfl).2.1 rfl⟩,
    ⟨_, (h (sounding true) _ [] [] [] 3 true rfl).2.2.1 (by decide +kernel) (by decide +kernel)⟩,
    ⟨_, (h { live with choir := { live.choir with lastA := 5 } } _ [] [] [] 3 true rfl).2.2.2.1 (by decide +kernel) (by decide +kernel) (by decide +kernel) (by decide +kernel)⟩,
    ⟨_, (h (sounding false) _ [] [] [] 3 true rfl).2.2.2.2.1 (by decide) (by decide +kernel) (by decide +kernel)⟩,
    ⟨_, (h (sounding true) _ [] [] [] 3 true rfl).2.2.2.2.2.1 (by decide) (by decide +kernel)⟩,
    ⟨_, (h (sounding true) _ [] [] [1, 2] 3 true rfl).2.2.2.2.2.2 (.inl (by decide +kernel))⟩,
    ⟨_, (h (sounding true) _ [] [] [1, 2] 0 true rfl).2.2.2.2.2.2 (.inr (by decide +kernel))⟩⟩

/-! ## Timers -/

/-- Timer channel 15 is enabled with a period, and sources its captures from pin 31. -/
def ticking (period : W32) : State :=
  wr (Rg.TIMER_CAP_CFG + 4 * 15) 32 (wr (tmReg Rg.TIMER_PERIOD 15) period (wr (tmReg Rg.TIMER_CFG 15) 1 (wr (hdr Pg.TIMER Hdr.BLK_CTRL) 1 live)))

theorem witness_TimerRowsEnd (h : Obligations.TimerRowsEnd) :
    (∃ u, Ends (.timerTerminalTick 15) (ticking 1) u) ∧ (∃ u, Ends (.timerTick 15) (ticking 0) u)
    ∧ (∃ u, Ends (.timerSwReset hart 15 0) live u) ∧ (∃ u, Ends (.timerSwCap hart 15 0) live u)
    ∧ (∃ u, Ends (.timerCapture 15 true) (ticking 1) u) ∧ (∃ u, Ends (.timerCapture 15 false) (wr (Rg.TIMER_CAP_CFG + 4 * 15) 0x220 (ticking 1)) u)
    ∧ (∃ u, Ends (.capPopRead 0x44 15) { live with timer := { live.timer with queues := [(15, [⟨7, 9, true, false⟩])] } } u)
    ∧ (∃ u, Ends (.timerSnap hart 0) live u) :=
  ⟨⟨_, ((h hart 0 (ticking 1) _ _ 15 0x44 true rfl rfl (by decide)).1 rfl (by decide) (by decide +kernel) rfl (by decide +kernel) _ rfl).1 (by decide +kernel)⟩,
    ⟨_, ((h hart 0 (ticking 0) _ _ 15 0x44 true rfl rfl (by decide)).1 rfl (by decide) (by decide +kernel) rfl (by decide +kernel) _ rfl).2 (by decide +kernel)⟩,
    ⟨_, (h hart 0 live _ _ 15 0x44 true rfl rfl (by decide)).2.1 _ _ rfl rfl (lands_of (by decide +kernel)) (by decide) rfl⟩,
    ⟨_, (h hart 0 live _ _ 15 0x44 true rfl rfl (by decide)).2.2.1 _ _ rfl rfl (lands_of (by decide +kernel)) (by decide)⟩,
    ⟨_, (h hart 0 (ticking 1) _ _ 15 0x44 true rfl rfl (by decide)).2.2.2.1 rfl (by decide +kernel) (by decide +kernel) (by decide +kernel) (.inr (by decide +kernel))⟩,
    ⟨_, (h hart 0 (wr (Rg.TIMER_CAP_CFG + 4 * 15) 0x220 (ticking 1)) _ _ 15 0x44 false rfl rfl (by decide)).2.2.2.1 rfl (by decide +kernel) (by decide +kernel) (by decide +kernel) (.inl (by decide +kernel))⟩,
    ⟨_, (h hart 0 { live with timer := { live.timer with queues := [(15, [⟨7, 9, true, false⟩])] } } _ _ 15 0x44 true rfl rfl (by decide)).2.2.2.2.1 _ [] (reads_at (by decide +kernel)) rfl⟩,
    ⟨_, (h hart 0 live _ _ 15 0x44 true rfl rfl (by decide)).2.2.2.2.2 _ rfl (lands_of (by decide +kernel))⟩⟩

/-! ## Side ports -/

/-- Ethernet port 1 is up. -/
def online : State := wr (ethReg Rg.ETH_LINK_STAT 1) 1 (wr (hdr (ethPg 1) Hdr.BLK_CTRL) 1 live)

theorem witness_EthernetRowsEnd (h : Obligations.EthernetRowsEnd) :
    (∃ u, Ends (.ethRxFrame 1 [0xFF]) online u) ∧ (∃ u, Ends (.ethRxHeadWrite hart 1 0) live u) ∧ (∃ u, Ends (.ethTxqTailWrite hart 1 7 0) live u)
    ∧ (∃ u, Ends (.ethTxStart 1) online u)
    ∧ (∃ u, Ends (.ethTxDone 1) { online with port := { online.port with sending := [(1, ⟨7, 0, 0, false⟩)] } } u)
    ∧ (∃ u, Ends (.ethLinkChange 1 true 3 true) live u) ∧ (∃ u, Ends (.ethLinkChange 1 true 3 true) online u) :=
  ⟨⟨_, (h hart 0 online _ _ 1 7 3 true true [0xFF] rfl rfl (by decide)).1 (by decide +kernel) (by decide +kernel) (by decide +kernel)⟩,
    ⟨_, (h hart 0 live _ _ 1 7 3 true true [] rfl rfl (by decide)).2.1 _ rfl (lands_of (by decide +kernel))⟩,
    ⟨_, (h hart 0 live _ _ 1 7 3 true true [] rfl rfl (by decide)).2.2.1 _ rfl (by decide) (lands_of (by decide +kernel))⟩,
    ⟨_, (h hart 0 online _ _ 1 7 3 true true [] rfl rfl (by decide)).2.2.2.1 rfl (by decide +kernel) rfl⟩,
    ⟨_, (h hart 0 { online with port := { online.port with sending := [(1, ⟨7, 0, 0, false⟩)] } } _ _ 1 7 3 true true [] rfl rfl (by decide)).2.2.2.2.1 _ rfl⟩,
    ⟨_, (h hart 0 live _ _ 1 7 3 true true [] rfl rfl (by decide)).2.2.2.2.2 _ _ rfl rfl (by decide +kernel)⟩,
    ⟨_, (h hart 0 online _ _ 1 7 3 true true [] rfl rfl (by decide)).2.2.2.2.2 _ _ rfl rfl (by decide +kernel)⟩⟩

/-- I3C bus 3 is enabled, takes joins or not, with transfers of a kind and interrupts waiting. -/
def i3cOn (ctrl cfg : W32) (busy : W32) (l : List IbiEnt) : State :=
  wr (i3cReg Rg.I3C_XFER_STAT 3) busy (wr (i3cReg Rg.I3C_CFG 3) cfg (wr (i3cReg Rg.I3C_XFER_CTRL 3) ctrl (wr (hdr (Pg.I3C + 3) Hdr.BLK_CTRL) 1
    { live with port := { live.port with i3c := [(3, ⟨[], 0, l⟩)] } })))

theorem witness_I3cRowsEnd (h : Obligations.I3cRowsEnd) :
    (∃ u, Ends (.i3cPrivateXfer hart 3 0) (i3cOn 0 0 0 []) u) ∧ (∃ u, Ends (.i2cXfer hart 3 0) (i3cOn 0x100 0 0 []) u)
    ∧ (∃ u, Ends (.broadcastCcc hart 3 0) (i3cOn 0x200 0 0 []) u) ∧ (∃ u, Ends (.entdaa hart 3 0) (i3cOn 0x70200 0 0 []) u)
    ∧ (∃ u, Ends (.directCcc hart 3 0) (i3cOn 0x300 0 0 []) u) ∧ (∃ u, Ends (.i3cXferDone 3 0 1 [5]) (i3cOn 0 0 1 []) u)
    ∧ (∃ u, Ends (.i3cIbi 3 2 []) (i3cOn 0 0 0 []) u) ∧ (∃ u, Ends (.i3cIbi 3 9 []) (i3cOn 0 0 0 (List.replicate 8 ⟨0, [], 0⟩)) u)
    ∧ (∃ u, Ends (.i3cIbi 3 2 [1, 2, 3, 4, 5]) (i3cOn 0 0x10000 0 []) u)
    ∧ (∃ u, Ends (.ibiPopRead 0x44 3) (i3cOn 0 0 0 [⟨9, [1], 0⟩]) u) := by
  have go := fun s i => (h hart 0 s _ _ 3 0x44 0 1 2 [] rfl rfl (by decide)).1 _ _ i rfl rfl
  have on := fun s a l => (h hart 0 s _ _ 3 0x44 0 1 a l rfl rfl (by decide)).2
  exact ⟨⟨_, go (i3cOn 0 0 0 []) _ (lands_of (by decide +kernel)) (.inl ⟨by decide +kernel, rfl⟩)⟩,
    ⟨_, go (i3cOn 0x100 0 0 []) _ (lands_of (by decide +kernel)) (.inr (.inl ⟨by decide +kernel, rfl⟩))⟩,
    ⟨_, go (i3cOn 0x200 0 0 []) _ (lands_of (by decide +kernel)) (.inr (.inr (.inl ⟨by decide +kernel, by decide +kernel, rfl⟩)))⟩,
    ⟨_, go (i3cOn 0x70200 0 0 []) _ (lands_of (by decide +kernel)) (.inr (.inr (.inr (.inl ⟨by decide +kernel, rfl⟩))))⟩,
    ⟨_, go (i3cOn 0x300 0 0 []) _ (lands_of (by decide +kernel)) (.inr (.inr (.inr (.inr ⟨by decide +kernel, rfl⟩))))⟩,
    ⟨_, (on (i3cOn 0 0 1 []) 2 [5]).1 (by decide +kernel) (by decide +kernel)⟩,
    ⟨_, (on (i3cOn 0 0 0 []) 2 []).2.1 (by decide +kernel) (by decide +kernel) (.inr ⟨rfl, by decide +kernel⟩)⟩,
    ⟨_, (on (i3cOn 0 0 0 (List.replicate 8 ⟨0, [], 0⟩)) 9 []).2.1 (by decide +kernel) (by decide +kernel) (.inl (by decide +kernel))⟩,
    ⟨_, (on (i3cOn 0 0x10000 0 []) 2 [1, 2, 3, 4, 5]).2.2.1 _ (by decide +kernel) (by decide +kernel) (by decide +kernel) (fun _ => by decide +kernel) _ rfl rfl⟩,
    ⟨_, (on (i3cOn 0 0 0 [⟨9, [1], 0⟩]) 2 []).2.2.2 ⟨9, [1], 0⟩ [] (reads_at (by decide +kernel)) rfl _ rfl⟩⟩

/-- SPI controller 1 is busy, with a transfer armed or under way, a publication waiting, the target's buffer full or free. -/
def spiOn (armed : Option (Nat × Nat × List Byte)) (full : W32) : State :=
  wr Rg.SPI_TGT_CTRL full (wr (spiReg Rg.SPI_CTL_STAT 1) 1 { live with clk := { live.clk with line := 40 }, port := { live.port with
    spi := [(1, ⟨[], armed, 4⟩)], publish := true } })

theorem witness_SpiAndGpioRowsEnd (h : Obligations.SpiAndGpioRowsEnd) :
    (∃ u, Ends (.spiCtlGo hart 1 0) live u) ∧ (∃ u, Ends (.spiTimedStart 1) (spiOn (some (40, 39, [])) 0) u)
    ∧ (∃ u, Ends (.spiCtlDone 1 [1, 2]) (spiOn none 0) u)
    ∧ (∃ u, Ends (.spiTgtWrite 127 [1, 2]) (spiOn none 1) u) ∧ (∃ u, Ends (.spiTgtWrite 127 [1, 2]) (spiOn none 0) u)
    ∧ (∃ u, Ends (.spiTgtRead 127 2) (spiOn none 0) u) ∧ (∃ u, Ends .spiTgtStatus (spiOn none 0) u) ∧ (∃ u, Ends .spiTgtBadcmd (spiOn none 0) u)
    ∧ (∃ u, Ends (.spiPublish hart 0) live u) ∧ (∃ u, Ends .spiPublishApply (spiOn none 0) u) ∧ (∃ u, Ends (.spiRxFullClear hart 0) (spiOn none 1) u)
    ∧ (∃ u, Ends (.gpioEdge 31 true) live u) ∧ (∃ u, Ends (.gpioOutSet hart 0xFFFFFFFF) live u) ∧ (∃ u, Ends (.gpioOutClr hart 0xFFFFFFFF) live u) := by
  have one := fun s v l => h hart v s _ _ 1 127 2 true l rfl rfl
  have tgt := fun f => (one (spiOn none f) 0 [1, 2]).2.2.2.1 rfl
  exact ⟨⟨_, (one live 0 []).1 _ _ rfl rfl (by decide) (lands_of (by decide +kernel))⟩,
    ⟨_, (one (spiOn (some (40, 39, [])) 0) 0 []).2.1 _ _ rfl (by decide) rfl (by decide +kernel)⟩,
    ⟨_, (one (spiOn none 0) 0 [1, 2]).2.2.1 (by decide) (by decide +kernel) (by decide +kernel) (by decide +kernel)⟩,
    ⟨_, (tgt 1).1 (by decide +kernel) (by decide +kernel)⟩, ⟨_, (tgt 0).2.1 (by decide +kernel) (by decide +kernel) (by decide)⟩,
    ⟨_, (tgt 0).2.2.1⟩, ⟨_, (tgt 0).2.2.2.1 _ _ rfl⟩, ⟨_, (tgt 0).2.2.2.2⟩,
    ⟨_, (one live 0 []).2.2.2.2.1 _ rfl (lands_of (by decide +kernel)) (by decide) _ _ rfl rfl⟩,
    ⟨_, (one (spiOn none 0) 0 []).2.2.2.2.2.1 _ rfl rfl⟩,
    ⟨_, (one (spiOn none 1) 0 []).2.2.2.2.2.2.1 _ rfl (lands_of (by decide +kernel)) (by decide) _ rfl⟩,
    ⟨_, (h hart 0 live _ _ 31 0 0 true [] rfl rfl).2.2.2.2.2.2.2.1 (by decide) (by decide +kernel) (by decide +kernel) _ rfl _ rfl⟩,
    ⟨_, (one live 0xFFFFFFFF []).2.2.2.2.2.2.2.2.1 (lands_of (by decide +kernel))⟩,
    ⟨_, (one live 0xFFFFFFFF []).2.2.2.2.2.2.2.2.2 (lands_of (by decide +kernel))⟩⟩

/-! ## Safety -/

/-- A round of half 0 whose deadline is the first beat, in the score in force. -/
def aRound : RoundEnt := ⟨7, false, false, 0, 1, 0, 1, 0, 0, 0⟩

/-- Rounds are compared, a signature is under way, and hart 3 runs or is stopped. -/
def guarded (h : W32) : State :=
  wr (Rg.HART_STAT + 3 * 0x1000) h (wr Rg.SAFETY_ROUND_EN 1 { live with
    safety := { live.safety with sigs := [⟨7, 0, 0, 5⟩] },
    cantor := { live.cantor with score := some ⟨0, 0, 0, 1, [], [], [], [], [], [], [], [], [], [(0, [aRound])], []⟩ } })

theorem witness_WatchRowsEnd_rounds (w : Obligations.WatchRowsEnd) :
    (∃ u, Ends (.roundSignature 0) (guarded 1) u) ∧ (∃ u, Ends (.roundDeadline 7) (guarded 1) u)
    ∧ (∃ u, Ends (.unisonMismatch 3 0x1000) (guarded 1) u) ∧ (∃ u, Ends (.hartRestart hart 3 0) (wr Rg.HART_STAT 1 (guarded 2)) u) :=
  have h := w.1
  ⟨⟨_, (h hart 0 (guarded 1) _ _ 0 7 3 0x1000 rfl rfl).1 _ rfl⟩,
    ⟨_, (h hart 0 (guarded 1) _ _ 0 7 3 0x1000 rfl rfl).2.1 aRound (by decide +kernel) (by decide +kernel)⟩,
    ⟨_, (h hart 0 (guarded 1) _ _ 0 7 3 0x1000 rfl rfl).2.2.1 _ _ (by decide) (by decide +kernel) rfl rfl⟩,
    ⟨_, (h hart 0 (wr Rg.HART_STAT 1 (guarded 2)) _ _ 0 7 3 0x1000 rfl rfl).2.2.2 _ _ _ rfl rfl (by decide) rfl (lands_of (by decide +kernel))⟩⟩

/-- Watch 255 is of software, and has waited beyond its limit or not. -/
def watched : State :=
  wr Rg.AGEWATCH_AW_CTRL 1 (wr (Rg.AGEWATCH_AW_CFG + 4 * 255) 4 { live with safety := { live.safety with watch := [(255, ⟨1, false, true⟩)] } })

theorem witness_WatchRowsEnd_ages (w : Obligations.WatchRowsEnd) :
    (∃ u, Ends (.awCfgWrite hart 255 0) live u) ∧ (∃ u, Ends (.awFeedWrite hart 255) watched u) ∧ (∃ u, Ends (.ageExpiry 255) watched u) :=
  have h := w.2
  ⟨⟨_, (h hart 0 live _ _ 255 rfl rfl).1 _ _ rfl (by decide) rfl (lands_of (by decide +kernel))⟩,
    ⟨_, (h hart 255 watched _ _ 255 rfl rfl).2.1 (lands_of (by decide +kernel)) (by decide +kernel)⟩,
    ⟨_, (h hart 0 watched _ _ 255 rfl rfl).2.2 (by decide) (by decide +kernel) _ rfl⟩⟩



/-- FAULT_N is asserted and its release asked for, and the watchdog is due. -/
def faulty : State := wr Rg.FAULT_WDOG_CFG 1 (wr Rg.FAULT_WDOG_AGE 1 (wr Rg.FAULT_PIN 9 (wr Rg.FAULT_PIN_CFG 0 live)))

/-- The clocks are locked and the Bridge is up. -/
def settled : State := wr Rg.CLOCK_STAT 1 (wr Rg.BRIDGE_STAT 1 live)

theorem witness_FaultRowsEnd (h : Obligations.FaultRowsEnd) :
    (∃ u, Ends (.safetyFenceWrite hart 0) live u) ∧ (∃ u, Ends (.faultRaiseWrite hart 0xFFFF) live u) ∧ (∃ u, Ends (.classMapWrite hart 0x5E6AD658) live u)
    ∧ (∃ u, Ends (.classLockWrite hart 0) live u) ∧ (∃ u, Ends (.pinReleaseWrite hart 0) settled u) ∧ (∃ u, Ends .faultNRelease faulty u)
    ∧ (∃ u, Ends (.wdogCfgWrite hart 0xFFFF) live u) ∧ (∃ u, Ends (.wdogKick hart 0x5AFE) live u) ∧ (∃ u, Ends (.wdogKick hart 0) live u)
    ∧ (∃ u, Ends .wdogExpiry faulty u) :=
  ⟨⟨_, (h hart 0 live _ _ rfl rfl).1 (lands_of (by decide +kernel))⟩, ⟨_, (h hart 0xFFFF live _ _ rfl rfl).2.1 (lands_of (by decide +kernel))⟩,
    ⟨_, (h hart 0x5E6AD658 live _ _ rfl rfl).2.2.1 _ _ rfl rfl (lands_of (by decide +kernel))⟩,
    ⟨_, (h hart 0 live _ _ rfl rfl).2.2.2.1 _ _ _ rfl rfl rfl (lands_of (by decide +kernel))⟩,
    ⟨_, (h hart 0 settled _ _ rfl rfl).2.2.2.2.1 _ _ _ rfl rfl rfl (lands_of (by decide +kernel))⟩,
    ⟨_, (h hart 0 faulty _ _ rfl rfl).2.2.2.2.2.1 (by decide +kernel) (by decide +kernel) _ rfl⟩,
    ⟨_, (h hart 0xFFFF live _ _ rfl rfl).2.2.2.2.2.2.1 _ _ rfl rfl (lands_of (by decide +kernel))⟩,
    ⟨_, (h hart 0x5AFE live _ _ rfl rfl).2.2.2.2.2.2.2.1 (lands_of (by decide +kernel))⟩,
    ⟨_, (h hart 0 live _ _ rfl rfl).2.2.2.2.2.2.2.1 (lands_of (by decide +kernel))⟩,
    ⟨_, (h hart 0 faulty _ _ rfl rfl).2.2.2.2.2.2.2.2 (by decide +kernel)⟩⟩

/-! ## The Stave Link and the Hymnal -/

/-- Link port 1 is in training or trained and up, beside a state. -/
def joined (z : State) (train : Bool) (x : LinkPort) : State :=
  wr (slReg Rg.SLINK_PORT_STAT 1) (if train then 2 else 1) { z with link := { z.link with ports := [(1, x)] } }

def trainedPort : LinkPort := { LinkPort.reset with trained := true }

/-- The stave counter has come to line 200. -/
def later : State := { live with clk := { live.clk with line := 200 } }

theorem witness_LinkPortRowsEnd (h : Obligations.LinkPortRowsEnd) :
    (∃ u, Ends (.slinkEnable hart 1 0) live u) ∧ (∃ u, Ends (.slinkTrained 1 5) (joined live true LinkPort.reset) u)
    ∧ (∃ u, Ends (.slinkTrainTimeout 1) (joined later true LinkPort.reset) u) ∧ (∃ u, Ends (.slinkRetrain 1) (joined live false trainedPort) u)
    ∧ (∃ u, Ends (.slinkIdSend 1) (joined live false trainedPort) u) :=
  ⟨⟨_, (h hart 0 live _ _ 1 5 rfl rfl (by decide)).1 _ _ rfl rfl (lands_of (by decide +kernel)) (by decide) (by decide +kernel)⟩,
    ⟨_, (h hart 0 (joined live true LinkPort.reset) _ _ 1 5 rfl rfl (by decide)).2.1 (by decide +kernel) _ _ rfl rfl⟩,
    ⟨_, (h hart 0 (joined later true LinkPort.reset) _ _ 1 5 rfl rfl (by decide)).2.2.1 (by decide +kernel) (by decide +kernel)⟩,
    ⟨_, (h hart 0 (joined live false trainedPort) _ _ 1 5 rfl rfl (by decide)).2.2.2.1 (by decide +kernel) (by decide +kernel)⟩,
    ⟨_, (h hart 0 (joined live false trainedPort) _ _ 1 5 rfl rfl (by decide)).2.2.2.2 (by decide +kernel) _ rfl⟩⟩

/-- A flit of a type that keeps its check. -/
def aFlit (t : Byte) : List Byte := t :: List.replicate 29 0 ++ toLE 2 (crc16 (t :: List.replicate 29 0))

theorem witness_ReceivedFlitsEnd (h : Obligations.ReceivedFlitsEnd) (z : State) (hz : z = joined live false trainedPort) :
    (∃ u, Ends (.slinkRxIdle 1 (aFlit 0)) z u) ∧ (∃ u, Ends (.slinkRxId 1 (aFlit 1)) z u) ∧ (∃ u, Ends (.slinkRxWrite 1 (aFlit 2)) z u)
    ∧ (∃ u, Ends (.slinkRxEvent 1 (aFlit 3)) z u) ∧ (∃ u, Ends (.slinkRxAfterFault 1 (aFlit 4)) z u)
    ∧ (∃ u, Ends (.slinkRxBarrier 1 (aFlit 5) 0) z u) ∧ (∃ u, Ends (.slinkRxCal 1 (aFlit 6)) z u) ∧ (∃ u, Ends (.slinkRxCalEcho 1 (aFlit 7) 0) z u)
    ∧ (∃ u, Ends (.slinkRxNak 1 (aFlit 8)) z u) ∧ (∃ u, Ends (.slinkRxReserved 1 (aFlit 9)) z u) ∧ (∃ u, Ends (.slinkRxReserved 1 (aFlit 15)) z u)
    ∧ (∃ u, Ends (.slinkRxBadCrc 1 []) z u) := by
  subst hz
  have rx := fun l => h (joined live false trainedPort) _ _ 1 0 l rfl rfl (by decide) (by decide +kernel) (by decide +kernel) (by decide +kernel)
  refine ⟨⟨_, ((rx (aFlit 0)).1 (by decide +kernel)).1 (by decide +kernel)⟩, ⟨_, ((rx (aFlit 1)).1 (by decide +kernel)).2.1 (by decide +kernel)⟩,
    ⟨_, ((rx (aFlit 2)).1 (by decide +kernel)).2.2.1 (by decide +kernel)⟩, ⟨_, ((rx (aFlit 3)).1 (by decide +kernel)).2.2.2.1 (by decide +kernel)⟩,
    ⟨_, ((rx (aFlit 4)).1 (by decide +kernel)).2.2.2.2.1 (by decide +kernel)⟩, ⟨_, ((rx (aFlit 5)).1 (by decide +kernel)).2.2.2.2.2.1 (by decide +kernel)⟩,
    ⟨_, ((rx (aFlit 6)).1 (by decide +kernel)).2.2.2.2.2.2.1 (by decide +kernel)⟩, ⟨_, ((rx (aFlit 7)).1 (by decide +kernel)).2.2.2.2.2.2.2.1 (by decide +kernel)⟩,
    ⟨_, ((rx (aFlit 8)).1 (by decide +kernel)).2.2.2.2.2.2.2.2.1 (by decide +kernel)⟩,
    ⟨_, ((rx (aFlit 9)).1 (by decide +kernel)).2.2.2.2.2.2.2.2.2 (by decide +kernel)⟩,
    ⟨_, ((rx (aFlit 15)).1 (by decide +kernel)).2.2.2.2.2.2.2.2.2 (by decide +kernel)⟩, ⟨_, (rx []).2 (by decide +kernel)⟩⟩

/-- Device 1 of a locked chain with a port up, an echo and a barrier waiting, its lock under way. -/
def chained (f : LinkSt → LinkSt) : State :=
  wr Rg.SLINK_LOCK_STAT 1 (wr Rg.SLINK_ROUTE 1 (wr Rg.SLINK_DEV_NUM 1 (joined { live with link := f live.link } false trainedPort)))

theorem witness_LinkRequestsEnd (h : Obligations.LinkRequestsEnd) :
    (∃ u, Ends .calEchoSend { live with link := { live.link with echoes := [(1, aFlit 6)] } } u)
    ∧ (∃ u, Ends .barrierForward { live with link := { live.link with fwd := [(1, aFlit 5)] } } u)
    ∧ (∃ u, Ends (.slinkRwData hart 0) (chained id) u) ∧ (∃ u, Ends (.slinkEvSend hart 127) (chained id) u)
    ∧ (∃ u, Ends (.lockCal hart 0) live u) ∧ (∃ u, Ends .lockCalDone { live with link := { live.link with calOn := true, rtts := List.replicate 16 9 } } u)
    ∧ (∃ u, Ends (.lockTake hart 0) (chained id) u) ∧ (∃ u, Ends .lockDividerRelease { live with link := { live.link with take := .stopped 3 } } u)
    ∧ (∃ u, Ends (.lockRelease hart 0) live u) :=
  ⟨⟨_, (h hart 0 { live with link := { live.link with echoes := [(1, aFlit 6)] } } _ _ 1 (aFlit 6) rfl rfl).1 [] _ rfl rfl⟩,
    ⟨_, (h hart 0 { live with link := { live.link with fwd := [(1, aFlit 5)] } } _ _ 1 (aFlit 5) rfl rfl).2.1 [] _ rfl rfl⟩,
    ⟨_, (h hart 0 (chained id) _ _ 1 [] rfl rfl).2.2.1 (lands_of (by decide +kernel))⟩,
    ⟨_, (h hart 127 (chained id) _ _ 1 [] rfl rfl).2.2.2.1 (lands_of (by decide +kernel))⟩,
    ⟨_, (h hart 0 live _ _ 1 [] rfl rfl).2.2.2.2.1 _ _ rfl rfl (by decide) (by decide) (lands_of (by decide +kernel))⟩,
    ⟨_, (h hart 0 { live with link := { live.link with calOn := true, rtts := List.replicate 16 9 } } _ _ 1 [] rfl rfl).2.2.2.2.2.1 rfl _ _ _ _ rfl rfl rfl rfl⟩,
    ⟨_, (h hart 0 (chained id) _ _ 1 [] rfl rfl).2.2.2.2.2.2.1 _ _ rfl rfl (by decide) (by decide) (lands_of (by decide +kernel))⟩,
    ⟨_, (h hart 0 { live with link := { live.link with take := .stopped 3 } } _ _ 1 [] rfl rfl).2.2.2.2.2.2.2.1 3 rfl⟩,
    ⟨_, (h hart 0 live _ _ 1 [] rfl rfl).2.2.2.2.2.2.2.2 _ _ rfl rfl (by decide) (by decide) (lands_of (by decide +kernel))⟩⟩

/-- A replay is under way, its ring in DRAM, and a read of the host has waited for 75 lines. -/
def replayed0 (line : Nat) : State :=
  wr Rg.HYMNAL_REC_MASK 0xFFFFFFFF <| wr Rg.HYMNAL_STAT 1 (wr Rg.HYMNAL_CFG 1 { serving with
    clk := { serving.clk with line := line }, adm := { serving.adm with fetches := [waiting] } })

theorem lookup_keeps (l h c : Nat) (s : State) : (homeLookup l h c s).ms.marks = s.ms.marks
    ∧ (homeLookup l h c s).ms.poison = s.ms.poison ∧ (homeLookup l h c s).clk = s.clk := by
  have count : ∀ b t, (countLookup h c b t).ms.marks = t.ms.marks ∧ (countLookup h c b t).ms.poison = t.ms.poison
      ∧ (countLookup h c b t).clk = t.clk := fun b t => by cases b <;> exact ⟨rfl, rfl, rfl⟩
  have last : ∀ b t, (if b = true then t else setTouched l true t).ms.marks = t.ms.marks
      ∧ (if b = true then t else setTouched l true t).ms.poison = t.ms.poison
      ∧ (if b = true then t else setTouched l true t).clk = t.clk := fun b t => by cases b <;> exact ⟨rfl, rfl, rfl⟩
  unfold homeLookup
  split; rename_i b t e
  have : t.ms.marks = s.ms.marks ∧ t.ms.poison = s.ms.poison ∧ t.clk = s.clk := by
    revert e; cases kvGet false s.ms.touched l <;> intro e <;> cases e <;> exact ⟨rfl, rfl, rfl⟩
  exact ⟨((last _ _).1.trans (count _ _).1).trans this.1, ((last _ _).2.1.trans (count _ _).2.1).trans this.2.1,
    ((last _ _).2.2.trans (count _ _).2.2).trans this.2.2⟩

/-- The first line of DRAM is read whole, whatever class of the cache the reader has. -/
theorem dev_reads (c : Nat) (s : State) (r : reaches s 0 0 = true) (t : targetOf s.member 0 = .dram) (d : 64 ≤ dramTop s.member)
    (h : homeOf s.member 0 = 0) (m : s.ms.marks = []) (w : s.ms.poison = []) :
    ∃ x y, devRead c 0 64 s = (x, false, y) ∧ y.clk = s.clk := by
  have k := lookup_keeps 0 0 c s
  refine ⟨memRead (homeLookup 0 0 c s) 0 64, homeLookup 0 0 c s, ?_, k.2.2⟩
  have p : linePieces 0 64 = [(0, 64)] := by decide
  simp [devRead, homeRead, r, t, d, p, lineRead, h, readErrs, k.1, k.2.1, m, w]

theorem witness_HymnalRowsEnd (h : Obligations.HymnalRowsEnd) :
    (∃ u, Ends (.hymnalEnable hart 0) live u) ∧ (∃ u, Ends (.hymnalRdSeqWrite hart 0) live u) ∧ (∃ u, Ends (.hymnalWrSeqWrite hart 0xFFFFFFFF) (wr Rg.HYMNAL_CFG 1 live) u)
    ∧ (∃ u, Ends .hymnalReplayIssue (replayed0 0) u) ∧ (∃ u, Ends .hymnalReadTimeout (replayed0 75) u) := by
  obtain ⟨d, y, hd, hc⟩ := dev_reads clsHymnal (newEdge (replayed0 0)) (by decide +kernel) (by decide +kernel) (by decide +kernel)
    (by decide +kernel) (by decide +kernel) (by decide +kernel)
  exact ⟨⟨_, (h hart 0 live _ _ rfl rfl).1 _ _ _ rfl rfl rfl (lands_of (by decide +kernel)) (by decide) (by decide +kernel)⟩,
    ⟨_, (h hart 0 live _ _ rfl rfl).2.1 (lands_of (by decide +kernel))⟩,
    ⟨_, (h hart 0xFFFFFFFF (wr Rg.HYMNAL_CFG 1 live) _ _ rfl rfl).2.2.1 (lands_of (by decide +kernel))⟩,
    ⟨_, (h hart 0 (replayed0 0) _ _ rfl rfl).2.2.2.1 _ _ d y (by decide +kernel) (by decide +kernel : 0 = _) rfl (by decide +kernel) hd
      (by rw [stimeNow, hc]; decide +kernel)⟩,
    ⟨_, (h hart 0 (replayed0 75) _ _ rfl rfl).2.2.2.2 waiting _ (by decide +kernel) (by decide +kernel) ⟨0, 0, rfl, by decide +kernel⟩ rfl⟩⟩

/-! ## Weevil and debug -/

/-- Weevil's first key has been given and lasts until a sub-beat, and a register write waits at the point of a core's
register writes. -/
def keyed (until_ : Nat) : State :=
  wr Rg.WEEVIL_STAT 8 { live with weevil := { live.weevil with keyEnd := until_, held := [⟨0x40, .msg (.faultN true), true, 0, 0⟩] } }

theorem witness_WeevilRowsEnd (h : Obligations.WeevilRowsEnd) :
    (∃ u, Ends (.weevilArmKey1 hart) live u) ∧ (∃ u, Ends (.weevilArmKey2 hart) (keyed 100) u) ∧ (∃ u, Ends (.weevilDisarm hart 0) (keyed 100) u)
    ∧ (∃ u, Ends (.weevilDisarm hart 0x564C) (keyed 0) u) ∧ (∃ u, Ends .weevilKey1Expiry (keyed 0) u) ∧ (∃ u, Ends (.weevilFire hart 0xFF) live u)
    ∧ (∃ u, Ends (.weevilUnitRelease 0x40) (keyed 0) u) :=
  ⟨⟨_, (h hart 0 live _ _ 0 rfl rfl).1 _ _ rfl rfl (lands_of (by decide +kernel))⟩,
    ⟨_, (h hart 0 (keyed 100) _ _ 0 rfl rfl).2.1 _ _ rfl rfl (lands_of (by decide +kernel)) (by decide +kernel)⟩,
    ⟨_, (h hart 0 (keyed 100) _ _ 0 rfl rfl).2.2.1 _ _ rfl rfl (lands_of (by decide +kernel)) (by decide) (.inl (by decide))⟩,
    ⟨_, (h hart 0x564C (keyed 0) _ _ 0 rfl rfl).2.2.1 _ _ rfl rfl (lands_of (by decide +kernel)) (by decide) (.inr (by decide +kernel))⟩,
    ⟨_, (h hart 0 (keyed 0) _ _ 0 rfl rfl).2.2.2.1 (by decide +kernel) (by decide +kernel)⟩,
    ⟨_, (h hart 0xFF live _ _ 0 rfl rfl).2.2.2.2.1 (lands_of (by decide +kernel))⟩,
    ⟨_, (h hart 0 (keyed 0) _ _ 0x40 rfl rfl).2.2.2.2.2 ⟨0x40, .msg (.faultN true), true, 0, 0⟩ (by decide +kernel)⟩⟩

/-- Debug is allowed; hart 3 runs or has halted, and DM_CONTROL holds a request for it. -/
def debugged (halted : Bool) (ctrl : W32) : State :=
  wr Rg.DEBUG_CTRL 1 (wr (Rg.HART_STAT + 3 * 0x1000) 1 { live with dbg := { live.dbg with
    dm := [(0x10, ctrl)], harts := [(3, { hartSt live 3 with halted := halted })] } })

theorem witness_DebugRowsEnd_control (w : Obligations.DebugRowsEnd) :
    (∃ u, Ends (.debugAllowWrite hart 1) live u) ∧ (∃ u, Ends (.debugAllowWrite hart 0) (debugged false 0) u)
    ∧ (∃ u, Ends (.debugHalt 3 0x1000 true) (debugged false 0) u) ∧ (∃ u, Ends (.debugHalt 3 0x1000 false) (debugged false 0x80030001) u)
    ∧ (∃ u, Ends (.debugResume 3) (debugged true 0x40030001) u) ∧ (∃ u, Ends (.debugStep 3) (debugged true 0) u)
    ∧ (∃ u, Ends (.accessRegister 3 0x101F (some 5)) (debugged true 0) u) ∧ (∃ u, Ends (.accessRegister 3 0x1000 none) (debugged true 0) u)
    ∧ (∃ u, Ends (.accessRegister 3 0 none) (debugged true 0) u) := by
  have go := fun s v k b => (w.1 hart v s _ _ 3 0x1000 k b rfl rfl).2 (by decide)
  exact ⟨⟨_, (w.1 hart 1 live _ _ 3 0 0 true rfl rfl).1 _ _ rfl rfl (lands_of (by decide +kernel))⟩,
    ⟨_, (w.1 hart 0 (debugged false 0) _ _ 3 0 0 true rfl rfl).1 _ _ rfl rfl (lands_of (by decide +kernel))⟩,
    ⟨_, (go (debugged false 0) 0 0 true (by decide +kernel)).1 _ _ (by decide +kernel) (by decide +kernel) (.inl rfl) rfl rfl⟩,
    ⟨_, (go (debugged false 0x80030001) 0 0 false (by decide +kernel)).1 _ _ (by decide +kernel) (by decide +kernel) (.inr (by decide +kernel)) rfl rfl⟩,
    ⟨_, (go (debugged true 0x40030001) 0 0 false (by decide +kernel)).2.1 _ (by decide +kernel) (by decide +kernel) rfl⟩,
    ⟨_, (go (debugged true 0) 0 0 false (by decide +kernel)).2.2.1 _ _ _ (by decide +kernel) (pair _) rfl⟩,
    ⟨_, ((go (debugged true 0) 5 0x101F false (by decide +kernel)).2.2.2 (by decide +kernel) (by decide)).1⟩,
    ⟨_, ((go (debugged true 0) 5 0x1000 false (by decide +kernel)).2.2.2 (by decide +kernel) (by decide)).2 _ _ (pair _)⟩,
    ⟨_, ((go (debugged true 0) 5 0 false (by decide +kernel)).2.2.2 (by decide +kernel) (by decide)).2 _ _ (pair _)⟩⟩

theorem witness_DebugRowsEnd_bus (w : Obligations.DebugRowsEnd) (z : State) (hz : z = debugged false 0) :
    (∃ u, Ends (.systemBusAccess 0x40000000 1 (some 5) true) z u) ∧ (∃ u, Ends (.systemBusAccess 0x4FFFFFFC 4 none true) z u)
    ∧ (∃ u, Ends (.systemBusAccess 0x50000000 2 (some 5) true) z u) ∧ (∃ u, Ends (.systemBusAccess 0x5005FFFC 4 (some 5) true) z u)
    ∧ (∃ u, Ends (.systemBusAccess 0x50050000 1 none false) z u) ∧ (∃ u, Ends (.systemBusAccess 0x5006FFFC 4 none false) z u)
    ∧ (∃ u, Ends (.systemBusAccess 0 8 (some 5) true) z u) ∧ (∃ u, Ends (.systemBusAccess 1 2 (some 5) true) z u) := by
  subst hz
  have bus := fun a n b => w.2 (debugged false 0) _ a n 5 b rfl (by decide +kernel)
  exact ⟨⟨_, (((bus 0x40000000 1 true).1 (.inl rfl) rfl).1 0 rfl (by decide)).1⟩,
    ⟨_, (((bus 0x4FFFFFFC 4 true).1 (.inr (.inr rfl)) rfl).1 0xFFFFFFC rfl (by decide)).2 _ _ (pair _)⟩,
    ⟨_, ((bus 0x50000000 2 true).1 (.inr (.inl rfl)) rfl).2.1 (by decide) (by decide)⟩,
    ⟨_, ((bus 0x5005FFFC 4 true).1 (.inr (.inr rfl)) rfl).2.1 (by decide) (by decide)⟩,
    ⟨_, ((bus 0x50050000 1 false).1 (.inl rfl) rfl).2.2 (by decide) (by decide)⟩,
    ⟨_, ((bus 0x5006FFFC 4 false).1 (.inr (.inr rfl)) rfl).2.2 (by decide) (by decide)⟩,
    ⟨_, (bus 0 8 true).2.1 (by decide)⟩, ⟨_, (bus 1 2 true).2.2 (.inr (.inl rfl)) (by decide)⟩⟩

/-- The TAP while PORST_N is low, and with debug allowed. -/
theorem witness_TapHoldAndTraceEnd_tap (w : Obligations.TapHoldAndTraceEnd) :
    (∃ u, Ends .idcode guardOn u) ∧ (∃ u, Ends .tapReset guardOn u) ∧ (∃ u, Ends .clamp guardOn u) ∧ (∃ u, Ends .highz guardOn u)
    ∧ (∃ u, Ends (.bypass 5) guardOn u) ∧ (∃ u, Ends (.extest 1) (debugged false 0) u) ∧ (∃ u, Ends (.samplePreload 1) guardOn u)
    ∧ (∃ u, Ends (.dtmcs 0x30000) guardOn u) ∧ (∃ u, Ends (.dtmcs 0) guardOn u) ∧ (∃ u, Ends (.dmi 1 0x11 0) (debugged false 0) u)
    ∧ (∃ u, Ends (.dmi 2 0x10 1) (debugged false 0) u) ∧ (∃ u, Ends (.dmi 0 0 0) (debugged false 0) u) ∧ (∃ u, Ends (.dmi 3 0 0) (debugged false 0) u) := by
  have g := fun ir x op a d t => w.1 guardOn _ t ir x op a d rfl rfl
  have dm := fun op a d => (w.1 (debugged false 0) _ { newEdge (debugged false 0) with dbg := { (newEdge (debugged false 0)).dbg with ir := 0x11 } }
    0 0 op a d rfl rfl).2.2.2.2.2.2.2.2 (by decide +kernel) rfl
  exact ⟨⟨_, (g 0 0 0 0 0 guardOn).1⟩, ⟨_, (g 0 0 0 0 0 guardOn).2.1⟩, ⟨_, (g 0 0 0 0 0 guardOn).2.2.1⟩, ⟨_, (g 0 0 0 0 0 guardOn).2.2.2.1⟩,
    ⟨_, (g 5 0 0 0 0 guardOn).2.2.2.2.1 (by decide +kernel)⟩,
    ⟨_, (w.1 (debugged false 0) _ _ 0 0 0 0 1 rfl rfl).2.2.2.2.2.1 (by decide +kernel) rfl⟩,
    ⟨_, (g 0 0 0 0 1 _).2.2.2.2.2.2.1 (by decide +kernel) rfl⟩,
    ⟨_, (g 0 0x30000 0 0 0 _).2.2.2.2.2.2.2.1 _ _ _ (by decide +kernel) rfl (pair _) rfl⟩,
    ⟨_, (g 0 0 0 0 0 _).2.2.2.2.2.2.2.1 _ _ _ (by decide +kernel) rfl (pair _) rfl⟩,
    ⟨_, (dm 1 0x11 0).1 _ _ rfl (pair _)⟩, ⟨_, (dm 2 0x10 1).2.1 rfl⟩, ⟨_, (dm 0 0 0).2.2 (by decide) (by decide)⟩,
    ⟨_, (dm 3 0 0).2.2 (by decide) (by decide)⟩⟩

/-- A hold has been asked for. -/
def holding : State := wr Rg.DEBUG_HOLD_STAT 1 live

theorem witness_TapHoldAndTraceEnd_hold (w : Obligations.TapHoldAndTraceEnd) :
    (∃ u, Ends (.holdReq hart 4) live u) ∧ (∃ u, Ends (.holdRelease hart 0) holding u) ∧ (∃ u, Ends (.traceMark hart 7) live u)
    ∧ (∃ u, Ends (.traceDataRead 0x44) (wr Rg.DEBUG_TRACE_IDX 0x3FFF live) u) :=
  ⟨⟨_, (w.2 hart 4 live _ _ 0 0 rfl rfl).1 _ _ _ rfl rfl (by decide) rfl (lands_of (by decide +kernel))⟩,
    ⟨_, (w.2 hart 0 holding _ _ 0 0 rfl rfl).2.1 _ _ _ rfl rfl (by decide) rfl (lands_of (by decide +kernel))⟩,
    ⟨_, (w.2 hart 7 live _ _ 0 0 rfl rfl).2.2.1 (lands_of (by decide +kernel))⟩,
    ⟨_, (w.2 hart 0 (wr Rg.DEBUG_TRACE_IDX 0x3FFF live) _ _ 0x44 _ rfl rfl).2.2.2 (reads_at (by decide +kernel)) rfl⟩⟩

/-! ## The queue, what every command leaves, and where the model stops -/

theorem witness_StepTakesTheFrontCommand (h : Obligations.StepTakesTheFrontCommand) :
    (∃ t, Sys2Proof.Machine.step { guardOn with pending := [.tapReset, .idcode] } = .next t)
    ∧ Sys2Proof.Machine.step State.reset = .next State.reset
    ∧ Sys2Proof.Machine.step { live with clk := { live.clk with beat := 63, sub := 31 } } = .next { live with clk := { live.clk with beat := 63, sub := 31 } }
    ∧ (∃ t, Sys2Proof.Machine.step live = .next t) ∧ (∃ t, Sys2Proof.Machine.step { live with clk := { live.clk with beat := 63, sub := 30 } } = .next t) :=
  ⟨⟨_, ((h { guardOn with pending := [.tapReset, .idcode] } .tapReset [.idcode]).1 rfl).trans rfl⟩,
    (h State.reset .tapReset []).2.1 rfl (.inl rfl), (h _ .tapReset []).2.1 rfl (.inr ⟨rfl, rfl⟩),
    ⟨_, (h live .tapReset []).2.2 _ _ rfl rfl (by decide) rfl rfl⟩,
    ⟨_, (h { live with clk := { live.clk with beat := 63, sub := 30 } } .tapReset []).2.2 _ _ rfl rfl (by decide) rfl rfl⟩⟩

theorem witness_EveryStepSettles (h : Obligations.EveryStepSettles) :
    ∃ t, Sys2Proof.Machine.step { guardOn with pending := [.tapReset] } = .next t ∧ Settled t :=
  ⟨_, rfl, h { guardOn with pending := [.tapReset] } _
    ⟨⟨by decide +kernel, by decide +kernel, by decide +kernel, by decide +kernel, by decide +kernel⟩, rfl, rfl⟩ rfl⟩

theorem witness_OnlyUndefinedCasesStop (h : Obligations.OnlyUndefinedCasesStop) :
    unpowered.boot.powered = false ∧ (∃ v, Instr.porstNRise 0 = .porstNRise v) ∧ imageBroken imageHit = true
    ∧ (∃ k, streamHit (running 0 true) k = true) ∧ (∃ (k j x : Nat) (w : Option Nat),
      Instr.commandFetch 0 none .peer ∈ [Instr.descriptorArrival k .peer, .fragmentHeaderArrival k j .peer, .accessComplete k j x .peer,
        .commandFetch k w .peer, .load k .peer, .store k .peer, .atomicAdd k .peer, .atomicMax k .peer, .chaferWindowStart k .peer,
        .chaferOpenTake k .peer, .chaferSetupDone k .peer, .chaferEvalEnd k j .peer]) := by
  have a := (h (.porstNRise 0) unpowered).2.1 rfl
  have b := (h (.lineBoundary []) imageHit).2.2.1 rfl
  have c := (h (.taskEnd 0) (running 0 true)).2.2.2.1 rfl
  have d := (h (.commandFetch 0 none .peer) (running 0 false)).2.2.2.2 rfl
  refine ⟨a.1, a.2, b.elim (·.1) (fun x => ?_), ?_, d⟩
  · cases x.2
  · obtain ⟨k, hk, -⟩ := c
    exact ⟨k, hk⟩

/-! ## Authority, verdicts and the change roll -/

/-- Page STAVE has an owner and a mask, after S6. -/
def owned (owner mask : W32) : State := wr (hdr Pg.STAVE Hdr.PAGE_WMASK) mask (wr (hdr Pg.STAVE Hdr.PAGE_OWNER) owner live)

/-- What the statements of authority ask of a page and a write, evaluated. -/
def pageOk (s : State) (q : Req) (p : Nat) : Bool :=
  (pageDesc p).isSome && present s.member p && (!beforeS6 s || p == Pg.BOOT || q.origin == 0 || q.origin == 0x42) && q.be % 16 == 15
    && !isTenantPage p

theorem page_parts {s : State} {q : Req} {p : Nat} (h : pageOk s q p = true) : ∃ d, pageDesc p = some d ∧ present s.member p = true
    ∧ (beforeS6 s = true → p = Pg.BOOT ∨ q.origin = 0 ∨ q.origin = 0x42) ∧ q.be % 16 = 15 ∧ isTenantPage p = false := by
  simp only [pageOk, Bool.and_eq_true, Bool.not_eq_true', beq_iff_eq, Bool.or_eq_true] at h
  obtain ⟨⟨⟨⟨a, b⟩, c⟩, d⟩, e⟩ := h
  obtain ⟨x, hx⟩ := Option.isSome_iff_exists.mp a
  refine ⟨x, hx, b, fun k => ?_, d, e⟩
  rw [k] at c
  simp only [Bool.true_eq_false, false_or] at c
  omega

theorem owner_iff (h : Obligations.OwnerRegistersIgnoreTheMask) (s : State) (q : Req) (p off : Nat)
    (ho : off = Hdr.PAGE_OWNER ∨ off = Hdr.PAGE_WMASK) (k : pageOk s q p = true) :
    pageVerdict s q p off true 0 = some 5 ↔ ¬ ((0x44 ≤ q.origin ∧ q.origin ≤ 0x47)
      ∨ (q.origin = 0x41 ∧ 1 ≤ rdF s (hdr p Hdr.PAGE_OWNER) 7 0 ∧ rdF s (hdr p Hdr.PAGE_OWNER) 7 0 ≤ 0x41)) := by
  obtain ⟨d, a, b, c, e, f⟩ := page_parts k
  exact h s q p off _ d 0 a b c e f ho rfl

theorem witness_OwnerRegistersIgnoreTheMask (h : Obligations.OwnerRegistersIgnoreTheMask) :
    pageVerdict (owned 0 0x7F) { origin := 0x48 } Pg.STAVE Hdr.PAGE_OWNER true 0 = some 5
    ∧ pageVerdict (owned 0 0x7F) { origin := 0x43 } Pg.STAVE Hdr.PAGE_WMASK true 0 = some 5
    ∧ pageVerdict (owned 0 0) { origin := 0x44 } Pg.STAVE Hdr.PAGE_OWNER true 0 ≠ some 5
    ∧ pageVerdict (owned 0 0) { origin := 0x47 } Pg.STAVE Hdr.PAGE_WMASK true 0 ≠ some 5
    ∧ pageVerdict (owned 1 0) { origin := 0x41 } Pg.STAVE Hdr.PAGE_OWNER true 0 ≠ some 5
    ∧ pageVerdict (owned 0x41 0) { origin := 0x41 } Pg.STAVE Hdr.PAGE_OWNER true 0 ≠ some 5
    ∧ pageVerdict (owned 0 0) { origin := 0x41 } Pg.STAVE Hdr.PAGE_OWNER true 0 = some 5
    ∧ pageVerdict (owned 0x42 0) { origin := 0x41 } Pg.STAVE Hdr.PAGE_OWNER true 0 = some 5
    ∧ pageVerdict (inBoot 1) { origin := 0x43 } Pg.BOOT Hdr.PAGE_OWNER true 0 = some 5
    ∧ pageVerdict (inBoot 1) { origin := 0 } Pg.STAVE Hdr.PAGE_OWNER true 0 = some 5
    ∧ pageVerdict (inBoot 1) { origin := 0x42 } Pg.STAVE Hdr.PAGE_OWNER true 0 = some 5 := by
  have yes := fun s q p off ho k => (owner_iff h s q p off ho k).mpr
  have no := fun s q p off ho k r e => (owner_iff h s q p off ho k).mp e r
  exact ⟨yes _ _ _ _ (.inl rfl) (by decide +kernel) (by decide +kernel), yes _ _ _ _ (.inr rfl) (by decide +kernel) (by decide +kernel),
    no _ _ _ _ (.inl rfl) (by decide +kernel) (by decide +kernel), no _ _ _ _ (.inr rfl) (by decide +kernel) (by decide +kernel),
    no _ _ _ _ (.inl rfl) (by decide +kernel) (by decide +kernel), no _ _ _ _ (.inl rfl) (by decide +kernel) (by decide +kernel),
    yes _ _ _ _ (.inl rfl) (by decide +kernel) (by decide +kernel), yes _ _ _ _ (.inl rfl) (by decide +kernel) (by decide +kernel),
    yes _ _ _ _ (.inl rfl) (by decide +kernel) (by decide +kernel), yes _ _ _ _ (.inl rfl) (by decide +kernel) (by decide +kernel),
    yes _ _ _ _ (.inl rfl) (by decide +kernel) (by decide +kernel)⟩

/-- The origins that a mask and an owner let write. -/
abbrev Allowed (m w o : Nat) : Prop :=
  o = 0 ∨ (1 ≤ o ∧ o ≤ 0x40 ∧ bit m 6 = true ∧ w = o) ∨ (o = 0x41 ∧ bit m 0 = true) ∨ (0x44 ≤ o ∧ o ≤ 0x47 ∧ bit m 1 = true)
    ∨ (o = 0x48 ∧ bit m 2 = true) ∨ (o = 0x49 ∧ bit m 3 = true) ∨ (o = 0x4B ∧ bit m 5 = true)

theorem mask_iff (h : Obligations.WritersFollowTheMask) (s : State) (q : Req) (p off : Nat)
    (k : pageOk s q p = true ∧ (beforeS6 s = true → p = Pg.BOOT ∨ q.origin = 0) ∧ q.origin ≠ 0x42) :
    pageVerdict s q p off false 0 = some 5 ↔ ¬ (if q.origin = 0x4A then bit (rdN s (hdr p Hdr.PAGE_WMASK)) 4 = true
        ∧ Allowed (rdN s (hdr p Hdr.PAGE_WMASK)) (rdF s (hdr p Hdr.PAGE_OWNER) 7 0) (q.aux % 256)
      else Allowed (rdN s (hdr p Hdr.PAGE_WMASK)) (rdF s (hdr p Hdr.PAGE_OWNER) 7 0) q.origin) := by
  obtain ⟨d, a, b, -, e, f⟩ := page_parts k.1
  exact h s q p off _ _ false d 0 _ a b k.2.1 e f k.2.2 (fun x => nomatch x.1) rfl rfl (fun _ => Iff.rfl)

/-- Each class at its bit alone, and with every bit but its own. -/
theorem witness_WritersFollowTheMask (h : Obligations.WritersFollowTheMask) :
    (∀ x ∈ [(0, 0), (1, 0x40), (0x41, 1), (0x44, 2), (0x47, 2), (0x48, 4), (0x49, 8), (0x4B, 0x20)],
      pageVerdict (owned 1 x.2) { origin := x.1 } Pg.STAVE 0x40 false 0 ≠ some 5)
    ∧ (∀ x ∈ [(1, 0x3F), (2, 0x7F), (0x41, 0x7E), (0x43, 0x7F), (0x44, 0x7D), (0x47, 0x7D), (0x48, 0x7B), (0x49, 0x77), (0x4A, 0x6F), (0x4B, 0x5F)],
      pageVerdict (owned 1 x.2) { origin := x.1 } Pg.STAVE 0x40 false 0 = some 5)
    ∧ pageVerdict (owned 0x40 0x40) { origin := 0x40 } Pg.STAVE 0x40 false 0 ≠ some 5
    ∧ pageVerdict (owned 1 0x12) { origin := 0x4A, aux := 0x44 } Pg.STAVE 0x40 false 0 ≠ some 5
    ∧ pageVerdict (owned 1 0x10) { origin := 0x4A, aux := 0x44 } Pg.STAVE 0x40 false 0 = some 5
    ∧ pageVerdict (inBoot 1) { origin := 0x43 } Pg.BOOT 0x40 false 0 = some 5 := by
  refine ⟨fun x hx e => ?_, fun x hx => ?_, fun e => ?_, fun e => ?_, ?_, ?_⟩
  · refine absurd ((mask_iff h _ _ _ _ ?_).mp e) ?_ <;> clear e <;> revert x <;> decide +kernel
  · refine (mask_iff h _ _ _ _ ?_).mpr ?_ <;> revert x <;> decide +kernel
  · exact absurd ((mask_iff h _ _ _ _ (by decide +kernel)).mp e) (by decide +kernel)
  · exact absurd ((mask_iff h _ _ _ _ (by decide +kernel)).mp e) (by decide +kernel)
  · exact (mask_iff h _ _ _ _ (by decide +kernel)).mpr (by decide +kernel)
  · exact (mask_iff h _ _ _ _ (by decide +kernel)).mpr (by decide +kernel)

/-- AUTH.LOCK has a value. -/
def locked (v : W32) : State := wr Rg.AUTH_LOCK v live

theorem witness_LockedHeadersAreRefused (h : Obligations.LockedHeadersAreRefused) :
    pageVerdict (locked 2) hart Pg.STAVE Hdr.PAGE_WMASK true 0 = some 12
    ∧ pageVerdict (locked 1) hart Pg.AUTH Hdr.PAGE_WMASK true 0 = some 12
    ∧ pageVerdict (locked 2) { origin := 0x48 } Pg.STAVE Hdr.PAGE_OWNER true 0 ≠ none := by
  have p := descOf_eq (p := Pg.STAVE) (by decide +kernel)
  have a := descOf_eq (p := Pg.AUTH) (by decide +kernel)
  exact ⟨(h (locked 2) hart _ _ _ 0 p (.inr rfl) (.inl (by decide +kernel))).2 (by decide +kernel) (by decide +kernel) rfl
      (by decide +kernel) (by decide +kernel) (by decide +kernel),
    (h (locked 1) hart _ _ _ 0 a (.inr rfl) (.inr ⟨by decide +kernel, by decide +kernel⟩)).2 (by decide +kernel) (by decide +kernel) rfl
      (by decide +kernel) (by decide +kernel) (by decide +kernel),
    (h (locked 2) { origin := 0x48 } _ _ _ 0 p (.inl rfl) (.inl (by decide +kernel))).1⟩

/-- Weevil is armed, and rule 7 is enabled. -/
def armed : State := wr (Rg.WEEVIL_WV_CTRL + 32 * 7) 0x11 (wr Rg.WEEVIL_STAT 1 live)

theorem witness_ArmedRulesStand (h : Obligations.ArmedRulesStand) :
    pageVerdict armed hart Pg.WEEVIL (0x100 + 32 * 7 + 24) false 0 = some 9 ∧ pageVerdict armed hart Pg.WEEVIL (0x100 + 32 * 7) false 0 = some 9
    ∧ pageVerdict armed hart Pg.WEEVIL (0x100 + 32 * 7) false 0x10 ≠ some 9 ∧ pageVerdict armed hart Pg.WEEVIL 0x100 false 0 = some 9 := by
  have go := fun r k v hr hk a => h armed hart r k v _ hr hk (by decide +kernel) rfl (by decide +kernel) a (by decide +kernel) rfl
  exact ⟨(go 7 24 0 (by decide) (by decide) (by decide +kernel)).mpr (by decide +kernel),
    (go 7 0 0 (by decide) (by decide) (by decide +kernel)).mpr (by decide +kernel),
    fun e => absurd (by decide +kernel) ((go 7 0 0x10 (by decide) (by decide) (by decide +kernel)).mp e),
    (go 0 0 0 (by decide) (by decide) (by decide +kernel)).mpr (by decide +kernel)⟩

/-- An entry of the roll. -/
def anEntry : RollEntry := ⟨0, 0, 0, 0, 0, false, false, false, false, false, 0, 0, 0, 0, 0, 0⟩

/-- The roll is full, in its mode, with its tail. -/
def rolled (mode tail : W32) : State :=
  wr Rg.ROLL_TAIL_SEQ tail (wr Rg.ROLL_NEXT_SEQ 16384 (wr Rg.ROLL_CTRL mode
    { live with roll := { live.roll with entries := List.replicate 16384 anEntry } }))

theorem witness_WrapOverwritesTheOldest (h : Obligations.WrapOverwritesTheOldest) :
    rd (rollPut anEntry (rolled 0 0)) Rg.ROLL_TAIL_SEQ = 1 ∧ rd (rollPut anEntry (rolled 0 5)) Rg.ROLL_TAIL_SEQ = 5 := by
  have go := fun tail k => h (rolled 0 tail) _ anEntry _ _ _ k (List.length_replicate) rfl rfl rfl rfl
  exact ⟨((go 0 (by decide +kernel)).2.2.2.1 (by decide +kernel)).1, ((go 5 (by decide +kernel)).2.2.2.2.1 (by decide +kernel)).1⟩

theorem witness_FullHoldMakesNoEntry (h : Obligations.FullHoldMakesNoEntry) :
    rollPut anEntry (rolled 1 0) = setEvt Pg.ROLL 2 (bump Rg.ROLL_LOST (rolled 1 0))
    ∧ (∃ t, refuse hart ⟨.page 1 0 false, 1, 0, some 1⟩ 1 0 0 (rolled 1 0) = t) :=
  have r := h (rolled 1 0) hart 1 anEntry ⟨.page 1 0 false, 1, 0, some 1⟩ (by decide +kernel) (by decide +kernel) (by decide +kernel)
  ⟨r.1, _, r.2.2.2 0 0 _ rfl rfl⟩

/-- Of each way of access a field, at its lowest bit, and of some register a bit of no field. -/
theorem witness_FieldsFollowTheirAccess (h : Obligations.FieldsFollowTheirAccess) :
    (∀ a ∈ [Acc.ro, .rw, .rh, .wo, .w1c, .w1s, .rl], ∃ x ∈ pageTable, ∃ r ∈ x.regs, ∃ f ∈ r.flds, f.acc = a
      ∧ (rollOld r.flds 0xFFFFFFFF).getLsbD f.lo = ((0xFFFFFFFF : W32).getLsbD f.lo && decide (a ≠ .wo)))
    ∧ (∃ x ∈ pageTable, ∃ r ∈ x.regs, ∃ j < 32, (storeWord r.flds 0xFFFFFFFF 0).getLsbD j = (0xFFFFFFFF : W32).getLsbD j) := by
  have k : ∀ a ∈ [Acc.ro, .rw, .rh, .wo, .w1c, .w1s, .rl], ∃ x ∈ pageTable, ∃ r ∈ x.regs, ∃ f ∈ r.flds, f.acc = a ∧ f.lo < 32 ∧ f.lo ≤ f.hi := by
    decide +kernel
  have z : ∃ x ∈ pageTable, ∃ r ∈ x.regs, ∃ j < 32, ∀ f ∈ r.flds, ¬ (f.lo ≤ j ∧ j ≤ f.hi) := by decide +kernel
  refine ⟨fun a ha => ?_, ?_⟩
  · obtain ⟨x, hx, r, hr, f, hf, e, b, c⟩ := k a ha
    exact ⟨x, hx, r, hr, f, hf, e, e ▸ ((h x r 0xFFFFFFFF 0 f.lo hx hr b).1 f hf (Nat.le_refl _) c).2.1⟩
  · obtain ⟨x, hx, r, hr, j, hj, e⟩ := z
    exact ⟨x, hx, r, hr, j, hj, ((h x r 0xFFFFFFFF 0 j hx hr hj).2 e).1⟩

theorem witness_RefusedWritesChangeNothingElse (h : Obligations.RefusedWritesChangeNothingElse) :
    ∃ t, writeNow { origin := 0x43 } (spaceDest Rg.ROLL_CTRL) 0 live = (false, t) ∧ rd t Rg.AUTH_LAST_REFUSED = w32 (0x43 + 5 * 0x100 + Pg.ROLL * 0x1000)
      ∧ rd t (hdr Pg.ROLL Hdr.PAGE_WDROP) = 1 := by
  have e : writeNow { origin := 0x43 } (spaceDest Rg.ROLL_CTRL) 0 live = (false, _) := (pair _).trans (congrArg (·, _) (by decide +kernel : _ = false))
  have r := h live _ { origin := 0x43 } (spaceDest Rg.ROLL_CTRL) 0 5 (by decide +kernel) (by decide) e
  exact ⟨_, e, r.2.2.1, r.2.2.2.2 Pg.ROLL (by decide +kernel) (by decide +kernel)⟩

theorem witness_RefusedWritesChangeNothingElse_boot (h : Obligations.RefusedWritesChangeNothingElse) :
    ∃ t, writeNow { origin := 0x44 } (spaceDest Rg.ROLL_CTRL) 0 (inBoot 1) = (false, t) ∧ rd t Rg.BOOT_DROPS = 1 := by
  have e : writeNow { origin := 0x44 } (spaceDest Rg.ROLL_CTRL) 0 (inBoot 1) = (false, _) := (pair _).trans (congrArg (·, _) (by decide +kernel : _ = false))
  have r := h (inBoot 1) _ { origin := 0x44 } (spaceDest Rg.ROLL_CTRL) 0 3 (by decide +kernel) (by decide) e
  exact ⟨_, e, r.2.2.2.1 (by decide +kernel)⟩

theorem witness_BlockIdentity (h : Obligations.BlockIdentity) (s : State) :
    view s 0x44 (hdr (Pg.STAVE) Hdr.BLK_ID) = w32 (Pg.STAVE * 0x100000 + 0x100) ∧ view s 0 (hdr 0x401 Hdr.BLK_ID) = w32 (0x21 * 0x100000 + 0x1100)
    ∧ view s 0 (hdr 0x440 Hdr.BLK_ID) = w32 (0x21 * 0x100000 + 0x40100) :=
  ⟨((h s 0x44 Pg.STAVE 0 (descOf Pg.STAVE (by decide +kernel))).1 (descOf_eq _) (by decide)).trans (by decide +kernel),
    ((h s 0 0 1 (descOf Pg.STAVE (by decide +kernel))).2 (by decide) (by decide)).trans (by decide),
    ((h s 0 0 64 (descOf Pg.STAVE (by decide +kernel))).2 (by decide) (by decide)).trans (by decide)⟩

/-! ## Reads, memory and events that change little -/

theorem witness_WindowWritesStoreTheirBytes (h : Obligations.WindowWritesStoreTheirBytes) :
    (∃ t, Sys2Proof.Machine.exec (.windowAccess 0 0 (some [1, 2])) serving = .next t ∧ byteAt t 1 = 2)
    ∧ (∃ t, Sys2Proof.Machine.exec (.windowAccess 0x0FFFFFFF 0 (some [7])) serving = .next t ∧ byteAt t 0x0FFFFFFF = 7 ∧ byteAt t 0 = 0) := by
  have q : Quiet serving := ⟨rfl, rfl, rfl, rfl, rfl, rfl⟩
  obtain ⟨t, a, b, -⟩ := h serving _ 0 0 _ [1, 2] q rfl (host_reaches (by decide +kernel)) (by decide) (by decide +kernel) (by decide) rfl
    (by decide +kernel) (by decide +kernel) (by decide +kernel)
  obtain ⟨t', a', b', -⟩ := h serving _ 0x0FFFFFFF 0 _ [7] q rfl (host_reaches (by decide +kernel)) (by decide) (by decide +kernel) (by decide) rfl
    (by decide +kernel) (by decide +kernel) (by decide +kernel)
  exact ⟨⟨t, a, (b 1).trans (by decide +kernel)⟩, ⟨t', a', (b' 0x0FFFFFFF).trans (by decide +kernel), (b' 0).trans (by decide +kernel)⟩⟩

theorem witness_NowHiIsLatchedForItsReader (h : Obligations.NowHiIsLatchedForItsReader) :
    view (regRead 0x44 Rg.STAVE_NOW_LO later).2 0x44 Rg.STAVE_NOW_HI = w32 (stimeNow later / 0x100000000)
    ∧ view (regRead 0x44 Rg.STAVE_NOW_LO later).2 0x45 Rg.STAVE_NOW_HI = 0 := by
  have r := h later _ 0x44 _ (by decide +kernel) (by decide +kernel) (pair _)
  exact ⟨r.2.1, (r.2.2.1 0x45 (by decide)).trans (r.2.2.2.2.1 later 0x45 (by decide +kernel))⟩

/-- Two captures of channel 15 wait, and none of channel 0. -/
def captured : State := { live with timer := { live.timer with queues := [(15, [⟨7, 9, true, false⟩, ⟨8, 10, false, true⟩])] } }

theorem witness_CapturesPopInOrder (h : Obligations.CapturesPopInOrder) :
    (regRead 0x44 (Rg.TIMER_CAP_POP + 16 * 15) captured).1 = w32 7
    ∧ kvGet [] (regRead 0x44 (Rg.TIMER_CAP_POP + 16 * 15) captured).2.timer.queues 15 = [⟨8, 10, false, true⟩]
    ∧ (regRead 0x44 (Rg.TIMER_CAP_POP + 16 * 0) captured).1 = 0
    ∧ view (regRead 0x44 (Rg.TIMER_CAP_POP + 16 * 0) captured).2 0x44 (Rg.TIMER_CAP_POP + 16 * 0 + 4 * 3) = 0
    ∧ kvGet [] (regRead 0x44 (Rg.TIMER_CAP_POP + 16 * 15) captured).2.timer.queues 0 = kvGet [] captured.timer.queues 0
    ∧ view (regRead 0x44 (Rg.TIMER_CAP_POP + 16 * 15) captured).2 0x45 (Rg.TIMER_CAP_POP + 16 * 15 + 4 * 1)
      = view captured 0x45 (Rg.TIMER_CAP_POP + 16 * 15 + 4 * 1)
    ∧ view (regRead 0x44 (Rg.TIMER_CAP_POP + 16 * 15) captured).2 0x44 (Rg.TIMER_CAP_POP + 16 * 0 + 4 * 3)
      = view captured 0x44 (Rg.TIMER_CAP_POP + 16 * 0 + 4 * 3) := by
  have a := h captured _ 0x44 15 _ (by decide) (by decide +kernel) (by decide +kernel) (pair _)
  have b := h captured _ 0x44 0 _ (by decide) (by decide +kernel) (by decide +kernel) (pair _)
  exact ⟨(a.1 _ _ rfl).1, (a.1 _ _ rfl).2.1, (b.2.1 rfl).1, (b.2.1 rfl).2.2 3 (by decide) (by decide), a.2.2.1 0 (by decide),
    a.2.2.2.1 0x45 15 1 (by decide) (by decide) (by decide) (by decide) (by decide) (.inl (by decide)),
    a.2.2.2.1 0x44 0 3 (by decide) (by decide) (by decide) (by decide) (by decide) (.inr (by decide))⟩

theorem witness_SnapCopiesEveryCounter (h : Obligations.SnapCopiesEveryCounter) :
    rd (timerSnap (ticking 1)) (Rg.TIMER_SNAP_CNT + 4 * 15) = rd (ticking 1) (Rg.TIMER_CH_CNT + 4 * 15)
    ∧ rd (timerSnap (ticking 1)) (Rg.TIMER_SNAP_CNT + 4 * 16) = rd (ticking 1) (Rg.TIMER_SNAP_CNT + 4 * 16) :=
  ⟨(h (ticking 1)).1 15 (by decide), (h (ticking 1)).2.2.2 _ (by decide) (by decide) (by decide)⟩

theorem witness_ReadsOfOtherRegistersChangeNothing (h : Obligations.ReadsOfOtherRegistersChangeNothing) :
    (regRead 0x44 (Rg.TIMER_CAP_POP + 16 * 16) live).2 = live ∧ (regRead 0 0 live).2 = live ∧ (regRead 0x48 0xFFFFFFC live).2 = live :=
  ⟨h live _ _ (by decide) (by decide) (by decide) (by decide), h live _ _ (by decide) (by decide) (by decide) (by decide),
    h live _ _ (by decide) (by decide) (by decide) (by decide)⟩

/-- A settled state in which the events have their effect. -/
def eventful : State :=
  wr Rg.STAVE_STAT 1 (wr Rg.WEEVIL_STAT 8 (wr (Rg.TDM_STAT + 0x1000 * 3) 0 (wr (Rg.TDM_CFG + 0x1000 * 3) 1 (wr (hdr (Pg.TDM + 3) Hdr.BLK_CTRL) 1
    (wr Rg.BRIDGE_STAT 1 scrubbing)))))

theorem witness_RegisterEventsChangeTheirRegistersAlone (h : Obligations.RegisterEventsChangeTheirRegistersAlone) :
    ∀ c ∈ [Instr.phyUpChange 3 true, .weevilKey1Expiry, .asrcLock 3, .asrcUnlock 3, .bridgeReplay, .refreshSlot 3],
      ∃ t, Sys2Proof.Machine.exec c eventful = .next t ∧ rd t Rg.STAVE_NOW_LO = rd eventful Rg.STAVE_NOW_LO ∧ (∀ x, byteAt t x = byteAt eventful x) := by
  have q : Quiet eventful := ⟨rfl, rfl, rfl, rfl, rfl, rfl⟩
  have m : Mirrored eventful := ⟨by decide +kernel, by decide +kernel, by decide +kernel, by decide +kernel, by decide +kernel⟩
  intro c hc
  simp only [List.mem_cons, List.not_mem_nil, or_false] at hc
  rcases hc with rfl | rfl | rfl | rfl | rfl | rfl
  · have r := h eventful _ 3 true (.phyUpChange 3 true) [portReg Rg.CAM_PORT_STAT 3] q m (by simp) rfl
    exact ⟨_, rfl, r.2.1 _ (by decide), r.2.2⟩
  · have r := h eventful _ 3 true (.weevilKey1Expiry) [Rg.WEEVIL_STAT] q m (by simp) rfl
    exact ⟨_, rfl, r.2.1 _ (by decide), r.2.2⟩
  · have r := h eventful _ 3 true (.asrcLock 3) [Rg.TDM_STAT + 0x1000 * 3] q m (by simp) rfl
    exact ⟨_, rfl, r.2.1 _ (by decide), r.2.2⟩
  · have r := h eventful _ 3 true (.asrcUnlock 3) [Rg.TDM_STAT + 0x1000 * 3, hdr (Pg.TDM + 3) Hdr.EVT_STAT] q m (by simp) rfl
    exact ⟨_, rfl, r.2.1 _ (by decide), r.2.2⟩
  · have r := h eventful _ 3 true (.bridgeReplay) [Rg.BRIDGE_REPLAYS, hdr Pg.BRIDGE Hdr.EVT_STAT] q m (by simp) rfl
    exact ⟨_, rfl, r.2.1 _ (by decide), r.2.2⟩
  · have r := h eventful _ 3 true (.refreshSlot 3) [drReg Rg.DRAMC_REF_STOLEN 3, hdr (Pg.DRAMC + 3) Hdr.EVT_STAT] q m (by simp) rfl
    exact ⟨_, rfl, r.2.1 _ (by decide), r.2.2⟩

/-- Sources 5 and 9 pend for hart 0, and both may be claimed. -/
def claimed : State :=
  wr (evCfgReg 9) 0x1FF (wr (evCfgReg 5) 0xFFFFFFFF { live with evc := { live.evc with
    src := [(5, { evSrc live 5 with p := true }), (9, { evSrc live 9 with p := true })] } })

theorem witness_ClaimsTakeTheHighestPriority (h : Obligations.ClaimsTakeTheHighestPriority) :
    evClaim 0x43 live = (0, live) ∧ evClaim 0x48 live = (0, live)
    ∧ (∃ x ∈ claimed.evc.src, evClaimable claimed 0 x.1 x.2 = true ∧ (evClaim 0x44 claimed).2 = putSrc x.1 { evSrc claimed x.1 with p := false, c := 0, a := true, holder := 0 } claimed)
    ∧ (evClaim 0x47 live).2 = live := by
  have a := (h live _ 0x43 0 _ (pair _)).1 (.inl (by decide))
  have b := (h live _ 0x48 0 _ (pair _)).1 (.inr (by decide))
  have c := (h claimed _ 0x44 0 _ (pair _)).2 rfl (by decide)
  have d := (h live _ 0x47 3 _ (pair _)).2 rfl (by decide)
  refine ⟨Prod.ext a.1 a.2, Prod.ext b.1 b.2, ?_, ?_⟩
  · rcases c with ⟨e, -⟩ | ⟨x, hx, k, -, -, e, -⟩
    · exact absurd e (by decide +kernel)
    · exact ⟨x, hx, k, e⟩
  · rcases d with ⟨-, e, -⟩ | ⟨x, hx, -⟩
    · exact e
    · cases hx

/-! ## Well-formed commands -/

/-- An origin that R76 does not give. -/
def stray : Req := { origin := 0x43 }

/-- A term that fails one check of its command is refused: the first value out of range, or a stray origin. (1 of 6) -/
theorem test_ill_formed_1 : ∀ i ∈ ([
    .porstNRise 8, .porstNPulse 0 8, .guardResetCold stray 0, .guardResetWarm stray 0, .guardResetStave stray 0, .xpllLost 1,
    .xpllLost 6, .otpProg stray 0, .tuneRecDataRead 0x43, .tuneBufDataWrite stray 0, .tuneUnlock stray 0, .tuneCommitGo stray 0,
    .nowLoRead 0x43 true, .snumLoadArm stray 0, .head1DivWrite stray 0, .registerWrite stray (.space 0) 0, .evtSetWrite stray 0 0,
    .evtSetWrite hart 1089 0, .stageDiscard stray 0 0, .stageDiscard hart 1089 0, .softReset stray 0 0, .softReset hart 1089 0,
    .blockResetDone 1089, .pageOwnerWrite stray 0 0, .pageOwnerWrite hart 1089 0, .pageWmaskWrite stray 0 0,
    .pageWmaskWrite hart 1089 0, .guardHdrLock stray 0, .allHdrLock stray 0, .rollModeWrite stray 0, .rollTailWrite stray 0,
    .rollRdSeqWrite stray 0, .rollRdData0Read 0x43 true, .rollRdData7Read 0x43, .vfFlr 0, .vfFlr 65, .numvfsWrite 65, .pmcsrD3hot 65,
    .pmcsrD0 65, .bmeClear 65, .bmeSet 65, .windowAccess 0x10000000 0 none, .msixUnmask 65 0, .hostNpOutRead 0x43,
    .tenRingsWrite stray 0 0, .tenRingsWrite hart 65 0, .tenEnable stray 0 0, .tenEnable hart 65 0, .tenDisable stray 0 0,
    .tenDisable hart 65 0, .tenGuarWrite stray 0 0, .tenGuarWrite hart 65 0, .tenCeilWrite stray 0 0, .tenCeilWrite hart 65 0,
    .tenPrioWrite stray 0 0, .tenPrioWrite hart 65 0, .jobQuotaWrite stray 0 0, .jobQuotaWrite hart 65 0, .tenantMbox stray 0 0,
    .tenantMbox hart 65 0] : List Instr), i.wf = false := by
  decide +kernel

/-- A term that fails one check of its command is refused: the first value out of range, or a stray origin. (2 of 6) -/
theorem test_ill_formed_2 : ∀ i ∈ ([
    .ringEnable stray 0 0, .ringEnable hart 16384 0, .ringDisable stray 0 0, .ringDisable hart 16384 0, .ringReset stray 0 0,
    .ringReset hart 16384 0, .ringResetDone 16384, .sqTailDoorbell stray (.space 0) 0 none, .cqHeadDoorbell stray (.space 0) 0,
    .descriptorFetch 16384, .descriptorArrival 16384 .failed, .fragmentHeaderArrival 16384 0 .failed, .modExpiry 16384,
    .modWrite stray 0 0, .modWrite hart 16384 0, .ringVectorWrite stray 0 0, .ringVectorWrite hart 16384 0, .poolAlloc 32 0,
    .poolAlloc 0 128, .poolFree 128 0, .poolSwReq stray 0, .poolSwFree stray 0, .evcDoorbell stray 0, .fwdCommit 64, .evcClaim 0x43,
    .evcComplete stray 0, .evcPendSet stray 0 0, .evcPendSet hart 128 0, .evcPendClear stray 0 0, .evcPendClear hart 128 0,
    .evcCfgWrite stray 0 0, .evcCfgWrite hart 2048 0, .memoryAccess 0 0 2 0 0 0 0 [], .memoryAccess 0 0 0 0 4 0 0 [],
    .flogTailWrite stray 0 0, .flogTailWrite hart 1089 0, .invGo stray 0, .refreshSlot 8, .mr4Poll 8 0, .mr4Poll 0 8,
    .dramcEnableWrite stray 0 0, .dramcEnableWrite hart 8 0, .scrubRead 8 0 0, .scrubRead 0 0 5, .scrubPassEnd 8, .nrcInvArm stray 0 0,
    .nrcInvArm hart 2 0, .scoreLoadGo stray 0, .scoreLoadCancel stray 0, .taskFire 32, .taskSlip 32, .fencedTaskCancel 32, .taskEnd 32,
    .spanEnd 2 0, .cantorTokenWrite stray 0 0, .cantorTokenWrite hart 2 0, .cantorTokenAtWrite stray 0 0, .cantorTokenAtWrite hart 2 0,
    .commandFetch 32 none .failed, .commandComplete 32 0] : List Instr), i.wf = false := by
  decide +kernel

/-- A term that fails one check of its command is refused: the first value out of range, or a stray origin. (3 of 6) -/
theorem test_ill_formed_3 : ∀ i ∈ ([
    .nop 32, .load 32 .failed, .store 32 .failed, .atomicAdd 32 .failed, .atomicMax 32 .failed, .mma 32, .conv 32, .ewiseAdd 32,
    .ewiseSub 32, .ewiseMul 32, .ewiseMax 32, .ewiseMin 32, .ewiseCvt 32, .ewiseAbs 32, .ewiseNeg 32, .act 32, .poolMax 32, .poolAvg 32,
    .reduceSum 32, .reduceMax 32, .reduceMin 32, .reduceArgmax 32, .reduceArgmin 32, .transpose 32, .scale 32, .sig 32, .token 32,
    .cameraFs 8 0 0 0, .cameraFs 0 16 0 0, .cameraFe 8 0 0 0, .cameraFe 0 16 0 0, .cameraLongPacket 8 0 0x10 0 0 true [],
    .cameraLongPacket 0 16 0x10 0 0 true [], .cameraLongPacket 0 0 15 0 0 true [], .cameraLongPacket 0 0 0x40 0 0 true [],
    .cameraOtherShortPacket 8 0 2 0 0, .cameraOtherShortPacket 0 16 2 0 0, .cameraOtherShortPacket 0 0 1 0 0,
    .cameraOtherShortPacket 0 0 0x10 0 0, .cameraDetach 32, .groupHoldExpiry 4, .camRelease stray 0 0, .camRelease hart 8 0,
    .chaferWindowStart 2 .failed, .chaferOpenTake 2 .failed, .chaferSetupDone 2 .failed, .chaferEvalEnd 2 0 .failed,
    .chaferSurveyToken 2, .chaferLate 2, .setBoundary 2 [], .displayLineStart 2 [], .spriteTableFetch 2 true, .lineTableFetch 2,
    .lineTableLoaded 2, .palDataWrite stray 0 0, .palDataWrite hart 2 0, .palDataRead 0x43 0, .palDataRead 0x44 2,
    .safeOnlyWrite stray 0 0, .safeOnlyWrite hart 2 0] : List Instr), i.wf = false := by
  decide +kernel

/-- A term that fails one check of its command is refused: the first value out of range, or a stray origin. (4 of 6) -/
theorem test_ill_formed_4 : ∀ i ∈ ([
    .dsiGenGo stray 0, .choirKeyOnWrite stray 0, .keyOff stray 0, .xpNodeWrite stray 0, .asrcLock 4, .asrcUnlock 4,
    .tdmFrameReceive 4 [] true, .timerTerminalTick 16, .timerSwReset stray 0 0, .timerSwReset hart 16 0, .timerSwCap stray 0 0,
    .timerSwCap hart 16 0, .timerCapture 16 true, .capPopRead 0x43 0, .capPopRead 0x44 16, .timerSnap stray 0, .ethRxFrame 2 [],
    .ethRxHeadWrite stray 0 0, .ethRxHeadWrite hart 2 0, .ethTxqTailWrite stray 0 0 0, .ethTxqTailWrite hart 2 0 0,
    .ethTxqTailWrite hart 0 8 0, .ethTxStart 2, .ethTxDone 2, .ethLinkChange 2 true 0 true, .ethLinkChange 0 true 4 true,
    .i3cPrivateXfer stray 0 0, .i3cPrivateXfer hart 4 0, .i2cXfer stray 0 0, .i2cXfer hart 4 0, .broadcastCcc stray 0 0,
    .broadcastCcc hart 4 0, .entdaa stray 0 0, .entdaa hart 4 0, .directCcc stray 0 0, .directCcc hart 4 0, .i3cXferDone 4 0 0 [],
    .i3cIbi 4 0 [], .ibiPopRead 0x43 0, .ibiPopRead 0x44 4, .spiCtlGo stray 0 0, .spiCtlGo hart 2 0, .spiTimedStart 2, .spiCtlDone 2 [],
    .spiTgtWrite 128 [], .spiTgtRead 128 0, .spiPublish stray 0, .spiRxFullClear stray 0, .gpioEdge 32 true, .gpioOutSet stray 0,
    .gpioOutClr stray 0, .unisonMismatch 4 0, .hartRestart stray 0 0, .hartRestart hart 4 0, .awCfgWrite stray 0 0,
    .awCfgWrite hart 256 0, .awFeedWrite stray 0, .ageExpiry 256, .safetyFenceWrite stray 0, .faultRaiseWrite stray 0] : List Instr), i.wf = false := by
  decide +kernel

/-- A term that fails one check of its command is refused: the first value out of range, or a stray origin. (5 of 6) -/
theorem test_ill_formed_5 : ∀ i ∈ ([
    .classMapWrite stray 0, .classLockWrite stray 0, .pinReleaseWrite stray 0, .wdogCfgWrite stray 0, .wdogKick stray 0,
    .slinkEnable stray 0 0, .slinkEnable hart 2 0, .slinkTrained 2 0, .slinkTrainTimeout 2, .slinkRetrain 2, .slinkIdSend 2,
    .slinkRxIdle 2 (List.replicate 32 0), .slinkRxIdle 0 (List.replicate 31 0), .slinkRxId 2 (List.replicate 32 0),
    .slinkRxId 0 (List.replicate 31 0), .slinkRxWrite 2 (List.replicate 32 0), .slinkRxWrite 0 (List.replicate 31 0),
    .slinkRxEvent 2 (List.replicate 32 0), .slinkRxEvent 0 (List.replicate 31 0), .slinkRxAfterFault 2 (List.replicate 32 0),
    .slinkRxAfterFault 0 (List.replicate 31 0), .slinkRxBarrier 2 (List.replicate 32 0) 0, .slinkRxBarrier 0 (List.replicate 31 0) 0,
    .slinkRxCal 2 (List.replicate 32 0), .slinkRxCal 0 (List.replicate 31 0), .slinkRxCalEcho 2 (List.replicate 32 0) 0,
    .slinkRxCalEcho 0 (List.replicate 31 0) 0, .slinkRxNak 2 (List.replicate 32 0), .slinkRxNak 0 (List.replicate 31 0),
    .slinkRxReserved 2 (List.replicate 32 0), .slinkRxReserved 0 (List.replicate 31 0), .slinkRxBadCrc 2 (List.replicate 32 0),
    .slinkRxBadCrc 0 (List.replicate 31 0), .slinkRwData stray 0, .slinkEvSend stray 0, .lockCal stray 0, .lockTake stray 0,
    .lockRelease stray 0, .hymnalEnable stray 0, .hymnalRdSeqWrite stray 0, .hymnalWrSeqWrite stray 0, .weevilArmKey1 stray,
    .weevilArmKey2 stray, .weevilDisarm stray 0, .weevilFire stray 0, .debugAllowWrite stray 0, .debugHalt 4 0 true, .debugResume 4,
    .debugStep 4, .accessRegister 4 0 none, .systemBusAccess 0 3 none true, .bypass 32, .dmi 4 0 0, .holdReq stray 0,
    .holdRelease stray 0, .traceMark stray 0, .traceDataRead 0x43, .avsRequest 2, .avsAck 2, .avsRetry 2] : List Instr), i.wf = false := by
  decide +kernel

/-- A term that fails one check of its command is refused: the first value out of range, or a stray origin. (6 of 6) -/
theorem test_ill_formed_6 : ∀ i ∈ ([
    .phyUpChange 8 true, .timerTick 16] : List Instr), i.wf = false := by
  decide +kernel

/-- The same commands within their ranges are well formed. (1 of 4) -/
theorem test_well_formed_1 : ∀ i ∈ ([
    .porstNRise 0, .porstNPulse 0 0, .guardResetCold hart 0, .guardResetWarm hart 0, .guardResetStave hart 0, .xpllLost 2,
    .otpProg hart 0, .tuneRecDataRead 0x44, .tuneBufDataWrite hart 0, .tuneUnlock hart 0, .tuneCommitGo hart 0, .nowLoRead 0x44 true,
    .snumLoadArm hart 0, .head1DivWrite hart 0, .registerWrite hart (.space 0) 0, .evtSetWrite hart 0 0, .stageDiscard hart 0 0,
    .softReset hart 0 0, .blockResetDone 0, .pageOwnerWrite hart 0 0, .pageWmaskWrite hart 0 0, .guardHdrLock hart 0,
    .allHdrLock hart 0, .rollModeWrite hart 0, .rollTailWrite hart 0, .rollRdSeqWrite hart 0, .rollRdData0Read 0x44 true,
    .rollRdData7Read 0x44, .vfFlr 1, .numvfsWrite 0, .pmcsrD3hot 0, .pmcsrD0 0, .bmeClear 0, .bmeSet 0, .windowAccess 0 0 none,
    .msixUnmask 0 0, .hostNpOutRead 0x44, .tenRingsWrite hart 0 0, .tenEnable hart 0 0, .tenDisable hart 0 0, .tenGuarWrite hart 0 0,
    .tenCeilWrite hart 0 0, .tenPrioWrite hart 0 0, .jobQuotaWrite hart 0 0, .tenantMbox hart 0 0, .ringEnable hart 0 0,
    .ringDisable hart 0 0, .ringReset hart 0 0, .ringResetDone 0, .sqTailDoorbell hart (.space 0) 0 none,
    .cqHeadDoorbell hart (.space 0) 0, .descriptorFetch 0, .descriptorArrival 0 .failed, .fragmentHeaderArrival 0 0 .failed,
    .modExpiry 0, .modWrite hart 0 0, .ringVectorWrite hart 0 0, .poolAlloc 0 0, .poolFree 0 0, .poolSwReq hart 0] : List Instr), i.wf = true := by
  decide +kernel

/-- The same commands within their ranges are well formed. (2 of 4) -/
theorem test_well_formed_2 : ∀ i ∈ ([
    .poolSwFree hart 0, .evcDoorbell hart 0, .fwdCommit 0, .evcClaim 0x44, .evcComplete hart 0, .evcPendSet hart 0 0,
    .evcPendClear hart 0 0, .evcCfgWrite hart 0 0, .memoryAccess 0 0 0 0 0 0 0 [], .flogTailWrite hart 0 0, .invGo hart 0,
    .refreshSlot 0, .mr4Poll 0 0, .dramcEnableWrite hart 0 0, .scrubRead 0 0 0, .scrubPassEnd 0, .nrcInvArm hart 0 0,
    .scoreLoadGo hart 0, .scoreLoadCancel hart 0, .taskFire 0, .taskSlip 0, .fencedTaskCancel 0, .taskEnd 0, .spanEnd 0 0,
    .cantorTokenWrite hart 0 0, .cantorTokenAtWrite hart 0 0, .commandFetch 0 none .failed, .commandComplete 0 0, .nop 0,
    .load 0 .failed, .store 0 .failed, .atomicAdd 0 .failed, .atomicMax 0 .failed, .mma 0, .conv 0, .ewiseAdd 0, .ewiseSub 0,
    .ewiseMul 0, .ewiseMax 0, .ewiseMin 0, .ewiseCvt 0, .ewiseAbs 0, .ewiseNeg 0, .act 0, .poolMax 0, .poolAvg 0, .reduceSum 0,
    .reduceMax 0, .reduceMin 0, .reduceArgmax 0, .reduceArgmin 0, .transpose 0, .scale 0, .sig 0, .token 0, .cameraFs 0 0 0 0,
    .cameraFe 0 0 0 0, .cameraLongPacket 0 0 0x10 0 0 true [], .cameraOtherShortPacket 0 0 2 0 0, .cameraDetach 0] : List Instr), i.wf = true := by
  decide +kernel

/-- The same commands within their ranges are well formed. (3 of 4) -/
theorem test_well_formed_3 : ∀ i ∈ ([
    .groupHoldExpiry 0, .camRelease hart 0 0, .chaferWindowStart 0 .failed, .chaferOpenTake 0 .failed, .chaferSetupDone 0 .failed,
    .chaferEvalEnd 0 0 .failed, .chaferSurveyToken 0, .chaferLate 0, .setBoundary 0 [], .displayLineStart 0 [],
    .spriteTableFetch 0 true, .lineTableFetch 0, .lineTableLoaded 0, .palDataWrite hart 0 0, .palDataRead 0x44 0,
    .safeOnlyWrite hart 0 0, .dsiGenGo hart 0, .choirKeyOnWrite hart 0, .keyOff hart 0, .xpNodeWrite hart 0, .asrcLock 0, .asrcUnlock 0,
    .tdmFrameReceive 0 [] true, .timerTerminalTick 0, .timerSwReset hart 0 0, .timerSwCap hart 0 0, .timerCapture 0 true,
    .capPopRead 0x44 0, .timerSnap hart 0, .ethRxFrame 0 [], .ethRxHeadWrite hart 0 0, .ethTxqTailWrite hart 0 0 0, .ethTxStart 0,
    .ethTxDone 0, .ethLinkChange 0 true 0 true, .i3cPrivateXfer hart 0 0, .i2cXfer hart 0 0, .broadcastCcc hart 0 0, .entdaa hart 0 0,
    .directCcc hart 0 0, .i3cXferDone 0 0 0 [], .i3cIbi 0 0 [], .ibiPopRead 0x44 0, .spiCtlGo hart 0 0, .spiTimedStart 0,
    .spiCtlDone 0 [], .spiTgtWrite 0 [], .spiTgtRead 0 0, .spiPublish hart 0, .spiRxFullClear hart 0, .gpioEdge 0 true,
    .gpioOutSet hart 0, .gpioOutClr hart 0, .unisonMismatch 0 0, .hartRestart hart 0 0, .awCfgWrite hart 0 0, .awFeedWrite hart 0,
    .ageExpiry 0, .safetyFenceWrite hart 0, .faultRaiseWrite hart 0] : List Instr), i.wf = true := by
  decide +kernel

/-- The same commands within their ranges are well formed. (4 of 4) -/
theorem test_well_formed_4 : ∀ i ∈ ([
    .classMapWrite hart 0, .classLockWrite hart 0, .pinReleaseWrite hart 0, .wdogCfgWrite hart 0, .wdogKick hart 0,
    .slinkEnable hart 0 0, .slinkTrained 0 0, .slinkTrainTimeout 0, .slinkRetrain 0, .slinkIdSend 0,
    .slinkRxIdle 0 (List.replicate 32 0), .slinkRxId 0 (List.replicate 32 0), .slinkRxWrite 0 (List.replicate 32 0),
    .slinkRxEvent 0 (List.replicate 32 0), .slinkRxAfterFault 0 (List.replicate 32 0), .slinkRxBarrier 0 (List.replicate 32 0) 0,
    .slinkRxCal 0 (List.replicate 32 0), .slinkRxCalEcho 0 (List.replicate 32 0) 0, .slinkRxNak 0 (List.replicate 32 0),
    .slinkRxReserved 0 (List.replicate 32 0), .slinkRxBadCrc 0 (List.replicate 32 0), .slinkRwData hart 0, .slinkEvSend hart 0,
    .lockCal hart 0, .lockTake hart 0, .lockRelease hart 0, .hymnalEnable hart 0, .hymnalRdSeqWrite hart 0, .hymnalWrSeqWrite hart 0,
    .weevilArmKey1 hart, .weevilArmKey2 hart, .weevilDisarm hart 0, .weevilFire hart 0, .debugAllowWrite hart 0, .debugHalt 0 0 true,
    .debugResume 0, .debugStep 0, .accessRegister 0 0 none, .systemBusAccess 0 1 none true, .bypass 0, .dmi 0 0 0, .holdReq hart 0,
    .holdRelease hart 0, .traceMark hart 0, .traceDataRead 0x44, .avsRequest 0, .avsAck 0, .avsRetry 0, .phyUpChange 0 true,
    .timerTick 0] : List Instr), i.wf = true := by
  decide +kernel

/-- An origin below, above and beside those of R76, and no byte or more than eight. -/
theorem test_requests : ∀ q ∈ ([{ origin := 0 }, { origin := 0x4C }, { origin := 0x43 }, { origin := 0x44, be := 0 },
    { origin := 0x44, be := 256 }] : List Req), q.wf = false := by
  decide

/-! ## Numbers that the spec prints, and the checks of the CRCs that it names -/

/-- The bytes of "123456789", on which a CRC's check value is stated. -/
def checkBytes : List Byte := [0x31, 0x32, 0x33, 0x34, 0x35, 0x36, 0x37, 0x38, 0x39]

/-- CRC-32 of IEEE 802.3 (R117), CRC-32C (R260, R311) and the flits' CRC-16 (R473): their published check values. -/
theorem test_crc_checks : crc32 checkBytes = 0xCBF43926 ∧ crc32c checkBytes = 0xE3069283 ∧ crc16 checkBytes = 0x29B1 := by
  decide +kernel

/-- The stave times of the bring-up example of 05_bringup_and_tuning.md: S2_ENTRY, S3_ENTRY, S4_ENTRY and S6_ENTRY. -/
theorem test_stave_times :
    stimeNow { live with clk := { live.clk with line := 305 } } = 0x98800 ∧ stimeNow { live with clk := { live.clk with line := 307 } } = 0x99800
    ∧ stimeNow { live with clk := { live.clk with snum := 2, line := 390 } } = 0x8C3000
    ∧ stimeNow { live with clk := { live.clk with snum := 4 } } = 0x1000000 := by
  decide

/-- FAULT.CLASS_MAP at reset (21_safety.md). -/
theorem test_class_map_reset : rd State.reset Rg.FAULT_CLASS_MAP = 0x5E6AD658 := by decide +kernel

/-- The word of an empty command table row is no command. -/
theorem test_no_word : decodeTableWord 32 0 = none ∧ State.reset.withFetchWord 32 0 = State.reset := ⟨rfl, rfl⟩

/-- The largest finite values of FP8-E4M3, FP8-E5M2 and FP16 (14_number_formats.md): 448, 57,344 and 65,504. -/
theorem test_largest_values : decodeNum 3 0x7E = .fin false 14 5 ∧ decodeNum 4 0x7B = .fin false 7 13 ∧ decodeNum 5 0x7BFF = .fin false 2047 5 := by
  decide

end Sys2Proof.Tests
end

