-- ==== Sys2Proof/Proofs/StaveTime.lean ====
section
/-! The stave time as an origin reads it: NOW_LO with its latch, and NOW_HI (R36). -/
namespace Sys2Proof.Machine

/-- Every member has the STAVE page. -/
@[simp] theorem present_stave (m : Member) : present m Pg.STAVE = true := by
  cases m <;> decide

theorem pageDesc_stave : ∃ d, pageDesc Pg.STAVE = some d ∧ d.kind = .stave := ⟨_, rfl, rfl⟩

theorem isTenantPage_stave : isTenantPage Pg.STAVE = false := by decide

theorem locate_nowLo : locate Rg.STAVE_NOW_LO = (Pg.STAVE, 0x40, false) := by decide

theorem locate_nowHi : locate Rg.STAVE_NOW_HI = (Pg.STAVE, 0x44, false) := by decide

/-- NOW_HI shows an origin its own latch, in every state. -/
theorem view_nowHi (s : State) (o : Nat) : view s o Rg.STAVE_NOW_HI = w32 (kvGet 0 s.clk.nowHi o) := by
  obtain ⟨d, page, kind⟩ := pageDesc_stave
  have shown : viewOf s o Pg.STAVE 0x44 = some (w32 (kvGet 0 s.clk.nowHi o)) := by
    simp [viewOf, page, kind]
  simp [view, locate_nowHi, isTenantPage_stave, shown]

/-- A read of NOW_LO that R73 lets through reads the time and sets the reader's latch. -/
theorem regRead_nowLo {s : State} {o : Nat} (vis : readVisible s o Pg.STAVE 0x40 false = true) :
    regRead o Rg.STAVE_NOW_LO s = readNow o s := by
  obtain ⟨d, page, kind⟩ := pageDesc_stave
  have reads : readPage o Pg.STAVE 0x40 s = readNow o s := by simp [readPage, page, kind]
  have aligned : Rg.STAVE_NOW_LO / 4 * 4 = Rg.STAVE_NOW_LO := by decide
  have listed : (0x200000 ≤ Rg.STAVE_NOW_LO && Rg.STAVE_NOW_LO < 0x220000 || 0x224000 ≤ Rg.STAVE_NOW_LO) = false := by decide
  simp only [regRead, aligned, listed, locate_nowLo, page, isTenantPage_stave, present_stave, vis, reads,
    Bool.not_true, Bool.or_false, Bool.false_eq_true, ↓reduceIte]

theorem w32_mod (n : Nat) : w32 (n % 0x100000000) = w32 n :=
  BitVec.eq_of_toNat_eq (by simp [w32])

/-- A read of NOW_LO latches the high word of the time for its reader. -/
theorem nowHi_readNow_same (s : State) (o : Nat) :
    w32 (kvGet 0 (readNow o s).2.clk.nowHi o) = w32 (stimeNow s / 0x100000000) := by
  simp [readNow, kvGet, kvGet_put_same, w32_mod]

/-- A read of NOW_LO leaves the latch of every other origin. -/
theorem nowHi_readNow_ne (s : State) {o x : Nat} (h : x ≠ o) :
    kvGet 0 (readNow o s).2.clk.nowHi x = kvGet 0 s.clk.nowHi x := by
  simp [readNow, kvGet, kvFind_put_ne _ _ _ h]

/-- Settles O54: the read is readNow, and NOW_HI shows each origin its latch. -/
theorem nowHiIsLatchedForItsReader : Obligations.NowHiIsLatchedForItsReader := by
  intro s t o w _ vis read
  rw [regRead_nowLo vis] at read
  obtain rfl : (readNow o s).1 = w := congrArg Prod.fst read
  obtain rfl : (readNow o s).2 = t := congrArg Prod.snd read
  refine ⟨rfl, ?_, fun x other => ?_, rfl, fun u x unread => ?_, rfl⟩
  · rw [view_nowHi, nowHi_readNow_same]
  · rw [view_nowHi, view_nowHi, nowHi_readNow_ne s other]
  · rw [view_nowHi, kvGet, unread]; rfl

end Sys2Proof.Machine
end

