-- ==== Sys2Proof/Proofs/Authority.lean ====
section
/-! Who may write a page: the verdict's reason UNAUTH, and the origins that R78 and R79 let through. -/
namespace Sys2Proof.Machine

@[simp] theorem isMain_iff {o : Nat} : isMain o = true ↔ 0x44 ≤ o ∧ o ≤ 0x47 := by
  simp [isMain]

@[simp] theorem ownerReg_iff {isHdr : Bool} {off : Nat} :
    ownerReg isHdr off = true ↔ isHdr = true ∧ (off = Hdr.PAGE_OWNER ∨ off = Hdr.PAGE_WMASK) := by
  simp [ownerReg]

/-- The rows of R63 after that of UNAUTH give other reasons, so a write that gets as far as that row is refused with
UNAUTH just where its origin is not authorised. -/
theorem pageVerdict_unauth_iff {s : State} {q : Req} {p : Nat} {d : PageDesc} (off : Nat) (isHdr : Bool) (v : W32)
    (page : pageDesc p = some d) (here : present s.member p = true)
    (early : beforeS6 s = true → p = Pg.BOOT ∨ q.origin = 0 ∨ q.origin = 0x42) (full : q.be % 16 = 15) :
    pageVerdict s q p off isHdr v = some 5 ↔ ¬ authorised s q p off isHdr = true := by
  have passes : (beforeS6 s && !(q.origin == 0x42 || q.origin == 0 || p == Pg.BOOT)) = false := by
    cases b : beforeS6 s with
    | false => rfl
    | true => rcases early b with h | h | h <;> simp [h]
  simp only [pageVerdict, page, here, passes, full]
  cases authorised s q p off isHdr with
  | false => simp
  | true =>
    simp only [Bool.not_true, Bool.false_eq_true, if_false, bne_self_eq_false, not_true, iff_false]
    repeat' split
    all_goals decide

/-- R79: the owner registers of a page look at PAGE_OWNER alone. -/
theorem authorised_ownerReg_iff {s : State} {q : Req} {p off : Nat} {isHdr : Bool} (owner : ownerReg isHdr off = true)
    (device : isTenantPage p = false) :
    authorised s q p off isHdr = true ↔ (0x44 ≤ q.origin ∧ q.origin ≤ 0x47)
      ∨ (q.origin = 0x41 ∧ 1 ≤ rdF s (hdr p Hdr.PAGE_OWNER) 7 0 ∧ rdF s (hdr p Hdr.PAGE_OWNER) 7 0 ≤ 0x41) := by
  simp [authorised, owner, device, and_assoc]

/-- R78's table, but for its rows of the boot ROM and of a replayed write. -/
theorem classOk_iff {s : State} {p m w : Nat} (mask : m = rdN s (hdr p Hdr.PAGE_WMASK))
    (owner : w = rdF s (hdr p Hdr.PAGE_OWNER) 7 0) (o : Nat) :
    classOk s p o = true ↔ o = 0 ∨ (1 ≤ o ∧ o ≤ 0x40 ∧ bit m 6 = true ∧ w = o) ∨ (o = 0x41 ∧ bit m 0 = true)
      ∨ (0x44 ≤ o ∧ o ≤ 0x47 ∧ bit m 1 = true) ∨ (o = 0x48 ∧ bit m 2 = true) ∨ (o = 0x49 ∧ bit m 3 = true)
      ∨ (o = 0x4B ∧ bit m 5 = true) := by
  simp only [classOk, beq_iff_eq, isMain_iff, ← mask, ← owner]
  split_ifs <;> grind

/-- R78: any other register of the page looks at the class of the write's origin, and for a replayed write at REPLAY and
at the class of the origin in its AUX. -/
theorem authorised_class_iff {s : State} {q : Req} {p off : Nat} {isHdr : Bool} (other : ¬ ownerReg isHdr off = true)
    (device : isTenantPage p = false) (rom : q.origin ≠ 0x42) :
    authorised s q p off isHdr = true ↔ if q.origin = 0x4A
      then bit (rdN s (hdr p Hdr.PAGE_WMASK)) 4 = true ∧ classOk s p (q.aux % 256) = true
      else classOk s p q.origin = true := by
  by_cases replay : q.origin = 0x4A
  · simp [authorised, other, device, replay, auxOf, rdB, fbit, rdN]
  · simp [authorised, other, device, replay, rom]

/-- Settles O44: the write gets as far as the row of UNAUTH, and R79 authorises an owner register. -/
theorem ownerRegistersIgnoreTheMask : Obligations.OwnerRegistersIgnoreTheMask := by
  rintro s q p off w d v page here early full device owner rfl
  rw [pageVerdict_unauth_iff off true v page here early full,
    authorised_ownerReg_iff (ownerReg_iff.mpr ⟨rfl, owner⟩) device]

/-- Settles O45: the write gets as far as the row of UNAUTH, and R78's table is that of the model's classes. -/
theorem writersFollowTheMask : Obligations.WritersFollowTheMask := by
  rintro s q p off m w isHdr d v ok page here early full device rom other rfl rfl table
  have classes : ∀ o, classOk s p o = true ↔ ok o := fun o => (classOk_iff rfl rfl o).trans (table o).symm
  rw [pageVerdict_unauth_iff off isHdr v page here (fun b => (early b).imp_right .inl) full,
    authorised_class_iff (mt ownerReg_iff.mp other) device rom, classes, classes]

end Sys2Proof.Machine
end

