-- ==== Sys2Proof/Proofs/Captures.lean ====
section
/-! The capture queues of the TIMER page as an origin reads them: CAP_POP, and the latch it leaves its reader (R431). -/
namespace Sys2Proof.Machine

/-- Every member has the TIMER page. -/
@[simp] theorem present_timer (m : Member) : present m Pg.TIMER = true := by
  cases m <;> decide

theorem pageDesc_timer : ∃ d, pageDesc Pg.TIMER = some d ∧ d.kind = .timer := ⟨_, rfl, rfl⟩

theorem isTenantPage_timer : isTenantPage Pg.TIMER = false := by decide

/-! ## The four registers of a channel -/

section
variable {c k : Nat} (channel : c < 16) (register : k < 4)
include channel register

theorem locate_capture : locate (Rg.TIMER_CAP_POP + 16 * c + 4 * k) = (Pg.TIMER, 0x100 + 16 * c + 4 * k, false) := by
  have page : (0x12100 + 16 * c + 4 * k) / 0x1000 = Pg.TIMER := by simp only [Pg.TIMER]; omega
  have off : (0x12100 + 16 * c + 4 * k) % 0x1000 = 0x100 + 16 * c + 4 * k := by omega
  have below : ¬ 0x220000 ≤ 0x12100 + 16 * c + 4 * k := by omega
  have body : ¬ 0x100 + 16 * c + 4 * k < 0x40 := by omega
  simp [locate, page, off, below, body]

/-- A read of one of them is one of the page, where R73 lets it through. -/
theorem regRead_capture (s : State) (o : Nat) :
    regRead o (Rg.TIMER_CAP_POP + 16 * c + 4 * k) s =
      if readVisible s o Pg.TIMER (0x100 + 16 * c + 4 * k) false then readPage o Pg.TIMER (0x100 + 16 * c + 4 * k) s
      else (0, s) := by
  obtain ⟨d, page, -⟩ := pageDesc_timer
  have aligned : (Rg.TIMER_CAP_POP + 16 * c + 4 * k) / 4 * 4 = Rg.TIMER_CAP_POP + 16 * c + 4 * k := by
    simp only [Rg.TIMER_CAP_POP]; omega
  have listed : (0x200000 ≤ Rg.TIMER_CAP_POP + 16 * c + 4 * k && Rg.TIMER_CAP_POP + 16 * c + 4 * k < 0x220000
      || 0x224000 ≤ Rg.TIMER_CAP_POP + 16 * c + 4 * k) = false := by
    simp only [Rg.TIMER_CAP_POP, Bool.or_eq_false_iff, Bool.and_eq_false_iff, decide_eq_false_iff_not]; omega
  simp only [regRead, aligned, listed, locate_capture channel register, page, isTenantPage_timer, present_timer]
  cases readVisible s o Pg.TIMER (0x100 + 16 * c + 4 * k) false <;> rfl

end

/-- CAP_ST_LO, CAP_ST_HI and CAP_INFO show an origin its own latch, in every state. -/
theorem view_captureLatch {c k : Nat} (channel : c < 16) (latched : 1 ≤ k) (register : k ≤ 3) (s : State) (o : Nat) :
    view s o (Rg.TIMER_CAP_POP + 16 * c + 4 * k) = capLatch s o c (k - 1) := by
  obtain ⟨d, page, kind⟩ := pageDesc_timer
  have beside : ¬ (0x100 + 16 * c + 4 * k) % 16 = 0 := by omega
  have inside : 0x100 ≤ 0x100 + 16 * c + 4 * k ∧ 0x100 + 16 * c + 4 * k < 0x200 := by omega
  have index : (0x100 + 16 * c + 4 * k - 0x100) / 16 = c := by omega
  have word : (0x100 + 16 * c + 4 * k) % 16 / 4 - 1 = k - 1 := by omega
  have shown : viewOf s o Pg.TIMER (0x100 + 16 * c + 4 * k) = some (capLatch s o c (k - 1)) := by
    simp [viewOf, page, kind, inside, beside, index, word]
  simp [view, locate_capture channel (Nat.lt_succ_of_le register), isTenantPage_timer, shown]

/-- A read of a latched register changes nothing. -/
theorem regRead_captureLatch_state {c k : Nat} (channel : c < 16) (latched : 1 ≤ k) (register : k ≤ 3) (s : State) (o : Nat) :
    (regRead o (Rg.TIMER_CAP_POP + 16 * c + 4 * k) s).2 = s := by
  obtain ⟨d, page, kind⟩ := pageDesc_timer
  have beside : ¬ (0x100 + 16 * c + 4 * k) % 16 = 0 := by omega
  rw [regRead_capture channel (Nat.lt_succ_of_le register)]
  split
  · simp [readPage, page, kind, beside]
  · rfl

/-- A read of CAP_POP that R73 lets through pops the channel's queue. -/
theorem regRead_capPop {s : State} {o c : Nat} (channel : c < 16) (vis : readVisible s o Pg.TIMER (0x100 + 16 * c) false = true) :
    regRead o (Rg.TIMER_CAP_POP + 16 * c) s = capPop o c s := by
  obtain ⟨d, page, kind⟩ := pageDesc_timer
  have first : (0x100 + 16 * c) % 16 = 0 := by omega
  have inside : 0x100 + 16 * c < 0x200 := by omega
  have read := regRead_capture channel (by decide : 0 < 4) s o
  simp only [Nat.mul_zero, Nat.add_zero, vis, if_true] at read
  simp [read, readPage, page, kind, first, inside]

/-! ## What a pop does -/

section
variable {s : State} {o c : Nat}

theorem capPop_nil (empty : kvGet [] s.timer.queues c = []) :
    capPop o c s = (0, { s with timer := { s.timer with pops := kvErase s.timer.pops (c * 256 + o) } }) := by
  simp only [capPop, empty]

theorem capPop_cons {x : CapEnt} {l : List CapEnt} (waits : kvGet [] s.timer.queues c = x :: l) :
    capPop o c s = (w32 x.cnt, wrF (tmStat c) 6 4 l.length { s with timer := { s.timer with
      queues := kvPut [] s.timer.queues c l, pops := kvInsert s.timer.pops (c * 256 + o) x } }) := by
  simp only [capPop, waits]

/-- A pop leaves the queue of every other channel. -/
theorem queue_capPop_ne {y : Nat} (other : y ≠ c) :
    kvGet [] (capPop o c s).2.timer.queues y = kvGet [] s.timer.queues y := by
  cases queue : kvGet [] s.timer.queues c with
  | nil => rw [capPop_nil queue]
  | cons x l => simp [capPop_cons queue, kvGet, kvFind_put_ne _ _ _ other]

/-- A pop leaves every latch but that of the channel for its reader. -/
theorem latch_capPop_ne {j : Nat} (other : j ≠ c * 256 + o) :
    kvFind (capPop o c s).2.timer.pops j = kvFind s.timer.pops j := by
  cases queue : kvGet [] s.timer.queues c with
  | nil => simp [capPop_nil queue, kvFind_erase_ne _ other]
  | cons x l => simp [capPop_cons queue, kvFind_insert_ne _ _ other]

/-- Two readers and channels that differ have latches of their own. -/
theorem captureLatchKey_ne {x y : Nat} (reader : o < 256) (reader' : x < 256) (other : x ≠ o ∨ y ≠ c) :
    y * 256 + x ≠ c * 256 + o := by
  omega

theorem capLatch_none (unread : kvFind s.timer.pops (c * 256 + o) = none) (k : Nat) : capLatch s o c k = 0 := by
  simp only [capLatch, unread]

theorem capLatch_some {x : CapEnt} (popped : kvFind s.timer.pops (c * 256 + o) = some x) :
    capLatch s o c 0 = w32 x.stime ∧ capLatch s o c 1 = w32 (x.stime / 0x100000000)
      ∧ capLatch s o c 2 = w32 (1 + b2n x.hw * 2 + b2n x.sw * 4) := by
  simp only [capLatch, popped, and_self]

theorem capLatch_congr {t : State} (same : kvFind t.timer.pops (c * 256 + o) = kvFind s.timer.pops (c * 256 + o)) (k : Nat) :
    capLatch t o c k = capLatch s o c k := by
  simp only [capLatch, same]

end

/-- Settles O55: the read is capPop, and the three registers beside CAP_POP show each origin its latch. -/
theorem capturesPopInOrder : Obligations.CapturesPopInOrder := by
  intro s t o c w channel _ vis read
  rw [regRead_capPop channel vis] at read
  obtain rfl : (capPop o c s).1 = w := congrArg Prod.fst read
  obtain rfl : (capPop o c s).2 = t := congrArg Prod.snd read
  refine ⟨fun x l waits => ?_, fun empty => ?_, fun y => queue_capPop_ne,
    fun x y k reader reader' channel' latched register other => ?_,
    fun k latched register => regRead_captureLatch_state channel latched register s o⟩
  · have popped : kvFind (capPop o c s).2.timer.pops (c * 256 + o) = some x := by
      simp [capPop_cons waits, kvFind_insert_same]
    have rest : kvGet [] (capPop o c s).2.timer.queues c = l := by
      simp [capPop_cons waits, kvGet, kvGet_put_same]
    have shows (k : Nat) (latched : 1 ≤ k) (register : k ≤ 3) :=
      view_captureLatch channel latched register (capPop o c s).2 o
    obtain ⟨low, high, info⟩ := capLatch_some popped
    exact ⟨by rw [capPop_cons waits], rest, (shows 1 (by decide) (by decide)).trans low,
      (shows 2 (by decide) (by decide)).trans high, (shows 3 (by decide) (by decide)).trans info⟩
  · have unlatched : kvFind (capPop o c s).2.timer.pops (c * 256 + o) = none := by
      simp [capPop_nil empty, kvFind_erase_same]
    refine ⟨by rw [capPop_nil empty], by rw [capPop_nil empty], fun k latched register => ?_⟩
    rw [view_captureLatch channel latched register, capLatch_none unlatched]
  · rw [view_captureLatch channel' latched register, view_captureLatch channel' latched register,
      capLatch_congr (latch_capPop_ne (captureLatchKey_ne reader reader' other))]

end Sys2Proof.Machine
end

