-- ==== Sys2Proof/Proofs/Steps.lean ====
section
/-! How every command comes out: in the state it began in, at the shared end of commands, or in one of the four undefined
cases. What a step leaves, and where the model stops, are read from that. -/
namespace Sys2Proof.Machine

/-- A command stays in the state it began in, or comes to the end that every command has. -/
def Closed (s t : State) : Prop := t = s ∨ ∃ u, t = finish u

/-- The commands that take an answer of the host, with one from another endpoint (R124). -/
def peerCmds (k j x : Nat) (w : Option Nat) : List Instr :=
  [.descriptorArrival k .peer, .fragmentHeaderArrival k j .peer, .accessComplete k j x .peer, .commandFetch k w .peer,
    .load k .peer, .store k .peer, .atomicAdd k .peer, .atomicMax k .peer, .chaferWindowStart k .peer, .chaferOpenTake k .peer,
    .chaferSetupDone k .peer, .chaferEvalEnd k j .peer]

/-- What a command can come to. -/
inductive ComesTo (c : Instr) (s : State) : Host.Outcome State Fault Refusal → Prop
  | next {t : State} (closed : Closed s t) : ComesTo c s (.next t)
  | powerSequence (v : Nat) (rise : c = .porstNRise v) (off : s.boot.powered = false) : ComesTo c s (.fault .powerSequence)
  | boundary (l : List Nat) (at_ : c = .lineBoundary l ∨ c = .staveBoundary l) (broken : imageBroken s = true) :
      ComesTo c s (.fault .imageWritten)
  | loadDone (done : c = .scoreLoadDone) (written : s.cantor.imageWritten = true) : ComesTo c s (.fault .imageWritten)
  | stream (k : Nat) (reads : c = .taskEnd k ∨ ∃ w d, c = .commandFetch k w d) (hit : streamHit s k = true) :
      ComesTo c s (.fault .streamWritten)
  | peer (k j x : Nat) (w : Option Nat) (takes : c ∈ peerCmds k j x w) : ComesTo c s (.fault .peerAccess)

section
variable {c : Instr} {s t u : State}

theorem Closed.refl (s : State) : Closed s s := .inl rfl

theorem closed_finish (s u : State) : Closed s (finish u) := .inr ⟨u, rfl⟩

theorem Closed.ite {p : Prop} [Decidable p] (yes : Closed s t) (no : Closed s u) : Closed s (if p then t else u) := by
  split
  · exact yes
  · exact no

theorem closed_writeCmd (q : Req) (pl : Place) (v : W32) (s : State) : Closed s (writeCmd q pl v s) :=
  .ite (closed_finish ..) (.refl s)

theorem closed_entryCmd (n count : Nat) (q : Req) (off : Nat) (v : W32) (s : State) : Closed s (entryCmd n count q off v s) :=
  .ite (closed_writeCmd ..) (.refl s)

theorem closed_tailCmd (q : Req) (pl : Place) (tail : W32) (head : Option W32) (s : State) :
    Closed s (tailCmd q pl tail head s) := by
  cases head with
  | none => exact closed_writeCmd ..
  | some h => exact .ite (closed_finish ..) (.refl s)

theorem closed_tick (s : State) : Closed s (tick s) := .ite (.refl s) (closed_finish ..)

/-- An event that takes an answer of the host stops at one from another endpoint. -/
theorem comesTo_answered {data : HostData} {f : State → State} (takes : data = .peer → ∃ k j x w, c ∈ peerCmds k j x w) :
    ComesTo c s (answered data f s) := by
  cases data with
  | peer =>
    obtain ⟨k, j, x, w, mem⟩ := takes rfl
    exact .peer k j x w mem
  | bytes l => exact .next (closed_finish ..)
  | failed => exact .next (closed_finish ..)

end

/-- What each command comes to, by the shape of its meaning. -/
theorem exec_comesTo (c : Instr) (s : State) : ComesTo c s (Sys2Proof.Machine.exec c s) := by
  cases c with
  | porstNRise v =>
    cases on : s.boot.powered with
    | false => simpa [Sys2Proof.Machine.exec, execPorstNRise, on] using .powerSequence v rfl on
    | true => simpa [Sys2Proof.Machine.exec, execPorstNRise, on] using .next (closed_finish ..)
  | lineBoundary l =>
    cases broken : imageBroken s with
    | true => simpa [Sys2Proof.Machine.exec, execLineBoundary, broken] using .boundary l (.inl rfl) broken
    | false => simpa [Sys2Proof.Machine.exec, execLineBoundary, broken] using .next (closed_finish ..)
  | staveBoundary l =>
    cases broken : imageBroken s with
    | true => simpa [Sys2Proof.Machine.exec, execStaveBoundary, broken] using .boundary l (.inr rfl) broken
    | false => simpa [Sys2Proof.Machine.exec, execStaveBoundary, broken] using .next (closed_finish ..)
  | scoreLoadDone =>
    cases written : s.cantor.imageWritten with
    | true => simpa [Sys2Proof.Machine.exec, execScoreLoadDone, written] using .loadDone rfl written
    | false => simpa [Sys2Proof.Machine.exec, execScoreLoadDone, written] using .next (closed_finish ..)
  | taskEnd k =>
    cases hit : streamHit s k with
    | true => simpa [Sys2Proof.Machine.exec, execTaskEnd, hit] using .stream k (.inl rfl) hit
    | false => simpa [Sys2Proof.Machine.exec, execTaskEnd, hit] using .next (closed_finish ..)
  | commandFetch k w data =>
    cases hit : streamHit s k with
    | true => simpa [Sys2Proof.Machine.exec, execCommandFetch, hit] using .stream k (.inr ⟨w, data, rfl⟩) hit
    | false =>
      simpa [Sys2Proof.Machine.exec, execCommandFetch, hit] using
        comesTo_answered (fun e => ⟨k, 0, 0, w, by simp [peerCmds, e]⟩)
  | descriptorArrival k => exact comesTo_answered fun e => ⟨k, 0, 0, none, by simp [peerCmds, e]⟩
  | fragmentHeaderArrival k j => exact comesTo_answered fun e => ⟨k, j, 0, none, by simp [peerCmds, e]⟩
  | accessComplete k j x => exact comesTo_answered fun e => ⟨k, j, x, none, by simp [peerCmds, e]⟩
  | chaferEvalEnd k j => exact comesTo_answered fun e => ⟨k, j, 0, none, by simp [peerCmds, e]⟩
  | load k | store k | atomicAdd k | atomicMax k | chaferWindowStart k | chaferOpenTake k | chaferSetupDone k =>
    exact comesTo_answered fun e => ⟨k, 0, 0, none, by simp [peerCmds, e]⟩
  | sqTailDoorbell => exact .next (closed_tailCmd ..)
  | flogTailWrite q page v =>
    cases at_ : flogTail page with
    | none => simpa [Sys2Proof.Machine.exec, execFlogTailWrite, at_] using .next (.refl s)
    | some a => simpa [Sys2Proof.Machine.exec, execFlogTailWrite, at_] using .next (closed_writeCmd ..)
  | nowLoRead => exact .next (.ite (closed_finish ..) (closed_finish ..))
  | palDataRead | ibiPopRead | capPopRead => exact .next (.ite (closed_finish ..) (.refl s))
  | camRelease | palDataWrite | safeOnlyWrite | evcPendSet | evcPendClear | evcCfgWrite | slinkEnable | dramcEnableWrite
  | nrcInvArm | ethRxHeadWrite | ethTxqTailWrite | spiCtlGo | hartRestart | awCfgWrite | cantorTokenWrite | cantorTokenAtWrite
  | timerSwReset | timerSwCap | tenantMbox | i3cPrivateXfer | i2cXfer | broadcastCcc | entdaa | directCcc =>
    exact .next (.ite (closed_writeCmd ..) (.refl s))
  | tenRingsWrite | tenEnable | tenDisable | tenGuarWrite | tenCeilWrite | tenPrioWrite | jobQuotaWrite
  | ringEnable | ringDisable | ringReset | modWrite | ringVectorWrite =>
    exact .next (closed_entryCmd ..)
  | poolSwReq | poolSwFree | weevilArmKey1 | weevilArmKey2 | weevilDisarm | weevilFire | debugAllowWrite | holdReq | holdRelease
  | traceMark | dsiGenGo | choirKeyOnWrite | keyOff | xpNodeWrite | evcDoorbell | evcComplete | slinkRwData | slinkEvSend
  | lockCal | lockTake | lockRelease | hymnalEnable | hymnalRdSeqWrite | hymnalWrSeqWrite | invGo | spiPublish | spiRxFullClear
  | gpioOutSet | gpioOutClr | evtSetWrite | stageDiscard | softReset | pageOwnerWrite | pageWmaskWrite | guardHdrLock
  | allHdrLock | rollModeWrite | rollTailWrite | rollRdSeqWrite | awFeedWrite | safetyFenceWrite | faultRaiseWrite
  | classMapWrite | classLockWrite | pinReleaseWrite | wdogCfgWrite | wdogKick | scoreLoadGo | scoreLoadCancel
  | guardResetCold | guardResetWarm | guardResetStave | otpProg | tuneBufDataWrite | tuneUnlock | tuneCommitGo | snumLoadArm
  | head1DivWrite | timerSnap | cqHeadDoorbell | registerWrite =>
    exact .next (closed_writeCmd ..)
  | _ => exact .next (closed_finish ..)

/-- What a step comes to: the front command with the rest of the queue, or a sub-beat. -/
theorem step_closed {s t : State} (next : Sys2Proof.Machine.step s = .next t) :
    Closed s t ∨ ∃ c l, s.pending = c :: l ∧ Closed { s with pending := l } t := by
  unfold Sys2Proof.Machine.step at next
  split at next
  · cases next; exact .inl (closed_tick s)
  · rename_i c l front
    have comes := exec_comesTo c { s with pending := l }
    rw [next] at comes
    cases comes with
    | next closed => exact .inr ⟨c, l, front, closed⟩

/-- The shared end of commands settles every state. -/
theorem settled_finish (u : State) : Settled (finish u) :=
  ⟨mirrored_finish u, by simp [finish], by simp [finish]⟩

theorem Closed.settled {s t : State} (closed : Closed s t) (settled : Settled s) : Settled t := by
  obtain rfl | ⟨u, rfl⟩ := closed
  · exact settled
  · exact settled_finish u

/-- The queue is no part of what a settled state says. -/
theorem Settled.queue {s : State} (h : Settled s) (l : List Instr) : Settled { s with pending := l } :=
  ⟨h.mirrored.congr (fun _ _ => rfl) rfl, h.answer, h.answered⟩

/-- Settles O41: every command stays or ends, and the end settles. -/
theorem everyStepSettles : Obligations.EveryStepSettles := by
  intro s t settled next
  obtain closed | ⟨c, l, -, closed⟩ := step_closed next
  · exact closed.settled settled
  · exact closed.settled (settled.queue l)

/-- Settles O43: the four undefined cases are the only outcomes of a command without a next state. -/
theorem onlyUndefinedCasesStop : Obligations.OnlyUndefinedCasesStop := by
  intro c s
  have comes := exec_comesTo c s
  refine ⟨fun r refused => ?_, fun fault => ?_, fun fault => ?_, fun fault => ?_, fun fault => ?_⟩
  · rw [refused] at comes; cases comes
  · rw [fault] at comes
    cases comes with
    | powerSequence v rise off => exact ⟨off, v, rise⟩
  · rw [fault] at comes
    cases comes with
    | boundary l at_ broken => exact .inl ⟨broken, l, at_⟩
    | loadDone done written => exact .inr ⟨written, done⟩
  · rw [fault] at comes
    cases comes with
    | stream k reads hit => exact ⟨k, hit, reads⟩
  · rw [fault] at comes
    cases comes with
    | peer k j x w takes => exact ⟨k, j, x, w, takes⟩

/-- Settles O40: the cases of the queue, and within the empty one of the counter. -/
theorem stepTakesTheFrontCommand : Obligations.StepTakesTheFrontCommand := by
  intro s c l
  refine ⟨fun front => ?_, fun empty still => ?_, fun n t empty runs within hn ht => ?_⟩
  · simp [Sys2Proof.Machine.step, front]
  · have stays : tick s = s := by
      obtain stopped | ⟨beat, sub⟩ := still
      · simp [tick, stopped]
      · simp [tick, beat, sub]
    simp [Sys2Proof.Machine.step, empty, stays]
  · subst hn ht
    simp [Sys2Proof.Machine.step, empty, tick, runs, within]

/-- The state at reset has its repeated fields in agreement. -/
theorem mirrored_reset : Mirrored State.reset :=
  ⟨by decide, by decide, by decide, by decide, by decide⟩

theorem quiet_reset : Quiet State.reset := ⟨rfl, rfl, rfl, rfl, rfl, rfl⟩

/-- Settles O42: each part is read off the state at reset. -/
theorem resetIsSettled : Obligations.ResetIsSettled :=
  ⟨⟨mirrored_reset, quiet_reset.answer, quiet_reset.answered⟩, quiet_reset, rfl, rfl, rfl, reset_wf⟩

end Sys2Proof.Machine
end

