-- ==== Sys2Proof/Proofs/Verdicts.lean ====
section
/-! The later rows of a register write's verdict: the value, the roll in HOLD mode, and the header locks (R84, R87, R500). -/
namespace Sys2Proof.Machine

section
variable {s : State} {q : Req} {p off : Nat} {isHdr : Bool} {d : PageDesc} {r : RegDesc}

/-- A write that no row before VALUE refuses: the rows that are left. -/
theorem pageVerdict_late (v : W32) (page : pageDesc p = some d) (here : present s.member p = true) (s6 : beforeS6 s = false)
    (full : q.be % 16 = 15) (may : authorised s q p off isHdr = true) (own : isShadow d p off isHdr = false)
    (named : regNamed d p off isHdr = some r) (writable : regWritable s d p off isHdr r = true)
    (free : (!isHdr && d.fixed) = false) :
    pageVerdict s q p off isHdr v =
      if !(if isHdr then hdrOk d p off v s else valueOk q d p off v s && rhOk q.origin r
          (if inStaged d off isHdr then rd s (shadow (if isHdr then hdr p off else p * 0x1000 + off))
            else view s q.origin (if isHdr then hdr p off else p * 0x1000 + off)) v) then some 9
      else if isConfig q.origin d off isHdr r && rollHolds s && !(p == Pg.ROLL && isMain q.origin) then some 10
      else if ownerReg isHdr off && hdrLocked s d then some 12
      else none := by
  simp [pageVerdict, page, here, s6, full, may, own, named, writable, free]

theorem hdrLocked_iff : hdrLocked s d = true ↔
    rdB s Rg.AUTH_LOCK 1 = true ∨ (rdB s Rg.AUTH_LOCK 0 = true ∧ d.guardDie = true) := by
  simp [hdrLocked]

/-- R84: the last row refuses an owner register of a locked header, whatever the rows before it say. -/
theorem pageVerdict_locked_ne_none (v : W32) (page : pageDesc p = some d) (owner : ownerReg true off = true)
    (locked : hdrLocked s d = true) : pageVerdict s q p off true v ≠ none := by
  simp only [pageVerdict, page, owner, locked, Bool.and_self, if_true]
  repeat' split
  all_goals exact Option.some_ne_none _

/-- The owner registers are in every page's header, and RW. -/
theorem regNamed_owner (owner : ownerReg true off = true) :
    ∃ r, regNamed d p off true = some r ∧ r.flds.any (fun f => f.acc != .ro && f.acc != .rc && f.acc != .rl) = true := by
  obtain ⟨-, rfl | rfl⟩ := ownerReg_iff.mp owner <;> exact ⟨_, rfl, rfl⟩

end

/-- Settles O46: the locks are the last row of the verdict. -/
theorem lockedHeadersAreRefused : Obligations.LockedHeadersAreRefused := by
  intro s q p off d v page which lock
  have owner : ownerReg true off = true := ownerReg_iff.mpr ⟨rfl, which⟩
  have locked : hdrLocked s d = true := hdrLocked_iff.mpr lock
  refine ⟨pageVerdict_locked_ne_none v page owner locked, fun here s6 full may ok roll => ?_⟩
  obtain ⟨r, named, writable⟩ := regNamed_owner (d := d) (p := p) owner
  rw [pageVerdict_late v page here s6 full may (by simp [isShadow]) named (by simp [regWritable, writable]) rfl]
  simp [ok, roll, owner, locked]

/-! ## Weevil's rules -/

theorem pageDesc_weevil : ∃ d, pageDesc Pg.WEEVIL = some d ∧ d.kind = .weevil ∧ d.fixed = false ∧ d.staged = false
    ∧ ∀ r < 8, ∀ k ∈ [0, 4, 8, 12, 16, 20, 24], ∃ x, regNamed d Pg.WEEVIL (0x100 + 32 * r + k) false = some x
      ∧ x.flds.all (·.acc == .rw) = true ∧ x.flds.isEmpty = false :=
  ⟨_, rfl, rfl, rfl, rfl, by decide⟩

/-- A register of RW fields is writable, and every origin may write it. -/
theorem writable_of_rw {x : RegDesc} (rw_ : x.flds.all (·.acc == .rw) = true) (some_ : x.flds.isEmpty = false) :
    x.flds.any (fun f => f.acc != .ro && f.acc != .rc && f.acc != .rl) = true
      ∧ ∀ o cur v, rhOk o x cur v = true := by
  simp only [List.all_eq_true, beq_iff_eq] at rw_
  constructor
  · obtain ⟨f, l, fields⟩ : ∃ f l, x.flds = f :: l := by
      cases e : x.flds with
      | nil => simp [e] at some_
      | cons f l => exact ⟨f, l, rfl⟩
    simp only [List.any_eq_true]
    exact ⟨f, by simp [fields], by simp [rw_ f (by simp [fields])]⟩
  · intro o cur v
    have none_ : x.flds.filter (·.acc == .rh) = [] := by
      simp only [List.filter_eq_nil_iff, beq_iff_eq]
      intro f mem; simp [rw_ f mem]
    simp [rhOk, none_]

/-- R500: what the value of an armed rule's register must be. -/
theorem weevilOk_armed {s : State} {r k : Nat} (o : Nat) (v : W32) (rule : r < 8) (reg : k < 32)
    (armed : rdB s Rg.WEEVIL_STAT 0 = true) :
    weevilOk o (0x100 + 32 * r + k) v s = true ↔
      k = 0 ∧ fbit (rd s (Rg.WEEVIL_WV_CTRL + 32 * r)) 0 = true
        ∧ setFld v 15 15 0 = setFld (rd s (Rg.WEEVIL_WV_CTRL + 32 * r)) 0 0 0 := by
  have beside : ¬ 0x100 + 32 * r + k = 0x44 := by omega
  have inside : 0x100 + 32 * r + k < 0x200 := by omega
  have index : (0x100 + 32 * r + k - 0x100) / 32 = r := by omega
  have word : (0x100 + 32 * r + k) % 32 = k := by omega
  have above : 0x100 ≤ 0x100 + 32 * r + k := by omega
  simp [weevilOk, beside, inside, above, index, word, armed, wvCtrl, and_assoc]

/-- Settles O47: the write gets as far as its value, and no later row gives VALUE. -/
theorem armedRulesStand : Obligations.ArmedRulesStand := by
  rintro s q r k v c rule reg s6 full here may armed rfl
  obtain ⟨d, page, kind, fixed, staged, regs⟩ := pageDesc_weevil
  obtain ⟨x, named, rw_, some_⟩ := regs r rule k reg
  obtain ⟨writable, rhs⟩ := writable_of_rw rw_ some_
  have small : k < 32 := by
    simp only [List.mem_cons, List.not_mem_nil, or_false] at reg; omega
  rw [← weevilOk_armed q.origin v rule small armed,
    pageVerdict_late v page here s6 full may (by simp [isShadow, staged]) named
      (by simp [regWritable, kind, writable]) (by simp [fixed])]
  simp only [rhs, Bool.and_true, valueOk, kind]
  cases weevilOk q.origin (0x100 + 32 * r + k) v s with
  | false => simp
  | true =>
    simp only [Bool.false_eq_true, if_false, Bool.not_true, not_true, iff_false]
    repeat' split
    all_goals decide

end Sys2Proof.Machine
end

