-- ==== Sys2Proof/Proofs/Roll.lean ====
section
/-! The change roll: what an event and an entry of the roll touch, entries at a full roll (R90, R92), and what a refused write
leaves alone (R65, R86, R87, R91). -/
namespace Sys2Proof.Machine

/-! ## What is touched -/

/-- From s to t only the registers listed, the roll and the event controller may have changed. -/
structure Touches (l : List Nat) (s t : State) : Prop where
  frame : t = { s with regs := t.regs, roll := t.roll, evc := t.evc }
  regs : ∀ a ∉ l, rd t a = rd s a

section
variable {l m : List Nat} {s t u : State}

theorem Touches.refl (l : List Nat) (s : State) : Touches l s s := ⟨rfl, fun _ _ => rfl⟩

theorem Touches.trans (h : Touches l s t) (k : Touches l t u) : Touches l s u :=
  ⟨by rw [k.frame, h.frame], fun a n => (k.regs a n).trans (h.regs a n)⟩

theorem Touches.mono (h : Touches l s t) (sub : l ⊆ m) : Touches m s t :=
  ⟨h.frame, fun a n => h.regs a fun mem => n (sub mem)⟩

theorem Touches.ite {p : Prop} [Decidable p] (yes : Touches l s t) (no : Touches l s u) : Touches l s (if p then t else u) := by
  split
  · exact yes
  · exact no

/-- Where the roll is as it was, only registers and the event controller have changed. -/
theorem Touches.keepsRoll (h : Touches l s t) (roll : t.roll = s.roll) : t = { s with regs := t.regs, evc := t.evc } :=
  h.frame.trans (by rw [roll])

end

section
variable (s : State) {l : List Nat}

theorem touches_wr {a : Nat} (v : W32) (mem : a ∈ l) : Touches l s (wr a v s) :=
  ⟨rfl, fun _ n => rd_wr_ne _ _ fun e => n (e ▸ mem)⟩

theorem touches_bump {a : Nat} (mem : a ∈ l) : Touches l s (bump a s) := touches_wr s _ mem
theorem touches_bumpWrap {a : Nat} (mem : a ∈ l) : Touches l s (bumpWrap a s) := touches_wr s _ mem
theorem touches_roll (r : RollSt) : Touches l s { s with roll := r } := ⟨rfl, fun _ _ => rfl⟩

theorem touches_raiseSrc (src : Nat) : Touches l s (raiseSrc src s) := ⟨rfl, fun _ _ => rfl⟩

/-- An event sets its bit and may raise its source. -/
theorem touches_setEvt {p : Nat} (i : Nat) (mem : hdr p Hdr.EVT_STAT ∈ l) : Touches l s (setEvt p i s) := by
  have set_ : Touches l s (wrB (hdr p Hdr.EVT_STAT) i true s) := touches_wr s _ mem
  unfold setEvt
  split
  · exact .refl l s
  · dsimp only
    split
    · split
      · exact set_.trans (touches_raiseSrc ..)
      · exact set_
    · exact set_

@[simp] theorem setEvt_roll (p i : Nat) : (setEvt p i s).roll = s.roll := by
  unfold setEvt
  split
  · rfl
  · dsimp only
    split
    · split <;> rfl
    · rfl

theorem rd_setEvt_ne {a p : Nat} (i : Nat) (ne : a ≠ hdr p Hdr.EVT_STAT) : rd (setEvt p i s) a = rd s a :=
  (touches_setEvt (l := [hdr p Hdr.EVT_STAT]) s i (List.mem_singleton_self _)).regs a (by simpa using ne)

end

/-- Registers of the roll that an entry may change. -/
def rollRegs : List Nat := [Rg.ROLL_NEXT_SEQ, Rg.ROLL_OLDEST_SEQ, Rg.ROLL_TAIL_SEQ, Rg.ROLL_FILL, Rg.ROLL_OVERRUN, Rg.ROLL_LOST,
  hdr Pg.ROLL Hdr.EVT_STAT]

/-- A register's place within its slot of 64 bytes tells a header register from it. -/
theorem hdr_mod (p : Nat) {off : Nat} (small : off < 64) : hdr p off % 64 = off := by
  unfold hdr; split <;> omega

theorem hdr_ne {a p off : Nat} (small : off < 64) (other : a % 64 ≠ off) : hdr p off ≠ a :=
  fun e => other (e ▸ hdr_mod p small)

/-- No header register but the roll's own EVT_STAT is one of the roll's. -/
theorem hdr_notMem_rollRegs (p : Nat) {off : Nat} (h : off ∈ [Hdr.PAGE_WSEQ, Hdr.PAGE_WDROP]) : hdr p off ∉ rollRegs := by
  intro mem
  have small : off < 64 := by
    simp only [List.mem_cons, List.not_mem_nil, or_false] at h
    obtain rfl | rfl := h <;> decide
  have place : off ∈ rollRegs.map (· % 64) := hdr_mod p small ▸ List.mem_map_of_mem mem
  simp only [List.mem_cons, List.not_mem_nil, or_false] at h
  obtain rfl | rfl := h <;> exact absurd place (by decide)

/-! ## An entry -/

section
variable (e : RollEntry) (s : State)

theorem touches_rollFillSync : Touches rollRegs s (rollFillSync s) := touches_wr s _ (by decide)

theorem touches_rollOverwrite : Touches rollRegs s (rollOverwrite s) := by
  unfold rollOverwrite
  have dropped : Touches rollRegs s (wr Rg.ROLL_OLDEST_SEQ (rd s Rg.ROLL_OLDEST_SEQ + 1)
      { s with roll := { s.roll with entries := s.roll.entries.drop 1 } }) :=
    (touches_roll s _).trans (touches_wr _ _ (by decide))
  refine .ite (.refl ..) (.ite ?_ dropped)
  exact ((dropped.trans (touches_wr _ _ (by decide))).trans (touches_bump _ (by decide))).trans
    (touches_setEvt _ 3 (by decide))

/-- The roll with an entry at its end, numbered by NEXT_SEQ. -/
def rollMade : State :=
  rollFillSync (wr Rg.ROLL_NEXT_SEQ (rd s Rg.ROLL_NEXT_SEQ + 1) { s with roll := { s.roll with
    entries := s.roll.entries ++ [{ e with rseq := (rd s Rg.ROLL_NEXT_SEQ).toNat }], edgeN := s.roll.edgeN + 1 } })

theorem touches_rollMade : Touches rollRegs s (rollMade e s) :=
  ((touches_roll s _).trans (touches_wr _ _ (by decide))).trans (touches_rollFillSync _)

theorem rd_rollMade {a : Nat} (next : a ≠ Rg.ROLL_NEXT_SEQ) (fill : a ≠ Rg.ROLL_FILL) : rd (rollMade e s) a = rd s a := by
  simp only [rollMade, rollFillSync, rd_wr, fill, next, if_false]; rfl

/-- In HOLD mode a full roll loses an entry (R92). -/
theorem rollPut_lost {e : RollEntry} {s : State} (hold : rdB s Rg.ROLL_CTRL 0 = true)
    (full : rollSize ≤ sub32 (rdN s Rg.ROLL_NEXT_SEQ) (rdN s Rg.ROLL_TAIL_SEQ)) :
    rollPut e s = setEvt Pg.ROLL 2 (bump Rg.ROLL_LOST s) := by
  simp [rollPut, hold, full]

/-- Otherwise it is made, at a full roll over the oldest, and may reach the threshold (R89, R90). -/
theorem rollPut_made {e : RollEntry} {s : State} (room : ¬ (rdB s Rg.ROLL_CTRL 0 = true
      ∧ rollSize ≤ sub32 (rdN s Rg.ROLL_NEXT_SEQ) (rdN s Rg.ROLL_TAIL_SEQ))) :
    rollPut e s = rollMade e (rollOverwrite s) ∨ rollPut e s = setEvt Pg.ROLL 0 (rollMade e (rollOverwrite s)) := by
  have made : ¬ (rdB s Rg.ROLL_CTRL 0
      && decide (rollSize ≤ sub32 (rdN s Rg.ROLL_NEXT_SEQ) (rdN s Rg.ROLL_TAIL_SEQ))) = true := by
    simpa using room
  rw [rollPut]
  dsimp only
  rw [if_neg made]
  split
  · exact .inr rfl
  · exact .inl rfl

theorem touches_rollPut : Touches rollRegs s (rollPut e s) := by
  by_cases lost : rdB s Rg.ROLL_CTRL 0 = true ∧ rollSize ≤ sub32 (rdN s Rg.ROLL_NEXT_SEQ) (rdN s Rg.ROLL_TAIL_SEQ)
  · rw [rollPut_lost lost.1 lost.2]
    exact (touches_bump s (by decide)).trans (touches_setEvt _ 2 (by decide))
  · have made := (touches_rollOverwrite s).trans (touches_rollMade e _)
    obtain put | put := rollPut_made (e := e) lost
    · exact put ▸ made
    · exact put ▸ made.trans (touches_setEvt _ 0 (by decide))

end

/-! ## WRAP mode -/

/-- A full roll drops its oldest entry. -/
theorem rollOverwrite_full {s : State} (full : s.roll.entries.length = rollSize) :
    (rollOverwrite s).roll.entries = s.roll.entries.drop 1
      ∧ rd (rollOverwrite s) Rg.ROLL_NEXT_SEQ = rd s Rg.ROLL_NEXT_SEQ
      ∧ rd (rollOverwrite s) Rg.ROLL_OLDEST_SEQ = rd s Rg.ROLL_OLDEST_SEQ + 1
      ∧ (rd s Rg.ROLL_TAIL_SEQ = rd s Rg.ROLL_OLDEST_SEQ → rd (rollOverwrite s) Rg.ROLL_TAIL_SEQ = rd s Rg.ROLL_TAIL_SEQ + 1
        ∧ rd (rollOverwrite s) Rg.ROLL_OVERRUN = satAdd (rd s Rg.ROLL_OVERRUN) 1)
      ∧ (rd s Rg.ROLL_TAIL_SEQ ≠ rd s Rg.ROLL_OLDEST_SEQ → rd (rollOverwrite s) Rg.ROLL_TAIL_SEQ = rd s Rg.ROLL_TAIL_SEQ
        ∧ rd (rollOverwrite s) Rg.ROLL_OVERRUN = rd s Rg.ROLL_OVERRUN) := by
  have drops : ¬ s.roll.entries.length < rollSize := by omega
  have rest : ∀ x a, rd { s with roll := x } a = rd s a := fun _ _ => rfl
  have evt : ∀ t a, a ∈ [Rg.ROLL_NEXT_SEQ, Rg.ROLL_OLDEST_SEQ, Rg.ROLL_TAIL_SEQ, Rg.ROLL_OVERRUN] →
      rd (setEvt Pg.ROLL 3 t) a = rd t a := fun t a mem =>
    rd_setEvt_ne t 3 (ne_of_mem_of_not_mem mem (by decide))
  by_cases unread : rd s Rg.ROLL_TAIL_SEQ = rd s Rg.ROLL_OLDEST_SEQ
  · simp [rollOverwrite, drops, unread, evt, bump, rd_wr, rest]
  · simp [rollOverwrite, drops, unread, rd_wr, rest]

/-- A verdict of HOLD needs the roll in HOLD mode. -/
theorem pageVerdict_ne_hold {s : State} (wrap : rdB s Rg.ROLL_CTRL 0 = false) (q : Req) (p off : Nat) (isHdr : Bool) (v : W32) :
    pageVerdict s q p off isHdr v ≠ some 10 := by
  have other {c : Prop} [Decidable c] {n : Nat} {r : Option Nat} (ne : n ≠ 10) (rest : r ≠ some 10) :
      (if c then some n else r) ≠ some 10 := by
    split
    · simpa using ne
    · exact rest
  cases page : pageDesc p with
  | none =>
    rw [pageVerdict, page]
    exact nofun
  | some d =>
    rw [pageVerdict, page]
    refine other (by decide) (other (by decide) (other (by decide) (other (by decide) (other (by decide) ?_))))
    cases named : regNamed d p off isHdr with
    | none => exact nofun
    | some r =>
      have open_ : rollHolds s = false := by simp [rollHolds, wrap]
      refine other (by decide) (other (by decide) (other (by decide) ?_))
      rw [if_neg (by simp [open_])]
      exact other (by decide) nofun

/-- Settles O48: the entry is made over the oldest, and the event of the threshold changes none of the numbers. -/
theorem wrapOverwritesTheOldest : Obligations.WrapOverwritesTheOldest := by
  rintro s t e seq oldest tail wrap full rfl rfl rfl rfl
  obtain ⟨entries, next, old, unread, read⟩ := rollOverwrite_full (s := s) full
  have made : ∀ a ∈ [Rg.ROLL_NEXT_SEQ, Rg.ROLL_OLDEST_SEQ, Rg.ROLL_TAIL_SEQ, Rg.ROLL_OVERRUN],
      rd (rollPut e s) a = rd (rollMade e (rollOverwrite s)) a ∧
        (rollPut e s).roll = (rollMade e (rollOverwrite s)).roll := by
    intro a mem
    obtain put | put := rollPut_made (e := e) (s := s) (by simp [wrap])
    · rw [put]; exact ⟨rfl, rfl⟩
    · rw [put]; exact ⟨rd_setEvt_ne _ 0 (ne_of_mem_of_not_mem mem (by decide)), setEvt_roll ..⟩
  have kept : ∀ a ∈ [Rg.ROLL_OLDEST_SEQ, Rg.ROLL_TAIL_SEQ, Rg.ROLL_OVERRUN],
      rd (rollPut e s) a = rd (rollOverwrite s) a := fun a mem =>
    (made a (List.mem_cons_of_mem _ mem)).1.trans
      (rd_rollMade e _ (ne_of_mem_of_not_mem mem (by decide)) (ne_of_mem_of_not_mem mem (by decide)))
  refine ⟨?_, ?_, ?_, fun h => ?_, fun h => ?_, fun q p off isHdr v => pageVerdict_ne_hold wrap q p off isHdr v⟩
  · rw [(made Rg.ROLL_NEXT_SEQ (by decide)).2]
    simp [rollMade, rollFillSync, entries, next]
  · rw [(made Rg.ROLL_NEXT_SEQ (by decide)).1, ← next]
    simp [rollMade, rollFillSync, rd_wr]
  · rw [kept _ (by decide), old]
  · rw [kept _ (by decide), kept _ (by decide)]; exact unread h
  · rw [kept _ (by decide), kept _ (by decide)]; exact read h

/-! ## HOLD mode -/

/-- A count of the page's header leaves HOLD mode and the fill of the roll. -/
theorem rollPut_lost_counted {e : RollEntry} {s t : State} {p off : Nat} (h : off ∈ [Hdr.PAGE_WSEQ, Hdr.PAGE_WDROP])
    (hold : rdB s Rg.ROLL_CTRL 0 = true) (full : rollSize ≤ sub32 (rdN s Rg.ROLL_NEXT_SEQ) (rdN s Rg.ROLL_TAIL_SEQ))
    (counted : Touches [hdr p off] s t) : rollPut e t = setEvt Pg.ROLL 2 (bump Rg.ROLL_LOST t) := by
  have same : ∀ a ∈ [Rg.ROLL_CTRL, Rg.ROLL_NEXT_SEQ, Rg.ROLL_TAIL_SEQ], rd t a = rd s a := by
    intro a mem
    refine counted.regs a fun hit => ?_
    rw [List.mem_singleton] at hit
    simp only [List.mem_cons, List.not_mem_nil, or_false] at h mem
    refine absurd hit.symm (hdr_ne ?_ ?_)
    · obtain rfl | rfl := h <;> decide
    · obtain rfl | rfl := h <;> obtain rfl | rfl | rfl := mem <;> decide
  have ctrl := same Rg.ROLL_CTRL (by decide)
  have next := same Rg.ROLL_NEXT_SEQ (by decide)
  have tail := same Rg.ROLL_TAIL_SEQ (by decide)
  exact rollPut_lost (by simpa only [rdB, ctrl] using hold) (by simpa only [rdN, next, tail] using full)

/-- Settles O49: the counts come before the entry, and the entry is lost. -/
theorem fullHoldMakesNoEntry : Obligations.FullHoldMakesNoEntry := by
  intro s q p e d hold s6 full
  have wseq : Touches [hdr p Hdr.PAGE_WSEQ] s (bumpWrap (hdr p Hdr.PAGE_WSEQ) s) := touches_bumpWrap s (by simp)
  have wdrop : Touches [hdr p Hdr.PAGE_WDROP] s (bump (hdr p Hdr.PAGE_WDROP) s) := touches_bump s (by simp)
  refine ⟨rollPut_lost hold full, ?_, fun c off old new => ?_, ?_⟩
  · exact rollPut_lost_counted (by decide) hold full wseq
  · exact rollPut_lost_counted (by decide) hold full wseq
  · rintro old v t drop rfl
    simp [refuse, s6, drop, rollPut_lost_counted (by decide) hold full wdrop]

/-! ## Refusals -/

/-- Registers that a refusal may change beside the count of its page. -/
def refusalRegs : List Nat := [Rg.BOOT_DROPS, Rg.ROLL_NEXT_SEQ, Rg.ROLL_OLDEST_SEQ, Rg.ROLL_TAIL_SEQ, Rg.ROLL_FILL,
  Rg.ROLL_OVERRUN, Rg.ROLL_LOST, Rg.AUTH_LAST_REFUSED, hdr Pg.AUTH Hdr.EVT_STAT, hdr Pg.ROLL Hdr.EVT_STAT]

/-- The refusal counted: BOOT.DROPS before S6, and after it PAGE_WDROP of the page. -/
def refusalCounted (d : Dest) (s : State) : State :=
  if beforeS6 s then bump Rg.BOOT_DROPS s else
    match d.drop with
    | some p => bump (hdr p Hdr.PAGE_WDROP) s
    | none => s

theorem touches_refusalCounted (d : Dest) (s : State) :
    Touches (refusalRegs ++ (d.drop.toList.map fun p => hdr p Hdr.PAGE_WDROP)) s (refusalCounted d s) := by
  unfold refusalCounted
  split
  · exact touches_bump s (by simp [refusalRegs])
  · split
    · rename_i p drop
      exact touches_bump s (by simp [drop])
    · exact .refl ..

/-- What a refusal adds to its count: the roll entry, AUTH.LAST_REFUSED and the events of AUTH and ROLL. -/
theorem refuse_eq (q : Req) (d : Dest) (reason : Nat) (old v : W32) (s : State) :
    ∃ t, Touches rollRegs (refusalCounted d s) t ∧
      Touches [hdr Pg.AUTH Hdr.EVT_STAT, hdr Pg.ROLL Hdr.EVT_STAT]
        (wr Rg.AUTH_LAST_REFUSED (w32 (q.origin + reason * 0x100 + d.page * 0x1000)) t) (refuse q d reason old v s) := by
  unfold refuse
  extract_lets early counted count entered shown told
  refine ⟨entered, touches_rollPut _ counted, ?_⟩
  have events : Touches [hdr Pg.AUTH Hdr.EVT_STAT, hdr Pg.ROLL Hdr.EVT_STAT] shown told :=
    .ite (touches_setEvt _ 0 (by simp)) (.ite (touches_setEvt _ 1 (by simp)) (.refl ..))
  exact events.trans (.ite ((touches_roll _ _).trans (touches_setEvt _ 1 (by simp))) (.refl ..))

/-- A refusal for another reason than its value is nothing but refuse. -/
theorem writeNow_refused {s t : State} {q : Req} {d : Dest} {v : W32} {reason : Nat} (refused : verdict s q d v = some reason)
    (other : reason ≠ 9) (write : writeNow q d v s = (false, t)) : t = refuse q d reason (refusedOld s q d) v s := by
  have still : ∀ u, refusedFx q d reason u = u := fun u => by
    unfold refusedFx
    split
    · simp [other]
    · rfl
  simp only [writeNow, refused, still, Prod.mk.injEq, true_and] at write
  exact write.symm

/-- Settles O51: a refusal is its count, a roll entry, AUTH.LAST_REFUSED and the events. -/
theorem refusedWritesChangeNothingElse : Obligations.RefusedWritesChangeNothingElse := by
  intro s t q d v reason refused other write
  obtain rfl := writeNow_refused refused other write
  obtain ⟨u, entered, told⟩ := refuse_eq q d reason (refusedOld s q d) v s
  have counted := touches_refusalCounted d s
  have evts : ∀ {a}, a ∈ [hdr Pg.AUTH Hdr.EVT_STAT, hdr Pg.ROLL Hdr.EVT_STAT] → a ∈ refusalRegs := fun {a} mem => by
    simp only [List.mem_cons, List.not_mem_nil, or_false] at mem
    obtain rfl | rfl := mem <;> decide
  have whole : Touches (refusalRegs ++ (d.drop.toList.map fun p => hdr p Hdr.PAGE_WDROP)) s
      (refuse q d reason (refusedOld s q d) v s) :=
    ((counted.trans (entered.mono fun a mem => List.mem_append_left _ (by
      simp only [rollRegs, List.mem_cons, List.not_mem_nil, or_false] at mem
      obtain rfl | rfl | rfl | rfl | rfl | rfl | rfl := mem <;> decide))).trans
        (touches_wr u _ (List.mem_append_left _ (by decide)))).trans (told.mono fun a mem => List.mem_append_left _ (evts mem))
  have count : ∀ a, a ∉ rollRegs → a ≠ Rg.AUTH_LAST_REFUSED → a ∉ [hdr Pg.AUTH Hdr.EVT_STAT, hdr Pg.ROLL Hdr.EVT_STAT] →
      rd (refuse q d reason (refusedOld s q d) v s) a = rd (refusalCounted d s) a := fun a roll last evt => by
    rw [told.regs a evt, rd_wr_ne _ _ last, entered.regs a roll]
  refine ⟨whole.frame, fun a beside drop => whole.regs a ?_, ?_, fun early => ?_, fun p late drop => ?_⟩
  · intro mem
    rcases List.mem_append.mp mem with mem | mem
    · exact beside mem
    · simp only [List.mem_map, Option.mem_toList] at mem
      obtain ⟨p, at_, rfl⟩ := mem
      exact drop p at_ rfl
  · rw [told.regs _ (by decide), rd_wr_same]
  · rw [count _ (by decide) (by decide) (by decide)]
    simp [refusalCounted, early]
  · have slot := hdr_mod p (off := Hdr.PAGE_WDROP) (by decide)
    rw [count _ (hdr_notMem_rollRegs p (by decide)) (hdr_ne (by decide) (by decide)) (by
      intro mem
      have place := List.mem_map_of_mem (f := (· % 64)) mem
      simp only [slot] at place
      exact absurd place (by decide))]
    simp [refusalCounted, late, drop]

end Sys2Proof.Machine
end

