-- ==== Sys2Proof/Proofs/Fields.lean ====
section
/-! What each field of a register takes from a written word, and what the roll's entry shows of it, bit by bit (R63, R554). -/
namespace Sys2Proof.Machine

/-- Fields lie within their word and apart from one another. -/
abbrev FieldsApart (l : List Fld) : Prop :=
  (∀ f ∈ l, f.lo ≤ f.hi ∧ f.hi < 32) ∧ l.Pairwise fun f g => f.hi < g.lo ∨ g.hi < f.lo

/-- The register tables of the model keep fields apart. -/
theorem fieldsApart_pageTable : ∀ x ∈ pageTable, ∀ r ∈ x.regs, FieldsApart r.flds := by decide +kernel

/-- What a step for one field does to a bit: within the field the rule's value, elsewhere nothing. -/
def FieldStep (step : W32 → Fld → W32) (rule : Fld → Nat → Bool → Bool) : Prop :=
  ∀ (w : W32) (f : Fld) (j : Nat), f.lo ≤ f.hi ∧ f.hi < 32 →
    (step w f).getLsbD j = if f.lo ≤ j ∧ j ≤ f.hi then rule f j (w.getLsbD j) else w.getLsbD j

section
variable {step : W32 → Fld → W32} {rule : Fld → Nat → Bool → Bool} {l : List Fld} {j : Nat}

/-- A bit outside every field stays. -/
theorem foldl_outside (h : FieldStep step rule) (apart : FieldsApart l) (out : ∀ f ∈ l, ¬ (f.lo ≤ j ∧ j ≤ f.hi)) (w : W32) :
    (l.foldl step w).getLsbD j = w.getLsbD j := by
  obtain ⟨fit, disjoint⟩ := apart
  induction l generalizing w with
  | nil => rfl
  | cons f l ih =>
    simp only [List.forall_mem_cons] at fit out
    rw [List.foldl_cons, ih out.2 _ fit.2 disjoint.of_cons, h w f j fit.1, if_neg out.1]

/-- A bit within a field follows the rule of that field. -/
theorem foldl_inside (h : FieldStep step rule) (apart : FieldsApart l) {f : Fld} (mem : f ∈ l) (lo : f.lo ≤ j) (hi : j ≤ f.hi)
    (w : W32) : (l.foldl step w).getLsbD j = rule f j (w.getLsbD j) := by
  obtain ⟨fit, disjoint⟩ := apart
  induction l generalizing w with
  | nil => simp at mem
  | cons g l ih =>
    simp only [List.forall_mem_cons] at fit
    simp only [List.pairwise_cons] at disjoint
    rw [List.foldl_cons]
    rcases List.mem_cons.mp mem with rfl | mem
    · rw [foldl_outside h ⟨fit.2, disjoint.2⟩ (fun g' other => by have := disjoint.1 g' other; omega), h w f j fit.1,
        if_pos ⟨lo, hi⟩]
    · have other := disjoint.1 f mem
      rw [ih mem _ fit.2 disjoint.2, h w g j fit.1, if_neg (by omega)]

end

/-! ## One field -/

theorem maskOf_getLsbD {hi lo j : Nat} (h : lo ≤ hi ∧ hi < 32) : (maskOf hi lo).getLsbD j = decide (lo ≤ j ∧ j ≤ hi) := by
  rw [maskOf, Nat.mul_comm, w32, BitVec.getLsbD_ofNat, Nat.testBit_two_pow_mul, Nat.testBit_two_pow_sub_one]
  by_cases covers : lo ≤ j ∧ j ≤ hi
  · have inside : j < 32 ∧ j - lo < hi + 1 - lo := by omega
    simp [covers, inside]
  · have outside : ¬ (lo ≤ j ∧ j - lo < hi + 1 - lo) := by omega
    simp only [covers, decide_false, Bool.and_eq_false_iff, decide_eq_false_iff_not]
    omega

/-- A field set to a word's own field takes the word's bits. -/
theorem setFld_fld_getLsbD (w v : W32) {hi lo j : Nat} (h : lo ≤ hi ∧ hi < 32) :
    (setFld w hi lo (fld v hi lo)).getLsbD j = if lo ≤ j ∧ j ≤ hi then v.getLsbD j else w.getLsbD j := by
  rw [setFld_getLsbD w hi lo _ j h.1 h.2, fld, bits_testBit, BitVec.testBit_toNat]
  by_cases covers : lo ≤ j ∧ j ≤ hi
  · have inside : j - lo < hi + 1 - lo := by omega
    have place : lo + (j - lo) = j := by omega
    simp [covers, inside, place]
  · simp [covers]

theorem clear_getLsbD (w v : W32) {hi lo j : Nat} (h : lo ≤ hi ∧ hi < 32) :
    (w &&& ~~~(v &&& maskOf hi lo)).getLsbD j = if lo ≤ j ∧ j ≤ hi then w.getLsbD j && !v.getLsbD j else w.getLsbD j := by
  simp only [BitVec.getLsbD_and, BitVec.getLsbD_not, maskOf_getLsbD h]
  by_cases covers : lo ≤ j ∧ j ≤ hi
  · have small : j < 32 := by omega
    simp only [covers, small, and_self, decide_true, Bool.and_true, Bool.true_and, if_true]
  · by_cases small : j < 32
    · simp [covers, small]
    · simp [covers, BitVec.getLsbD_of_ge w j (by omega)]

theorem set_getLsbD (w v : W32) {hi lo j : Nat} (h : lo ≤ hi ∧ hi < 32) :
    (w ||| (v &&& maskOf hi lo)).getLsbD j = if lo ≤ j ∧ j ≤ hi then w.getLsbD j || v.getLsbD j else w.getLsbD j := by
  by_cases covers : lo ≤ j ∧ j ≤ hi <;> simp [maskOf_getLsbD h, covers]

/-! ## What is stored and what is shown -/

/-- The bit that an accepted write stores in a field. -/
def storeBit (v : W32) (f : Fld) (j : Nat) (cur : Bool) : Bool :=
  match f.acc with
  | .rw | .rh => v.getLsbD j
  | .w1c => cur && !v.getLsbD j
  | _ => cur

/-- The bit that an accepted write's entry shows as NEW. -/
def newBit (v : W32) (f : Fld) (j : Nat) (cur : Bool) : Bool :=
  match f.acc with
  | .rw | .rh | .wo => v.getLsbD j
  | .w1s => cur || v.getLsbD j
  | .w1c => cur && !v.getLsbD j
  | _ => cur

section
variable {l : List Fld} {j : Nat} (cur v : W32)

theorem storeWord_bits (apart : FieldsApart l) :
    (∀ f ∈ l, f.lo ≤ j → j ≤ f.hi → (storeWord l cur v).getLsbD j = storeBit v f j (cur.getLsbD j))
      ∧ ((∀ f ∈ l, ¬ (f.lo ≤ j ∧ j ≤ f.hi)) → (storeWord l cur v).getLsbD j = cur.getLsbD j) := by
  have step : FieldStep (fun w f => match f.acc with
      | .rw | .rh => setFld w f.hi f.lo (fld v f.hi f.lo)
      | .w1c => w &&& ~~~(v &&& maskOf f.hi f.lo)
      | _ => w) (storeBit v) := by
    intro w f j fit
    cases acc : f.acc <;> simp [storeBit, acc, setFld_fld_getLsbD w v fit, clear_getLsbD w v fit]
  exact ⟨fun f mem lo hi => foldl_inside step apart mem lo hi cur, fun out => foldl_outside step apart out cur⟩

theorem rollOld_bits (apart : FieldsApart l) :
    (∀ f ∈ l, f.lo ≤ j → j ≤ f.hi → (rollOld l cur).getLsbD j = (cur.getLsbD j && decide (f.acc ≠ .wo)))
      ∧ ((∀ f ∈ l, ¬ (f.lo ≤ j ∧ j ≤ f.hi)) → (rollOld l cur).getLsbD j = cur.getLsbD j) := by
  have step : FieldStep (fun w f => if f.acc == .wo then setFld w f.hi f.lo 0 else w)
      (fun f _ b => b && decide (f.acc ≠ .wo)) := by
    intro w f j fit
    by_cases acc : f.acc = .wo
    · simp [acc, setFld_getLsbD w f.hi f.lo 0 j fit.1 fit.2]
    · simp [acc]
  exact ⟨fun f mem lo hi => foldl_inside step apart mem lo hi cur, fun out => foldl_outside step apart out cur⟩

theorem rollNew_bits (apart : FieldsApart l) :
    (∀ f ∈ l, f.lo ≤ j → j ≤ f.hi → (rollNew l cur v).getLsbD j = newBit v f j (cur.getLsbD j))
      ∧ ((∀ f ∈ l, ¬ (f.lo ≤ j ∧ j ≤ f.hi)) → (rollNew l cur v).getLsbD j = cur.getLsbD j) := by
  have step : FieldStep (fun w f => match f.acc with
      | .rw | .rh | .wo => setFld w f.hi f.lo (fld v f.hi f.lo)
      | .w1s => w ||| (v &&& maskOf f.hi f.lo)
      | .w1c => w &&& ~~~(v &&& maskOf f.hi f.lo)
      | _ => w) (newBit v) := by
    intro w f j fit
    cases acc : f.acc <;>
      simp [newBit, acc, setFld_fld_getLsbD w v fit, clear_getLsbD w v fit, set_getLsbD w v fit]
  exact ⟨fun f mem lo hi => foldl_inside step apart mem lo hi cur, fun out => foldl_outside step apart out cur⟩

end

/-- Settles O50: a word is built field by field, and the fields of every register lie apart. -/
theorem fieldsFollowTheirAccess : Obligations.FieldsFollowTheirAccess := by
  intro x r cur v j page reg _
  have apart := fieldsApart_pageTable x page r reg
  obtain ⟨stored, kept⟩ := storeWord_bits (j := j) cur v apart
  obtain ⟨old, oldKept⟩ := rollOld_bits (j := j) cur apart
  obtain ⟨new, newKept⟩ := rollNew_bits (j := j) cur v apart
  exact ⟨fun f mem lo hi => ⟨stored f mem lo hi, old f mem lo hi, new f mem lo hi⟩,
    fun out => ⟨kept out, oldKept out, newKept out⟩⟩

end Sys2Proof.Machine
end

