-- ==== Sys2Proof/Proofs/Claims.lean ====
section
/-! CLAIM takes the best claimable source of a hart (R203, R204). -/
namespace Sys2Proof.Machine

section
variable (s : State) (h : Nat)

/-- A source that the hart may claim now: claimable, and of a priority above the hart's current one. -/
def Eligible (x : Nat × EvSrc) : Prop := evClaimable s h x.1 x.2 = true ∧ evCur s h < evPrio s x.1 + 1

/-- The search takes a source that is eligible and better than the one it has. -/
def betterOf (best : Option Nat) (x : Nat × EvSrc) : Option Nat :=
  if evClaimable s h x.1 x.2 && decide (evCur s h < evPrio s x.1 + 1) then
    match best with
    | none => some x.1
    | some b => if evPrio s b < evPrio s x.1 then some x.1 else best
  else best

theorem evBest_eq : evBest s h = s.evc.src.foldl (betterOf s h) none := rfl

/-- What the search has found in a list: nothing where no source is eligible, else one that no other exceeds. -/
def Found (l : List (Nat × EvSrc)) : Option Nat → Prop
  | none => ∀ y ∈ l, ¬ Eligible s h y
  | some b => ∃ x ∈ l, x.1 = b ∧ Eligible s h x ∧ ∀ y ∈ l, Eligible s h y → evPrio s y.1 ≤ evPrio s b

variable {s h}

theorem Found.skip {l : List (Nat × EvSrc)} {best : Option Nat} {x : Nat × EvSrc} (found : Found s h l best)
    (not_ : ∀ b, best = some b → Eligible s h x → evPrio s x.1 ≤ evPrio s b) (none_ : best = none → ¬ Eligible s h x) :
    Found s h (l ++ [x]) best := by
  cases best with
  | none =>
    simp only [Found, List.mem_append, List.mem_singleton]
    rintro y (mem | rfl)
    · exact found y mem
    · exact none_ rfl
  | some b =>
    obtain ⟨z, mem, num, ok, most⟩ := found
    refine ⟨z, List.mem_append_left _ mem, num, ok, ?_⟩
    simp only [List.mem_append, List.mem_singleton]
    rintro y (mem | rfl)
    · exact most y mem
    · exact not_ b rfl

theorem Found.step {l : List (Nat × EvSrc)} {best : Option Nat} (found : Found s h l best) (x : Nat × EvSrc) :
    Found s h (l ++ [x]) (betterOf s h best x) := by
  have last : x ∈ l ++ [x] := by simp
  by_cases ok : Eligible s h x
  · have eligible : (evClaimable s h x.1 x.2 && decide (evCur s h < evPrio s x.1 + 1)) = true := by
      simpa [Eligible] using ok
    unfold betterOf
    rw [if_pos eligible]
    cases best with
    | none =>
      refine ⟨x, last, rfl, ok, ?_⟩
      simp only [List.mem_append, List.mem_singleton]
      rintro y (mem | rfl) eligible
      · exact absurd eligible (found y mem)
      · exact le_rfl
    | some b =>
      dsimp only
      split
      · rename_i above
        obtain ⟨z, -, -, -, most⟩ := found
        refine ⟨x, last, rfl, ok, ?_⟩
        simp only [List.mem_append, List.mem_singleton]
        rintro y (mem | rfl) eligible
        · exact (most y mem eligible).trans above.le
        · exact le_rfl
      · rename_i below
        exact found.skip (fun c e _ => by cases e; exact Nat.le_of_not_lt below) nofun
  · have not_ : ¬ (evClaimable s h x.1 x.2 && decide (evCur s h < evPrio s x.1 + 1)) = true := by
      simpa [Eligible] using ok
    unfold betterOf
    rw [if_neg not_]
    exact found.skip (fun _ _ eligible => absurd eligible ok) (fun _ => ok)

theorem Found.fold {l : List (Nat × EvSrc)} {best : Option Nat} (found : Found s h l best) (m : List (Nat × EvSrc)) :
    Found s h (l ++ m) (m.foldl (betterOf s h) best) := by
  induction m generalizing l best with
  | nil => simpa using found
  | cons x m ih => simpa using ih (found.step x)

theorem found_evBest (s : State) (h : Nat) : Found s h s.evc.src (evBest s h) := by
  rw [evBest_eq]
  exact Found.fold (l := []) (best := none) (by simp [Found]) s.evc.src

end

/-- The read by a main hart, by what the search finds. -/
theorem evClaim_main {h : Nat} (low : h ≤ 3) (s : State) :
    (evBest s h = none → evClaim (0x44 + h) s = (0, s))
      ∧ ∀ src, evBest s h = some src → evClaim (0x44 + h) s =
        (w32 (src + (if evCount s src then (evSrc s src).c else 1) * 0x1000 + evPrio s src * 0x100000 + 0x80000000),
          putSrc src { evSrc s src with p := false, c := 0, a := true, holder := h } s) := by
  have index : 0x44 + h - 0x44 = h := by omega
  have main : ¬ (decide (0x44 + h < 0x44) || decide (0x47 < 0x44 + h)) = true := by simp; omega
  constructor
  · intro best
    simp only [evClaim, index, if_neg main, best]
  · intro src best
    simp only [evClaim, index, if_neg main, best]

/-- Settles O59: the claim is that of the best source that the search finds. -/
theorem claimsTakeTheHighestPriority : Obligations.ClaimsTakeTheHighestPriority := by
  intro s t o h w claim
  refine ⟨fun other => ?_, fun hart low => ?_⟩
  · rw [evClaim, if_pos (by simpa using other), Prod.mk.injEq] at claim
    exact ⟨claim.1.symm, claim.2.symm⟩
  · subst hart
    have found := found_evBest s h
    obtain ⟨idle, taken⟩ := evClaim_main low s
    cases best : evBest s h with
    | none =>
      rw [idle best, Prod.mk.injEq] at claim
      rw [best] at found
      refine .inl ⟨claim.1.symm, claim.2.symm, fun x mem claimable => ?_⟩
      by_contra above
      exact found x mem ⟨claimable, Nat.lt_of_not_le above⟩
    | some src =>
      rw [taken src best, Prod.mk.injEq] at claim
      rw [best] at found
      obtain ⟨x, mem, rfl, ⟨claimable, above⟩, most⟩ := found
      refine .inr ⟨x, mem, claimable, above, fun y mem' claimable' => ?_, claim.2.symm, claim.1.symm⟩
      by_cases eligible : evCur s h < evPrio s y.1 + 1
      · exact most y mem' ⟨claimable', eligible⟩
      · omega

end Sys2Proof.Machine
end

