-- ==== Sys2Proof/Proofs/Reads.lean ====
section
/-! Reads of the register space: the registers whose read has an effect, and that the others have none (R36, R85, R204,
R431). -/
namespace Sys2Proof.Machine

/-- The offsets, on pages of a type, whose read has an effect. -/
def readActs (k : Kind) (off : Nat) : Bool :=
  match k with
  | .tune => off == 0x54
  | .roll => off == 0x80 || off == 0x9C
  | .fault => off == 0x48
  | .debug => off == 0x94
  | .stave => off == 0x40
  | .timer => 0x100 ≤ off && off < 0x200 && off % 16 == 0
  | .evc => off == 0x44
  | .host => off == 0x4C
  | .wingcase => off == 0x84 || off == 0x8C
  | .i3c => off == 0x44 || off == 0x50
  | .spi => off == 0x48 || off == 0x68
  | _ => false

/-- Where the pages of those types lie. -/
def actPages : List (Kind × Nat × Nat) :=
  [(.tune, 0x3, 1), (.roll, 0x4, 1), (.fault, 0x8, 1), (.debug, 0xA, 1), (.stave, 0x10, 1), (.timer, 0x12, 1), (.evc, 0x13, 1),
    (.host, 0x20, 1), (.wingcase, 0x80, 2), (.i3c, 0xB2, 4), (.spi, 0xB6, 1)]

theorem actPages_pageTable : ∀ d ∈ pageTable, ∀ x ∈ actPages, d.kind = x.1 → d.base = x.2.1 ∧ d.count = x.2.2 := by decide

theorem actPages_tenant : ∀ x ∈ actPages, tenantDesc.kind ≠ x.1 := by decide

/-- A page of such a type lies where the block map has them. -/
theorem page_of_kind {p b n : Nat} {d : PageDesc} {k : Kind} (page : pageDesc p = some d) (kind : d.kind = k)
    (mem : (k, b, n) ∈ actPages) : b ≤ p ∧ p < b + n := by
  unfold pageDesc at page
  split at page
  · cases page; exact absurd kind (actPages_tenant _ mem)
  · obtain ⟨base, count⟩ := actPages_pageTable d (List.mem_of_find?_eq_some page) _ mem kind
    have range := List.find?_some page
    simp only [Bool.and_eq_true, decide_eq_true_eq] at range
    simp only at base count
    omega

section
variable {p off : Nat} {d : PageDesc} (page : pageDesc p = some d)
include page

/-- A read of a page's other registers changes nothing. -/
theorem readPage_still (still : readActs d.kind off = false) (o : Nat) (s : State) : (readPage o p off s).2 = s := by
  simp only [readPage, page]
  cases kind : d.kind <;> simp only [kind, readActs, Bool.or_eq_false_iff] at still <;> simp [still]

/-- The registers whose read has an effect are those that the statement lists. -/
theorem readActs_listed {a : Nat} (acts : readActs d.kind off = true) (at_ : a = p * 0x1000 + off) :
    a ∈ [Rg.TUNE_REC_DATA, Rg.ROLL_RD_DATA, Rg.ROLL_RD_DATA + 28, Rg.FAULT_PIN, Rg.DEBUG_TRACE_DATA, Rg.STAVE_NOW_LO,
        Rg.EVC_CLAIM, Rg.HOST_NP_OUT, Rg.SPI_CTL_DATA, Rg.SPI_CTL_DATA + 32]
      ∨ (∃ c < 16, a = Rg.TIMER_CAP_POP + 16 * c)
      ∨ (∃ k < 2, a ∈ [Rg.WINGCASE_PAL_DATA + k * 0x1000, Rg.WINGCASE_LT_PAL_DATA + k * 0x1000])
      ∨ (∃ k < 4, a ∈ [Rg.I3C_XFER_DATA + k * 0x1000, Rg.I3C_IBI_POP + k * 0x1000]) := by
  have lies {k : Kind} {b n : Nat} (kind : d.kind = k) (mem : (k, b, n) ∈ actPages) := page_of_kind page kind mem
  simp only [List.mem_cons, List.not_mem_nil, or_false, Rg.TUNE_REC_DATA, Rg.ROLL_RD_DATA, Rg.FAULT_PIN, Rg.DEBUG_TRACE_DATA,
    Rg.STAVE_NOW_LO, Rg.EVC_CLAIM, Rg.HOST_NP_OUT, Rg.SPI_CTL_DATA, Rg.TIMER_CAP_POP, Rg.WINGCASE_PAL_DATA,
    Rg.WINGCASE_LT_PAL_DATA, Rg.I3C_XFER_DATA, Rg.I3C_IBI_POP]
  cases kind : d.kind <;> simp only [kind, readActs, Bool.or_eq_true, Bool.and_eq_true, beq_iff_eq, decide_eq_true_eq,
    Bool.false_eq_true] at acts
  case tune => have := lies (b := 0x3) kind (by decide : (_, _, 1) ∈ _); omega
  case roll => have := lies (b := 0x4) kind (by decide : (_, _, 1) ∈ _); omega
  case fault => have := lies (b := 0x8) kind (by decide : (_, _, 1) ∈ _); omega
  case debug => have := lies (b := 0xA) kind (by decide : (_, _, 1) ∈ _); omega
  case stave => have := lies (b := 0x10) kind (by decide : (_, _, 1) ∈ _); omega
  case evc => have := lies (b := 0x13) kind (by decide : (_, _, 1) ∈ _); omega
  case host => have := lies (b := 0x20) kind (by decide : (_, _, 1) ∈ _); omega
  case spi => have := lies (b := 0xB6) kind (by decide : (_, _, 1) ∈ _); omega
  case timer =>
    have := lies (b := 0x12) kind (by decide : (_, _, 1) ∈ _)
    exact .inr (.inl ⟨(off - 0x100) / 16, by omega, by omega⟩)
  case wingcase =>
    have := lies (b := 0x80) kind (by decide : (_, _, 2) ∈ _)
    exact .inr (.inr (.inl ⟨p - 0x80, by omega, by omega⟩))
  case i3c =>
    have := lies (b := 0xB2) kind (by decide : (_, _, 4) ∈ _)
    exact .inr (.inr (.inr ⟨p - 0xB2, by omega, by omega⟩))

end

/-- A read of the register space reads its page, or answers without effect. -/
theorem regRead_cases (o off : Nat) (s : State) :
    (regRead o off s).2 = s ∨ ∃ p w d, pageDesc p = some d ∧ off / 4 * 4 = p * 0x1000 + w ∧ regRead o off s = readPage o p w s := by
  unfold regRead locate
  extract_lets a
  split
  · exact .inl rfl
  · by_cases alias_ : (decide (0x220000 ≤ a) && decide (a < 0x224000)) = true
    · simp only [alias_, if_true]
      split
      · exact .inl rfl
      · split <;> exact .inl rfl
    · simp only [if_neg alias_]
      split
      · exact .inl rfl
      · rename_i d page
        split
        · exact .inl rfl
        · split
          · exact .inl rfl
          · exact .inr ⟨a / 0x1000, a % 0x1000, d, page, by omega, rfl⟩

/-- Settles O57: a read of the register space is one of its page, and the page's other reads change nothing. -/
theorem readsOfOtherRegistersChangeNothing : Obligations.ReadsOfOtherRegistersChangeNothing := by
  intro s o off beside captures palettes ports
  obtain still | ⟨p, w, d, page, at_, read⟩ := regRead_cases o off s
  · exact still
  · rw [read]
    refine readPage_still page ?_ o s
    by_contra acts
    rcases readActs_listed page (by simpa using acts) at_ with mem | ⟨c, channel, mem⟩ | ⟨k, head, mem⟩ | ⟨k, bus, mem⟩
    · exact beside mem
    · exact captures c channel mem
    · exact palettes k head mem
    · exact ports k bus mem

end Sys2Proof.Machine
end

