-- ==== Sys2Proof/Proofs/RegisterEvents.lean ====
section
/-! Events that act on registers alone: what they leave of a quiet state (R236, R250, R329, R418, R499). -/
namespace Sys2Proof.Machine

section
variable {l : List Nat} {s t u : State}

/-- A change of registers that nothing mirrors, with the roll as it was, leaves a quiet state whose repeated fields agree. -/
theorem Touches.quiet (h : Touches l s t) (roll : t.roll = s.roll) (quiet : Quiet s) : Quiet t := by
  have frame := h.keepsRoll roll
  exact quiet.congr (by rw [roll]) (by rw [frame]) (by rw [frame]) (by rw [frame])

theorem Touches.mirrored (h : Touches l s t) (beside : ∀ a ∈ l, a ∉ mirrorRegs) (mirrored : Mirrored s) : Mirrored t :=
  mirrored.congr (fun a mem => h.regs a fun hit => beside a hit mem) (by rw [h.frame])

/-- What such an event leaves: only its registers, the event controller and the marks of the edge have changed. -/
theorem event_touches {f : State → State} (quiet : Quiet s) (mirrored : Mirrored s) (beside : ∀ a ∈ l, a ∉ mirrorRegs)
    (h : Touches l (edgeBegin s) (f (edgeBegin s))) (roll : (f (edgeBegin s)).roll = (edgeBegin s).roll)
    (next : event f s = t) :
    t = { edgeBegin s with regs := t.regs, evc := t.evc } ∧ (∀ a, a ∉ l → rd t a = rd s a) ∧ ∀ x, byteAt t x = byteAt s x := by
  obtain ⟨alike, frame⟩ := event_same quiet rfl (h.quiet roll quiet.edge) (h.mirrored beside mirrored.edge)
  rw [next] at alike frame
  have whole : t = { edgeBegin s with regs := t.regs, evc := t.evc } := by
    rw [frame, h.keepsRoll roll]
  exact ⟨whole, fun a out => (alike a).trans (h.regs a out), fun x => by rw [whole]; rfl⟩

theorem eventIf_touches {c : State → Bool} {f : State → State} (quiet : Quiet s) (mirrored : Mirrored s)
    (beside : ∀ a ∈ l, a ∉ mirrorRegs) (h : Touches l (edgeBegin s) (f (edgeBegin s)))
    (roll : (f (edgeBegin s)).roll = (edgeBegin s).roll) (next : eventIf c f s = t) :
    t = { edgeBegin s with regs := t.regs, evc := t.evc } ∧ (∀ a, a ∉ l → rd t a = rd s a) ∧ ∀ x, byteAt t x = byteAt s x := by
  refine event_touches quiet mirrored beside ?_ ?_ next
  · exact .ite h (.refl ..)
  · split
    · exact roll
    · rfl

end

/-- Registers above STAVE.STAT are mirrored nowhere, but for SLINK.LOCK_STAT. -/
theorem notMem_mirrorRegs {a : Nat} (above : 0x1004C < a) (lock : a % 64 ≠ 0x24) : a ∉ mirrorRegs := by
  simp only [mirrorRegs, List.mem_cons, List.not_mem_nil, or_false, Rg.ROLL_FILL, Rg.ROLL_NEXT_SEQ, Rg.ROLL_TAIL_SEQ, Rg.BOOT_STAT,
    Rg.TUNE_STAT, Rg.STAVE_STAT, Rg.SLINK_LOCK_STAT, Rg.DEBUG_HOLD_STAT]
  omega

theorem evtStat_notMem_mirrorRegs {p : Nat} (above : 0x10 < p) : hdr p Hdr.EVT_STAT ∉ mirrorRegs := by
  refine notMem_mirrorRegs ?_ (by rw [hdr_mod p (by decide)]; decide)
  unfold hdr
  split <;> simp only [Hdr.EVT_STAT] <;> omega

/-- A register that each of several like pages has. -/
theorem arrayReg_notMem_mirrorRegs {a : Nat} (k : Nat) (above : 0x1004C < a) (lock : a % 64 ≠ 0x24) :
    a + k * 0x1000 ∉ mirrorRegs :=
  notMem_mirrorRegs (by omega) (by omega)

/-- Settles O58: each event's effect touches its registers. -/
theorem registerEventsChangeTheirRegistersAlone : Obligations.RegisterEventsChangeTheirRegistersAlone := by
  intro s t k up c l quiet mirrored row next
  simp only [List.mem_cons, Prod.mk.injEq, List.not_mem_nil, or_false] at row
  rcases row with ⟨rfl, rfl⟩ | ⟨rfl, rfl⟩ | ⟨rfl, rfl⟩ | ⟨rfl, rfl⟩ | ⟨rfl, rfl⟩ | ⟨rfl, rfl⟩ <;>
    injection next with next
  case inl =>
    have touched : Touches [portReg Rg.CAM_PORT_STAT k] (edgeBegin s) (wrB (portReg Rg.CAM_PORT_STAT k) 0 up (edgeBegin s)) :=
      touches_wr _ _ (List.mem_singleton_self _)
    refine eventIf_touches quiet mirrored ?_ touched rfl next
    simpa [portReg] using arrayReg_notMem_mirrorRegs (a := Rg.CAM_PORT_STAT) k (by decide) (by decide)
  case inr.inl =>
    have touched : Touches [Rg.WEEVIL_STAT] (edgeBegin s) (wrB Rg.WEEVIL_STAT 3 false (edgeBegin s)) :=
      touches_wr _ _ (List.mem_singleton_self _)
    exact eventIf_touches quiet mirrored (by decide) touched rfl next
  case inr.inr.inl =>
    refine event_touches quiet mirrored ?_ ?_ ?_ next
    · have := arrayReg_notMem_mirrorRegs (a := Rg.TDM_STAT) k (by decide) (by decide)
      simpa [Nat.mul_comm] using this
    · exact .ite (touches_wr _ _ (by simp)) (.refl ..)
    · unfold asrcLock; split <;> rfl
  case inr.inr.inr.inl =>
    refine event_touches quiet mirrored ?_ ?_ ?_ next
    · have := arrayReg_notMem_mirrorRegs (a := Rg.TDM_STAT) k (by decide) (by decide)
      simpa [Nat.mul_comm] using ⟨this, evtStat_notMem_mirrorRegs (p := Pg.TDM + k) (by simp only [Pg.TDM]; omega)⟩
    · exact .ite ((touches_wr _ _ (by simp)).trans (touches_setEvt _ 0 (by simp))) (.refl ..)
    · unfold asrcUnlock; split <;> simp
  case inr.inr.inr.inr.inl =>
    exact eventIf_touches quiet mirrored (by decide)
      ((touches_bump _ (by simp)).trans (touches_setEvt _ 0 (by simp))) (by simp [bridgeAgain]) next
  case inr.inr.inr.inr.inr =>
    refine eventIf_touches quiet mirrored ?_ ?_ ?_ next
    · have := arrayReg_notMem_mirrorRegs (a := Rg.DRAMC_REF_STOLEN) k (by decide) (by decide)
      simpa [drReg] using ⟨this, evtStat_notMem_mirrorRegs (p := Pg.DRAMC + k) (by simp only [Pg.DRAMC]; omega)⟩
    · exact .ite (.refl ..) ((touches_wr _ _ (by simp)).trans (touches_setEvt _ 2 (by simp)))
    · unfold refreshSlot; dsimp only; split <;> simp

end Sys2Proof.Machine
end

