-- ==== Sys2Proof/Proofs/Shapes.lean ====
section
/-! What many commands share: pages that every member has, and what the host sends over a link that is up in L0. -/
namespace Sys2Proof.Machine

variable {e : State}

/-- A page of every member. -/
theorem present_of_all {p : Nat} (all : [Member.zs832f, .zs816h, .zs804q].all (present · p) = true) (m : Member) :
    present m p = true := by
  simp only [List.all_cons, List.all_nil, Bool.and_true, Bool.and_eq_true] at all
  obtain ⟨full, half, quarter⟩ := all
  cases m <;> assumption

theorem HostReaches.linkToL0 (h : HostReaches e) : linkToL0 e = e := by
  simp [Machine.linkToL0, h.l0]

/-- The Hymnal neither holds an input back nor records it. -/
theorem inputOf_passes (replay : replaying e = false) (quiet : recording e = false) (src inst addr : Nat) (payload : List Byte)
    (f : State → State) : inputOf src inst addr payload f e = f e := by
  simp [inputOf, liveInput, isolated, hymnRec, replay, quiet]

/-- A live input that no replay keeps out. -/
theorem liveInput_passes {src : Nat} (open_ : isolated e src = false) (f : State → State) : liveInput src f e = f e := by
  simp [liveInput, open_]

theorem hostEvent_passes (replay : replaying e = false) (quiet : recording e = false) (k fn : Nat) (f : State → State) :
    hostEvent k fn f e = f e :=
  inputOf_passes replay quiet ..

theorem HostReaches.pcieRx (h : HostReaches e) (l : List Byte) (u : List Byte → Option WvUnit) (k : List Byte → State → State) :
    pcieRx l u k e = k l e := by
  simp [Machine.pcieRx, h.linkToL0, h.idle]

/-- While Weevil is disarmed and holds and stops nothing, every unit passes its points as it is (R501, R509). -/
theorem wvPass_idle (idle : wvIdle e = true) (pt hdr : Nat) (l : List Byte) (u : List Byte → Option WvUnit) :
    wvPass pt hdr l u e = (.pass l false, e) := by
  simp only [wvIdle, Bool.and_eq_true, Bool.not_eq_true', List.isEmpty_iff] at idle
  obtain ⟨⟨disarmed, held⟩, stop⟩ := idle
  have chosen : wvChoose pt hdr l e = (none, e) :=
    List.foldl_fixed' (fun r => by simp [wvLive, disarmed]) _
  have passed : wvPassed pt e = e := by
    rw [wvPassed, held, List.map_nil, ← held]
  simp [wvPass, chosen, wvStopped, wvStore, held, stop, kvGet, kvFind, passed]

/-! ## Registers of a page's body -/

/-- An offset of the register space is that of a register of a page, beside the header. -/
structure Named (a p o : Nat) (x : PageDesc) (r : RegDesc) : Prop where
  tgt : (spaceDest a).tgt = .page p o false
  page : pageDesc p = some x
  reg : regNamed x p o false = some r
  plain : a ≠ Rg.SRIOV_TEN_CFG
  offset : a = p * 0x1000 + o

section
variable {a p o : Nat} {x : PageDesc} {r : RegDesc}

theorem Named.of_offset (offset : a = p * 0x1000 + o) (below : p < 0x200) (body : isRingPage p = true ∨ 0x40 ≤ o)
    (inside : o < 0x1000) (word : o % 4 = 0) (page : pageDesc p = some x) (reg : regNamed x p o false = some r)
    (plain : a ≠ Rg.SRIOV_TEN_CFG) : Named a p o x r :=
  ⟨spaceDest_page offset below inside word page body, page, reg, plain, offset⟩

/-- The same register of any page of a type whose pages are alike. -/
theorem Named.of_alike {first n m : Nat} (alike : ∀ m < n, pageDesc (first + m) = pageDesc first) (index : m < n)
    (offset : a = (first + m) * 0x1000 + o) (below : first + m < 0x200) (body : 0x40 ≤ o) (inside : o < 0x1000) (word : o % 4 = 0)
    (page : pageDesc first = some x) (free : x.regs.all (fun r => r.only.isNone) = true) (reg : findReg 0 x.regs o = some r)
    (plain : a ≠ Rg.SRIOV_TEN_CFG) : Named a (first + m) o x r := by
  refine .of_offset offset below (.inr body) inside word ((alike m index).trans page) ?_ plain
  simpa [regNamed] using (findReg_inst free _ _).trans reg

/-- Whether a write is a configuration change is the same for every origin but the hardware's. -/
theorem isConfig_origin {origin : Nat} (sent : (origin != 0) = true) (isHdr : Bool) :
    isConfig origin x o isHdr r = isConfig 1 x o isHdr r := by
  simp [isConfig, sent]

variable {i : Instr} {s u : State} {q : Req} {v : W32}

/-- A write of a register whose writes are no configuration changes: its effect alone. -/
theorem Named.data (h : Named a p o x r) (runs : Sys2Proof.Machine.exec i s = .next (regCmd q a v s)) (edge : e = edgeOf q.same s)
    (lands : Lands q a v e) (data : isConfig 1 x o false r = false) (effect : writeFx q x p o false r v e = u) :
    Ends i s (recorded q a v u) :=
  ends_data runs edge lands h.tgt h.page h.reg ((isConfig_origin lands.origin_ne _).trans data)
    (acceptVal_ne _ _ (h.offset ▸ h.plain)) effect

/-- A configuration change: entered in the roll, then its effect. -/
theorem Named.config (h : Named a p o x r) (runs : Sys2Proof.Machine.exec i s = .next (regCmd q a v s)) (edge : e = edgeOf q.same s)
    (lands : Lands q a v e) (config : isConfig 1 x o false r = true) (early : fxFirst x.kind = false)
    (effect : writeFx q x p o false r v (logged q a v e e) = u) : Ends i s (recorded q a v u) :=
  ends_config runs edge lands h.tgt h.page h.reg ((isConfig_origin lands.origin_ne _).trans config) early
    (acceptVal_ne _ _ (h.offset ▸ h.plain)) effect

/-- A configuration change whose effect comes before its entry. -/
theorem Named.configLate (h : Named a p o x r) (runs : Sys2Proof.Machine.exec i s = .next (regCmd q a v s))
    (edge : e = edgeOf q.same s) (lands : Lands q a v e) (config : isConfig 1 x o false r = true) (late : fxFirst x.kind = true)
    (effect : writeFx q x p o false r v e = u) : Ends i s (recorded q a v (logged q a v e u)) :=
  ends_config_late runs edge lands h.tgt h.page h.reg ((isConfig_origin lands.origin_ne _).trans config) late
    (acceptVal_ne _ _ (h.offset ▸ h.plain)) effect

/-! What a write of such a register does, outside the staged window and RINGSTATE, and on TUNE where it does not break the
unlock sequence (R120). -/

section
variable (tune : x.kind ≠ .tune ∨ r.dp = true ∨ o = 0x48 ∨ o = 0x4C) (rings : x.kind ≠ .ringstate) (unstaged : o < 0x800 ∨ 0xA00 ≤ o ∨ x.staged = false)
include tune rings unstaged

theorem writeFx_body : writeFx q x p o false r v s = pageFx q x p o (rd s (p * 0x1000 + o)) v
    (if !regVirtual x.kind o && regStores r then wr (p * 0x1000 + o) (storeWord r.flds (rd s (p * 0x1000 + o)) v) s else s) := by
  have window : (x.staged && decide (0x800 ≤ o) && decide (o < 0xA00)) = false := by
    rcases unstaged with h | h | h
    · simp; omega
    · simp; omega
    · simp [h]
  have before : ∀ old t, beforeFx x p o old v t = t := fun old t => by
    unfold beforeFx
    split
    · exact absurd ‹_› rings
    · rfl
  have unbroken : (x.kind == .tune && (false || !(r.dp || o == 0x48 || o == 0x4C))) = false := by
    rcases tune with h | h | h | h <;> simp [h]
  simp only [writeFx, keyBreak, tuneBreak, unbroken, window, before, Bool.and_false, Bool.false_eq_true, if_false]
  cases regVirtual x.kind o <;> cases regStores r <;> simp

/-- A register that holds nothing of what is written to it has its effect alone. -/
theorem writeFx_port (port : (!regVirtual x.kind o && regStores r) = false) :
    writeFx q x p o false r v s = pageFx q x p o (rd s (p * 0x1000 + o)) v s := by
  rw [writeFx_body tune rings unstaged, if_neg (by simp [port])]

/-- Any other takes the fields that are writable, and then has its effect. -/
theorem writeFx_store (stores : (!regVirtual x.kind o && regStores r) = true) :
    writeFx q x p o false r v s = pageFx q x p o (rd s (p * 0x1000 + o)) v
      (wr (p * 0x1000 + o) (storeWord r.flds (rd s (p * 0x1000 + o)) v) s) := by
  rw [writeFx_body tune rings unstaged, if_pos stores]

end

/-- How a register of a page's body takes a write: outside the staged window and the page RINGSTATE and without breaking
the unlock sequence of TUNE, storing its fields or not, entered in the roll or not, and its effect before the entry or after it. -/
abbrev Takes (x : PageDesc) (o : Nat) (r : RegDesc) (stores config late : Bool) : Prop :=
  (x.kind ≠ .tune ∨ r.dp = true ∨ o = 0x48 ∨ o = 0x4C) ∧ x.kind ≠ .ringstate ∧ (o < 0x800 ∨ 0xA00 ≤ o ∨ x.staged = false)
    ∧ (!regVirtual x.kind o && regStores r) = stores ∧ isConfig 1 x o false r = config ∧ fxFirst x.kind = late

theorem Named.fixed (offset : a = p * 0x1000 + o)
    (here : p < 0x200 ∧ (isRingPage p = true ∨ 0x40 ≤ o) ∧ o < 0x1000 ∧ o % 4 = 0 ∧ a ≠ Rg.SRIOV_TEN_CFG)
    (page : pageDesc p = some x) (reg : regNamed x p o false = some r) : Named a p o x r := by
  obtain ⟨below, body, inside, word, plain⟩ := here
  exact .of_offset offset below body inside word page reg plain

section
variable (h : Named a p o x r) (runs : Sys2Proof.Machine.exec i s = .next (regCmd q a v s)) (edge : e = edgeOf q.same s)
  (lands : Lands q a v e)
include h runs edge lands

/-- A data port that stores nothing: its effect alone. -/
theorem Named.dataPort (takes : Takes x o r false false (fxFirst x.kind)) (effect : pageFx q x p o (rd e a) v e = u) :
    Ends i s (recorded q a v u) := by
  obtain ⟨tune, rings, unstaged, port, data, -⟩ := takes
  refine h.data runs edge lands data ?_
  rw [writeFx_port tune rings unstaged port, ← h.offset, effect]

/-- A data port that takes the fields. -/
theorem Named.dataStore (takes : Takes x o r true false (fxFirst x.kind))
    (effect : pageFx q x p o (rd e a) v (wr a (storeWord r.flds (rd e a) v) e) = u) : Ends i s (recorded q a v u) := by
  obtain ⟨tune, rings, unstaged, stores, data, -⟩ := takes
  refine h.data runs edge lands data ?_
  rw [writeFx_store tune rings unstaged stores, ← h.offset, effect]

/-- A configuration change that stores nothing: its effect, once it is in the roll. -/
theorem Named.configPort (takes : Takes x o r false true false)
    (effect : pageFx q x p o (rd (logged q a v e e) a) v (logged q a v e e) = u) : Ends i s (recorded q a v u) := by
  obtain ⟨tune, rings, unstaged, port, config, early⟩ := takes
  refine h.config runs edge lands config early ?_
  rw [writeFx_port tune rings unstaged port, ← h.offset, effect]

/-- A configuration change that takes the fields. -/
theorem Named.configStore (takes : Takes x o r true true false)
    (effect : pageFx q x p o (rd (logged q a v e e) a) v
      (wr a (storeWord r.flds (rd (logged q a v e e) a) v) (logged q a v e e)) = u) : Ends i s (recorded q a v u) := by
  obtain ⟨tune, rings, unstaged, stores, config, early⟩ := takes
  refine h.config runs edge lands config early ?_
  rw [writeFx_store tune rings unstaged stores, ← h.offset, effect]

/-- A configuration change whose effect comes before its entry. -/
theorem Named.latePort (takes : Takes x o r false true true) (effect : pageFx q x p o (rd e a) v e = u) :
    Ends i s (recorded q a v (logged q a v e u)) := by
  obtain ⟨tune, rings, unstaged, port, config, after⟩ := takes
  refine h.configLate runs edge lands config after ?_
  rw [writeFx_port tune rings unstaged port, ← h.offset, effect]

theorem Named.lateStore (takes : Takes x o r true true true)
    (effect : pageFx q x p o (rd e a) v (wr a (storeWord r.flds (rd e a) v) e) = u) :
    Ends i s (recorded q a v (logged q a v e u)) := by
  obtain ⟨tune, rings, unstaged, stores, config, after⟩ := takes
  refine h.configLate runs edge lands config after ?_
  rw [writeFx_store tune rings unstaged stores, ← h.offset, effect]

end


end

/-! ## The header -/

theorem writeFx_header {q : Req} {x : PageDesc} {p o : Nat} {r : RegDesc} {v : W32} {s : State} (tune : x.kind ≠ .tune)
    (weevil : x.kind ≠ .weevil) : writeFx q x p o true r v s = headerFx x p o r v s := by
  simp [writeFx, keyBreak, tuneBreak, tune, weevil]

/-- A write of BLK_CTRL that lands. -/
theorem ends_blkCtrl {i : Instr} {s : State} {q : Req} {v : W32} {p : Nat} {x : PageDesc} {g : State → State}
    (runs : Sys2Proof.Machine.exec i s = .next (regCmd q (hdr p Hdr.BLK_CTRL) v s)) (edge : e = edgeOf q.same s)
    (lands : Lands q (hdr p Hdr.BLK_CTRL) v e) (below : p < 0x200) (page : pageDesc p = some x) (tune : x.kind ≠ .tune)
    (weevil : x.kind ≠ .weevil) (effect : ∀ t, ctrlFx x p v t = g t) :
    Ends i s (recorded q (hdr p Hdr.BLK_CTRL) v
      (if fxFirst x.kind then logged q (hdr p Hdr.BLK_CTRL) v e (g e) else g (logged q (hdr p Hdr.BLK_CTRL) v e e))) :=
  ends_header runs edge lands below (by decide) (by decide) page rfl (by simp [isConfig, lands.origin_ne]) fun t => by
    rw [writeFx_header tune weevil, ← effect]; rfl

/-- BLK_CTRL sets ENABLE alone. -/
theorem ctrlFx_enable {x : PageDesc} {p : Nat} {v : W32} (s : State) (sets : fbit v 0 = true) (reset : fbit v 1 = false) :
    ctrlFx x p v s = enableFx x.kind (p - x.base) (enabled s p) true (wrB (hdr p Hdr.BLK_CTRL) 0 true s) := by
  simp [ctrlFx, sets, reset]

/-! ## Reads of a page's body -/

theorem locate_body {a p o : Nat} (offset : a = p * 0x1000 + o) (below : p < 0x200) (body : isRingPage p = true ∨ 0x40 ≤ o)
    (inside : o < 0x1000) (word : o % 4 = 0) : locate (a / 4 * 4) = (p, o, false) := by
  have aligned : a / 4 * 4 = p * 0x1000 + o := by omega
  have page : (p * 0x1000 + o) / 0x1000 = p := by omega
  have rest : (p * 0x1000 + o) % 0x1000 = o := by omega
  have low : ¬ 0x220000 ≤ p * 0x1000 + o := by omega
  rcases body with ring | body
  · simp [locate, aligned, page, rest, low, ring]
  · have past : ¬ o < 0x40 := by omega
    simp [locate, aligned, page, rest, low, past]

/-- A read that reaches a register of a page's body on its own edge answers what the page reads. -/
theorem ends_readBody {i : Instr} {s t : State} {origin a p o : Nat} {w : W32} {x : PageDesc} (offset : a = p * 0x1000 + o)
    (below : p < 0x200) (body : isRingPage p = true ∨ 0x40 ≤ o) (inside : o < 0x1000) (word : o % 4 = 0)
    (runs : Sys2Proof.Machine.exec i s = .next (readCmd origin a false s)) (reads : ReadsAt origin p o (newEdge s))
    (page : pageDesc p = some x) (here : present (newEdge s).member p = true) (answer : readPage origin p o (newEdge s) = (w, t)) :
    Ends i s (emit (.readData origin w.toNat) t) :=
  ends_read runs (locate_body offset below body inside word) reads (by omega) page (by simp [isTenantPage]; omega) here
    (congrArg Prod.fst answer) (congrArg Prod.snd answer)

/-! ## Words -/

/-- A bit that a write of ones clears. -/
theorem andNot_mask (w v : W32) {n : Nat} (inside : n < 32) :
    w &&& ~~~(v &&& maskOf n n) = if fbit v n then setFld w n n 0 else w := by
  refine BitVec.eq_of_getLsbD_eq fun j low => ?_
  rw [apply_ite (BitVec.getLsbD · j), setFld_getLsbD _ _ _ _ _ (Nat.le_refl n) inside, BitVec.getLsbD_and, BitVec.getLsbD_not,
    BitVec.getLsbD_and, maskOf_getLsbD ⟨Nat.le_refl n, inside⟩, fbit_eq]
  by_cases here : n = j
  · subst here
    cases v.getLsbD n <;> simp only [low, Nat.le_refl, and_self, decide_true, if_true, Bool.false_eq_true, if_false, Bool.and_true,
      Bool.not_false, Bool.not_true, Bool.and_false, Nat.zero_testBit]
  · have other : ¬ (n ≤ j ∧ j ≤ n) := by omega
    simp only [other, low, decide_false, decide_true, Bool.and_false, Bool.not_false, Bool.and_true, if_false, ite_self]

@[simp] theorem fbit_one : fbit 1#32 0 = true ∧ fbit 1#32 1 = false ∧ fbit 1#32 2 = false := by decide
@[simp] theorem fbit_two : fbit 2#32 0 = false ∧ fbit 2#32 1 = true ∧ fbit 2#32 2 = false := by decide
@[simp] theorem fbit_four : fbit 4#32 0 = false ∧ fbit 4#32 1 = false ∧ fbit 4#32 2 = true := by decide

end Sys2Proof.Machine
end

