-- ==== Sys2Proof/Proofs/Timers.lean ====
section
/-! The timers: ticks, software resets, captures and SNAP (R422 to R432). -/
namespace Sys2Proof.Machine

/-! ## SNAP -/

/-- The counters of the first m channels, copied. -/
def snapped (m : Nat) (s : State) : State := (List.range m).foldl (fun t c => wr (Rg.TIMER_SNAP_CNT + 4 * c) (w32 (tmCnt t c)) t) s

section
variable {s : State} {m : Nat}

theorem snapped_succ : snapped (m + 1) s = wr (Rg.TIMER_SNAP_CNT + 4 * m) (w32 (tmCnt (snapped m s) m)) (snapped m s) := by
  simp [snapped, List.range_succ]

theorem snapped_clk : (snapped m s).clk = s.clk := by
  induction m with
  | zero => rfl
  | succ m ih => rw [snapped_succ, wr_clk, ih]

/-- Only the copies of those channels change. -/
theorem rd_snapped_ne {a : Nat} (other : ∀ c, c < m → a ≠ Rg.TIMER_SNAP_CNT + 4 * c) : rd (snapped m s) a = rd s a := by
  induction m with
  | zero => rfl
  | succ m ih => rw [snapped_succ, rd_wr_ne _ _ (other m (Nat.lt_succ_self m)), ih fun c h => other c (Nat.lt_succ_of_lt h)]

/-- No counter is a copy of one. -/
theorem counter_snapped {c : Nat} (channel : c < 16) : rd (snapped m s) (Rg.TIMER_CH_CNT + 4 * c) = rd s (Rg.TIMER_CH_CNT + 4 * c) :=
  rd_snapped_ne fun k _ => by simp only [Rg.TIMER_CH_CNT, Rg.TIMER_SNAP_CNT]; omega

theorem rd_snapped {c : Nat} (copied : c < m) (all : m ≤ 16) :
    rd (snapped m s) (Rg.TIMER_SNAP_CNT + 4 * c) = rd s (Rg.TIMER_CH_CNT + 4 * c) := by
  induction m with
  | zero => exact absurd copied (Nat.not_lt_zero c)
  | succ m ih =>
    rw [snapped_succ]
    obtain earlier | rfl := Nat.lt_or_eq_of_le (Nat.le_of_lt_succ copied)
    · rw [rd_wr_ne _ _ (by omega), ih earlier (Nat.le_of_succ_le all)]
    · rw [rd_wr_same, tmCnt, rdN, counter_snapped (by omega), w32_toNat]

end

theorem timerSnap_eq (s : State) : timerSnap s = wr64 Rg.TIMER_SNAP_ST_LO (stimePer s) (snapped 16 s) := by
  have time : stimePer (snapped 16 s) = stimePer s := by simp only [stimePer, stimeNow, snapped_clk]
  rw [timerSnap, ← time]; rfl

/-- The stave time lies past the copies of the counters. -/
theorem snapCnt_ne {c : Nat} (channel : c < 16) :
    Rg.TIMER_SNAP_CNT + 4 * c ≠ Rg.TIMER_SNAP_ST_LO ∧ Rg.TIMER_SNAP_CNT + 4 * c ≠ Rg.TIMER_SNAP_ST_HI := by
  simp only [Rg.TIMER_SNAP_CNT, Rg.TIMER_SNAP_ST_LO, Rg.TIMER_SNAP_ST_HI]; omega

theorem rd_wr64_ne {a lo v : Nat} {s : State} (low : a ≠ lo) (high : a ≠ lo + 4) : rd (wr64 lo v s) a = rd s a := by
  rw [wr64, rd_wr_ne _ _ high, rd_wr_ne _ _ low]

/-- Settles O56: the copies are made one by one, and none is a counter. -/
theorem snapCopiesEveryCounter : Obligations.SnapCopiesEveryCounter := by
  intro s
  simp only [timerSnap_eq]
  refine ⟨fun c channel => ?_, ?_, rd_wr_same .., fun a copies low high => ?_⟩
  · obtain ⟨low, high⟩ := snapCnt_ne channel
    rw [rd_wr64_ne low high, rd_snapped channel (Nat.le_refl 16)]
  · rw [wr64, rd_wr_ne _ _ (by decide), rd_wr_same]
  · rw [rd_wr64_ne low high, rd_snapped_ne copies]

/-! ## Commands -/

section
variable {s : State} {c : Nat} (channel : c < 16)
include channel

theorem timerTick_counts (running : s.clk.running = true) (perclk : s.clk.sub % 2 = 0) (clock : fld (tmCfg s c) 3 2 = 0)
    (idle : s.timer.acted.contains c = false) (can : tmCan s c = true) {last : Bool} (terminal : tmLast s c = last) :
    timerTick c last s = pinsSync (outSync c (tmMark c (if tmLast s c then tmTerminal c s else tmPlain c s))) := by
  simp only [timerTick, tmTick, channel, running, perclk, clock, idle, can, terminal]
  simp

/-- CH_CTRL of a channel. -/
theorem named_chCtrl : ∃ x r, Named (Rg.TIMER_CH_CTRL + 4 * c) Pg.TIMER (0xC0 + 4 * c) x r ∧ x.kind = .timer
    ∧ isConfig 1 x (0xC0 + 4 * c) false r = false ∧ regStores r = false := by
  have reg : ∀ c < 16, findReg 0 regsTimer (0xC0 + 4 * c) = some ⟨0xC0, 16, 4, true, none, [⟨0, 0, .w1s, 0⟩, ⟨1, 1, .w1s, 0⟩]⟩ := by
    decide
  refine ⟨_, _, .of_offset ?_ (by decide) (.inr (by omega)) (by omega) (by omega) rfl (reg c channel) ?_, rfl, rfl, rfl⟩
  all_goals simp only [Rg.TIMER_CH_CTRL, Pg.TIMER, Rg.SRIOV_TEN_CFG]; omega

end

theorem timerFx_chCtrl {c : Nat} (channel : c < 16) (v : W32) (s : State) : timerFx (0xC0 + 4 * c) v s =
    if fbit v 1 then capture c false true (if fbit v 0 then timerSwReset c s else s) else if fbit v 0 then timerSwReset c s else s := by
  have port : (decide (0xC0 ≤ 0xC0 + 4 * c) && decide (0xC0 + 4 * c < 0x100)) = true := by simp; omega
  have index : (0xC0 + 4 * c - 0xC0) / 4 = c := by omega
  simp only [timerFx, port, index, if_true]

/-- A write of CH_CTRL that lands. -/
theorem ends_chCtrl {i : Instr} {q : Req} {c : Nat} {v : W32} {s e u : State} (channel : c < 16)
    (runs : Sys2Proof.Machine.exec i s = .next (regCmd q (Rg.TIMER_CH_CTRL + 4 * c) v s)) (edge : e = edgeOf q.same s)
    (lands : Lands q (Rg.TIMER_CH_CTRL + 4 * c) v e) (effect : timerFx (0xC0 + 4 * c) v e = u) :
    Ends i s (recorded q (Rg.TIMER_CH_CTRL + 4 * c) v u) := by
  obtain ⟨x, r, named, kind, data, stores⟩ := named_chCtrl channel
  refine named.data runs edge lands data ?_
  rw [writeFx_port (by simp [kind]) (by simp [kind]) (.inl (by omega)) (by simp [stores]), ← effect]
  simp [pageFx, kind]

/-- A read of CAP_POP that reaches the page takes the oldest capture. -/
theorem ends_capPop {s : State} {o c : Nat} {x : CapEnt} {l : List CapEnt} (channel : c < 16)
    (reads : ReadsAt o Pg.TIMER (0x100 + 16 * c) (newEdge s)) (waits : kvGet [] (newEdge s).timer.queues c = x :: l) :
    Ends (.capPopRead o c) s (emit (.readData o (w32 x.cnt).toNat) (wrF (tmStat c) 6 4 l.length { newEdge s with timer :=
      { (newEdge s).timer with queues := kvPut [] (newEdge s).timer.queues c l
                               pops := kvInsert (newEdge s).timer.pops (c * 256 + o) x } })) := by
  obtain ⟨d, page, kind⟩ := pageDesc_timer
  have aligned : (Rg.TIMER_CAP_POP + 16 * c) / 4 * 4 = Rg.TIMER_CAP_POP + 16 * c := by simp only [Rg.TIMER_CAP_POP]; omega
  have first : (0x100 + 16 * c) % 16 = 0 := by omega
  have inside : 0x100 + 16 * c < 0x200 := by omega
  have pops : readPage o Pg.TIMER (0x100 + 16 * c) (newEdge s) = capPop o c (newEdge s) := by
    simp [readPage, page, kind, first, inside]
  refine ends_read (congrArg Host.Outcome.next (if_pos channel)) (aligned.symm ▸ locate_capture channel (by decide : 0 < 4)) reads ?_
    page isTenantPage_timer (present_timer _) ?_ ?_
  · rw [aligned]; simp only [Rg.TIMER_CAP_POP]; omega
  · rw [pops, capPop_cons waits]
  · rw [pops, capPop_cons waits]

/-- Settles O27: each command of a channel below 16 meets its action. -/
theorem timerRowsEnd : Obligations.TimerRowsEnd := by
  rintro q v s e n c o b edge rfl channel
  refine ⟨fun running perclk clock idle can t after => ⟨fun last => ?terminal, fun last => ?plain⟩,
    fun w a word addr lands capture loaded => ?reset, fun w a word addr lands reset => ?capture,
    fun running enabled low high edges => ?edge, fun x l reads waits => ?pop, fun w word lands => ?snap⟩
  case terminal => exact ends_event rfl ((timerTick_counts channel running perclk clock idle can last).trans after.symm)
  case plain => exact ends_event rfl ((timerTick_counts channel running perclk clock idle can last).trans after.symm)
  case reset =>
    subst word addr
    refine ends_chCtrl channel (by simp [exec, execTimerSwReset, channel]) edge lands ?_
    simp only [timerFx_chCtrl channel, timerSwReset, loaded]
    simp [capture]
  case capture =>
    subst word addr
    refine ends_chCtrl channel (by simp [exec, execTimerSwCap, channel]) edge lands ?_
    simp [timerFx_chCtrl channel, reset]
  case edge =>
    refine ends_event rfl ?_
    have set : ¬ capSrc (newEdge s) c = 0 := by omega
    simp [timerCapture, channel, running, enabled, set, high, edges]
  case pop =>
    exact ends_capPop channel reads waits
  case snap => 
    subst word
    have named : Named Rg.TIMER_SNAP Pg.TIMER 0x200 _ _ := .of_offset rfl (by decide) (by decide) (by decide) (by decide) rfl rfl (by decide)
    refine named.data rfl edge lands rfl ?_
    rw [writeFx_port (by decide) (by decide) (by decide) (by decide)]
    simpa [pageFx, timerFx, snapped] using timerSnap_eq e

end Sys2Proof.Machine
end

