-- ==== Sys2Proof/Proofs/Ports.lean ====
section
/-! Ethernet, I3C, SPI and GPIO: what their registers and events leave (R435 to R447). -/
namespace Sys2Proof.Machine

/-! ## Ethernet -/

theorem pageDesc_eth : ∀ m < 2, pageDesc (Pg.ETH + m) = pageDesc Pg.ETH := by decide

section
variable {q : Req} {v : W32} {i : Instr} {s e : State} {m : Nat} (port : m < 2)
include port

theorem named_rxHead : ∃ x r, Named (ethReg Rg.ETH_RX_HEAD m) (ethPg m) 0x48 x r ∧ x.kind = .eth
    ∧ isConfig 1 x 0x48 false r = false ∧ r.flds = [⟨31, 0, .rw, 0⟩] := by
  refine ⟨_, _, .of_alike pageDesc_eth port ?_ ?_ (by decide) (by decide) (by decide) rfl rfl rfl ?_, rfl, rfl, rfl⟩
  all_goals simp only [ethReg, Rg.ETH_RX_HEAD, Pg.ETH, Rg.SRIOV_TEN_CFG]; omega

theorem named_txqTail {k : Nat} (queue : k < 8) : ∃ x r, Named (ethReg Rg.ETH_TXQ_TAIL m + 4 * k) (ethPg m) (0x80 + 4 * k) x r
    ∧ x.kind = .eth ∧ isConfig 1 x (0x80 + 4 * k) false r = false ∧ r.flds = [⟨31, 0, .rw, 0⟩] := by
  have reg : ∀ k < 8, findReg 0 regsEth (0x80 + 4 * k) = some ⟨0x80, 8, 4, false, none, [⟨31, 0, .rw, 0⟩]⟩ := by decide
  refine ⟨_, _, .of_alike pageDesc_eth port ?_ ?_ (by omega) (by omega) (by omega) rfl rfl (reg k queue) ?_, rfl, ?_, rfl⟩
  case refine_4 => simp [isConfig, sidePort]; omega
  all_goals simp only [ethReg, Rg.ETH_TXQ_TAIL, Pg.ETH, Rg.SRIOV_TEN_CFG]; omega

end

/-- A register of a port that the host and the device both move takes its value. -/
theorem ends_ethWord {q : Req} {v : W32} {i : Instr} {s e : State} {a p o : Nat} {x : PageDesc} {r : RegDesc}
    (named : Named a p o x r) (kind : x.kind = .eth) (data : isConfig 1 x o false r = false) (flds : r.flds = [⟨31, 0, .rw, 0⟩])
    (unstaged : o < 0x800) (runs : Sys2Proof.Machine.exec i s = .next (regCmd q a v s)) (edge : e = edgeOf q.same s) (lands : Lands q a v e) :
    Ends i s (recorded q a v (wrF a 31 0 (fld v 31 0) e)) := by
  refine named.data runs edge lands data ?_
  rw [writeFx_store (by simp [kind]) (by simp [kind]) (.inl unstaged) (by simp [regVirtual, regStores, kind, flds]), named.offset]
  simp [pageFx, kind, flds, storeWord, wrF]

/-- Settles O28: each command meets its branch on a port below 2. -/
theorem ethernetRowsEnd : Obligations.EthernetRowsEnd := by
  rintro q v s e n m k speed up an l edge rfl port
  refine ⟨fun linked idle live => ?frame, fun a addr lands => ?head, fun a addr queue lands => ?tail,
    fun running linked free => ?start, fun t sending => ?done, fun a w addr word here => ?link⟩
  case frame =>
    refine ends_eventIf rfl (by simp [port, linked]) ?_
    simp [ethRx, linked, wvPass_idle idle, ethTake, liveInput_passes live]
  case head =>
    subst addr
    obtain ⟨x, r, named, kind, data, flds⟩ := named_rxHead port
    exact ends_ethWord named kind data flds (by decide) (congrArg Host.Outcome.next (if_pos port)) edge lands
  case tail =>
    subst addr
    obtain ⟨x, r, named, kind, data, flds⟩ := named_txqTail port queue
    exact ends_ethWord named kind data flds (by omega) (by simp [exec, execEthTxqTailWrite, port, queue]) edge lands
  case start =>
    exact ends_eventIf rfl (by simp [running, port]) (by simp [txStart, linked, free])
  case done =>
    exact ends_event rfl (by simp [txDone, sending])
  case link =>
    subst addr word
    exact ends_event rfl (by simp [ethLink, port, here])

/-! ## I3C -/

theorem pageDesc_i3c : ∀ b < 4, pageDesc (Pg.I3C + b) = pageDesc Pg.I3C := by decide

theorem named_xferGo {b : Nat} (bus : b < 4) : ∃ x r, Named (i3cReg Rg.I3C_XFER_GO b) (Pg.I3C + b) 0x48 x r ∧ x.kind = .i3c
    ∧ x.base = Pg.I3C ∧ isConfig 1 x 0x48 false r = false ∧ regStores r = false := by
  refine ⟨_, _, .of_alike pageDesc_i3c bus ?_ ?_ (by decide) (by decide) (by decide) rfl rfl rfl ?_, rfl, rfl, rfl, rfl⟩
  all_goals simp only [i3cReg, Rg.I3C_XFER_GO, Pg.I3C, Rg.SRIOV_TEN_CFG]; omega

/-- A write of XFER_GO that lands begins the transfer, whichever its command. -/
theorem ends_xferGo {i : Instr} {ok : Bool} {q : Req} {b : Nat} {v : W32} {s e : State} (bus : b < 4) (kind : ok = true)
    (runs : Sys2Proof.Machine.exec i s = .next (xferCmd ok q b v s)) (edge : e = edgeOf q.same s)
    (lands : Lands q (i3cReg Rg.I3C_XFER_GO b) (v ||| 1) e) :
    Ends i s (recorded q (i3cReg Rg.I3C_XFER_GO b) (v ||| 1) (i3cGo b e)) := by
  obtain ⟨x, r, named, i3c, base, data, stores⟩ := named_xferGo bus
  refine named.data (runs.trans (by simp [xferCmd, bus, kind])) edge lands data ?_
  rw [writeFx_port (by simp [i3c]) (by simp [i3c]) (.inl (by decide)) (by simp [stores])]
  simp [pageFx, i3c, i3cFx, base]

/-- A read of IBI_POP that reaches its page takes the oldest interrupt. -/
theorem ends_ibiPop {s : State} {o b : Nat} {x : IbiEnt} {l : List IbiEnt} (bus : b < 4)
    (reads : ReadsAt o (Pg.I3C + b) 0x50 (newEdge s)) (waits : (i3cBus (newEdge s) b).ibis = x :: l) (t : State)
    (popped : t = putI3c b { i3cBus (newEdge s) b with ibis := l } (newEdge s)) :
    Ends (.ibiPopRead o b) s (emit (.readData o (w32 (x.addr + 0x80 + x.data.length * 0x100)).toNat)
      { t with port := { t.port with ibiPops := kvInsert t.port.ibiPops (b * 256 + o) x } }) := by
  subst popped
  have here : ∀ b < 4, ([Member.zs832f, .zs816h, .zs804q].all fun m => present m (Pg.I3C + b)) = true := by decide
  have offset : i3cReg Rg.I3C_IBI_POP b = (Pg.I3C + b) * 0x1000 + 0x50 := by simp only [i3cReg, Rg.I3C_IBI_POP, Pg.I3C]; omega
  obtain ⟨d, page, kind, base⟩ : ∃ d, pageDesc (Pg.I3C + b) = some d ∧ d.kind = .i3c ∧ d.base = Pg.I3C :=
    ⟨_, (pageDesc_i3c b bus).trans rfl, rfl, rfl⟩
  have pop : readPage o (Pg.I3C + b) 0x50 (newEdge s) = ibiPop o b (newEdge s) := by simp [readPage, page, kind, base]
  refine ends_readBody offset (by simp only [Pg.I3C]; omega) (.inr (by decide)) (by decide) (by decide)
    (congrArg Host.Outcome.next (if_pos bus)) reads page (present_of_all (here b bus) _) ?_
  simp only [pop, ibiPop, waits]

/-- Settles O29: each command meets its branch on a bus below 4. -/
theorem i3cRowsEnd : Obligations.I3cRowsEnd := by
  rintro q v s e n b o result count addr l edge rfl bus
  refine ⟨fun w a i word addr lands row => ?go, fun busy live => ?done, fun enabled live refused => ?nack,
    fun x enabled live room join t record queued => ?queue, fun x r reads waits t popped => ends_ibiPop bus reads waits t popped⟩
  case go =>
    subst word addr
    rcases row with ⟨kind, rfl⟩ | ⟨kind, rfl⟩ | ⟨kind, other, rfl⟩ | ⟨assign, rfl⟩ | ⟨kind, rfl⟩
    · exact ends_xferGo bus (beq_iff_eq.mpr kind) rfl edge lands
    · exact ends_xferGo bus (beq_iff_eq.mpr kind) rfl edge lands
    · exact ends_xferGo bus (by simp [kind, other]) rfl edge lands
    · exact ends_xferGo bus assign rfl edge lands
    · exact ends_xferGo bus (beq_iff_eq.mpr kind) rfl edge lands
  case done => exact ends_eventIf rfl (by simp [bus, busy]) (liveInput_passes live _)
  case nack =>
    refine ends_eventIf rfl (by simp [bus, enabled]) ((liveInput_passes live _).trans ?_)
    have full : (decide (8 ≤ (i3cBus (newEdge s) b).ibis.length) || (addr == 2 && !rdB (newEdge s) (i3cReg Rg.I3C_CFG b) 16)) = true := by
      simpa using refused
    simp only [i3cIbi, full, if_true]
  case queue =>
    subst queued record
    refine ends_eventIf rfl (by simp [bus, enabled]) ((liveInput_passes live _).trans ?_)
    have taken : (decide (8 ≤ (i3cBus (newEdge s) b).ibis.length) || (addr == 2 && !rdB (newEdge s) (i3cReg Rg.I3C_CFG b) 16)) = false := by
      simpa [room] using join
    simp only [i3cIbi, taken, Bool.false_eq_true, if_false]

/-! ## SPI -/

theorem named_ctlGo {k : Nat} (controller : k < 2) : ∃ x r, Named (spiReg Rg.SPI_CTL_GO k) Pg.SPI (0x4C + 0x20 * k) x r
    ∧ x.kind = .spi ∧ isConfig 1 x (0x4C + 0x20 * k) false r = false ∧ regStores r = false := by
  have reg : ∀ k < 2, findReg 0 regsSpi (0x4C + 0x20 * k) = some ⟨0x4C, 2, 32, false, none, [⟨0, 0, .w1s, 0⟩]⟩ := by decide
  refine ⟨_, _, .of_offset ?_ (by decide) (.inr (by omega)) (by omega) (by omega) rfl (reg k controller) ?_, rfl, ?_, rfl⟩
  case refine_3 => simp [isConfig, sidePort]; omega
  all_goals simp only [spiReg, Rg.SPI_CTL_GO, Pg.SPI, Rg.SRIOV_TEN_CFG]; omega

theorem ends_ctlGo {q : Req} {k : Nat} {v : W32} {s e : State} (controller : k < 2) (edge : e = edgeOf q.same s)
    (lands : Lands q (spiReg Rg.SPI_CTL_GO k) (v ||| 1) e) :
    Ends (.spiCtlGo q k v) s (recorded q (spiReg Rg.SPI_CTL_GO k) (v ||| 1) (spiGo k e)) := by
  obtain ⟨x, r, named, spi, data, stores⟩ := named_ctlGo controller
  refine named.data (congrArg Host.Outcome.next (if_pos controller)) edge lands data ?_
  rw [writeFx_port (by simp [spi]) (by simp [spi]) (.inl (by omega)) (by simp [stores])]
  obtain rfl | rfl : k = 0 ∨ k = 1 := by omega
  · simp [pageFx, spi, spiFx]
  · simp [pageFx, spi, spiFx]

theorem named_tgtCtrl : ∃ x, Named Rg.SPI_TGT_CTRL Pg.SPI 0xC0 x ⟨0xC0, 1, 4, false, none, [⟨0, 0, .w1c, 0⟩, ⟨1, 1, .w1s, 0⟩]⟩
    ∧ x.kind = .spi :=
  ⟨_, .of_offset rfl (by decide) (by decide) (by decide) (by decide) rfl rfl (by decide), rfl⟩

/-- What a write of TGT_CTRL stores: RX_FULL clears where the write says so. -/
theorem storeWord_tgtCtrl (w v : W32) :
    storeWord [⟨0, 0, .w1c, 0⟩, ⟨1, 1, .w1s, 0⟩] w v = if fbit v 0 then setFld w 0 0 0 else w :=
  andNot_mask w v (by decide)

/-- A write of TGT_CTRL that lands. -/
theorem ends_tgtCtrl {i : Instr} {q : Req} {w : W32} {s e l u : State}
    (runs : Sys2Proof.Machine.exec i s = .next (regCmd q Rg.SPI_TGT_CTRL w s)) (edge : e = edgeOf q.same s)
    (lands : Lands q Rg.SPI_TGT_CTRL w e) (entered : l = logged q Rg.SPI_TGT_CTRL w e e)
    (effect : spiFx 0xC0 w (wr Rg.SPI_TGT_CTRL (if fbit w 0 then setFld (rd l Rg.SPI_TGT_CTRL) 0 0 0 else rd l Rg.SPI_TGT_CTRL) l) = u) :
    Ends i s (recorded q Rg.SPI_TGT_CTRL w u) := by
  obtain ⟨x, named, spi⟩ := named_tgtCtrl
  refine named.config runs edge lands (by simp [isConfig, sidePort, spi]) (by simp [fxFirst, spi]) ?_
  rw [writeFx_store (by simp [spi]) (by simp [spi]) (.inl (by decide)) (by simp [regVirtual, regStores, spi]), ← entered, ← effect,
    storeWord_tgtCtrl, ← named.offset]
  simp [pageFx, spi]

/-- Settles O30: each event meets its branch, and each write the register's effect. -/
theorem spiAndGpioRowsEnd : Obligations.SpiAndGpioRowsEnd := by
  rintro q v s e n k off len b l edge rfl
  refine ⟨?go, ?timed, ?done, fun answers => ⟨?overrun, ?write, ?read, ?status, ?badcmd⟩, ?publish, ?apply, ?clear, ?edge, ?set, ?clr⟩
  case go =>
    rintro w a rfl rfl controller lands
    exact ends_ctlGo controller edge lands
  case timed =>
    intro lin d running controller armed later
    exact ends_eventIf rfl (by simp [running, controller]) (by simp [spiTimed, armed, later])
  case done =>
    intro controller live busy idle
    exact ends_eventIf rfl (by simp [controller]) (liveInput_passes live _)
  case overrun =>
    intro live full
    exact ends_eventIf rfl answers ((liveInput_passes live _).trans (by simp [tgtWrite, full]))
  case write =>
    intro live free some
    exact ends_eventIf rfl answers ((liveInput_passes live _).trans (by simp [tgtWrite, free, some]))
  case read => exact ends_eventIf rfl answers rfl
  case status =>
    intro low t fault
    exact ends_eventIf rfl answers (by simp [tgtStatus, fault])
  case badcmd => exact ends_eventIf rfl answers rfl
  case publish =>
    rintro w rfl lands keep l t entered rfl
    exact ends_tgtCtrl rfl edge lands entered (by simp [spiFx, keep])
  case apply =>
    rintro d waits rfl
    exact ends_event rfl (by simp [tgtPublish, waits])
  case clear =>
    rintro w rfl lands keep l entered
    exact ends_tgtCtrl rfl edge lands entered (by simp [spiFx, keep, wrB, wrF, b2n])
  case edge =>
    rintro pin change live t rfl r rfl
    refine ends_event rfl ((liveInput_passes live _).trans ?_)
    simp [gpioEdge, Nat.not_le.mpr pin, change]
  case set =>
    intro lands
    have named : Named Rg.GPIO_OUT_SET Pg.GPIO 0x48 _ _ := .of_offset rfl (by decide) (by decide) (by decide) (by decide) rfl rfl (by decide)
    refine named.data rfl edge lands rfl ?_
    rw [writeFx_port (by decide) (by decide) (by decide) rfl]
    simp [pageFx, gpioFx, gpioSet]
  case clr =>
    intro lands
    have named : Named Rg.GPIO_OUT_CLR Pg.GPIO 0x4C _ _ := .of_offset rfl (by decide) (by decide) (by decide) (by decide) rfl rfl (by decide)
    refine named.data rfl edge lands rfl ?_
    rw [writeFx_port (by decide) (by decide) (by decide) rfl]
    simp [pageFx, gpioFx, gpioClr]

end Sys2Proof.Machine
end

