-- ==== Sys2Proof/Proofs/Cameras.lean ====
section
/-! Camera packets and events, and the course of a Chafer window (R329 to R367). -/
namespace Sys2Proof.Machine

/-! ## Camera ports -/

/-- A packet that no rule changed is taken as it came. -/
theorem camChanged_same (k : CamPkt) (s : State) : camChanged k k.payload false s = (k, s) := by
  simp [camChanged]

theorem camRx_idle {s : State} (idle : wvIdle s = true) (p : Nat) (k : CamPkt) : camRx p k s = camTake p k s := by
  simp only [camRx, wvPass_idle idle, camChanged_same]

theorem pageDesc_cam : ∀ p < 8, pageDesc (Pg.CAM + p) = pageDesc Pg.CAM := by decide

theorem named_camRelease {p : Nat} (port : p < 8) : ∃ x r, Named (portReg Rg.CAM_RELEASE p) (Pg.CAM + p) 0xC0 x r ∧ x.kind = .cam
    ∧ x.base = Pg.CAM ∧ isConfig 1 x 0xC0 false r = false ∧ regStores r = false := by
  refine ⟨_, _, .of_alike pageDesc_cam port ?_ ?_ (by decide) (by decide) (by decide) rfl rfl rfl ?_, rfl, rfl, rfl, rfl⟩
  all_goals simp only [portReg, Rg.CAM_RELEASE, Pg.CAM, Rg.SRIOV_TEN_CFG]; omega

/-- A slot is given back. -/
theorem ends_camRelease {q : Req} {p : Nat} {v : W32} {s e : State} (port : p < 8) (edge : e = edgeOf q.same s)
    (lands : Lands q (portReg Rg.CAM_RELEASE p) v e) :
    Ends (.camRelease q p v) s (recorded q (portReg Rg.CAM_RELEASE p) v (freeSlot (4 * p + fld v 1 0) (fld v 7 4) e)) := by
  obtain ⟨x, r, named, cam, base, data, stores⟩ := named_camRelease port
  refine named.data (congrArg Host.Outcome.next (if_pos port)) edge lands data ?_
  rw [writeFx_port (by simp [cam]) (by simp [cam]) (.inl (by decide)) (by simp [stores])]
  simp [pageFx, cam, camFx, base]

/-- Settles O22: each packet passes its port unchanged, and each event is due. -/
theorem cameraRowsEnd : Obligations.CameraRowsEnd := by
  refine ⟨?packets, ?events⟩
  case packets =>
    rintro s e p vc dt num wc ecc crcOk l rfl receives idle
    refine ⟨ends_eventIf rfl receives (camRx_idle idle ..), ends_eventIf rfl receives (camRx_idle idle ..),
      fun low high => ends_eventIf rfl ?_ (camRx_idle idle ..), fun low high => ends_eventIf rfl ?_ (camRx_idle idle ..)⟩
    · simp [receives, low, high]
    · simp [receives, low, high]
  case events =>
    rintro q v s e n st g p up edge rfl
    refine ⟨fun stream here due => ends_eventIf rfl ?_ rfl, fun group due => ends_eventIf rfl ?_ rfl, ?_, fun port here => ends_eventIf rfl ?_ rfl⟩
    · simp [stream, here, due]
    · simp [group, due]
    · rintro a rfl port lands
      exact ends_camRelease port edge lands
    · simp [port, here]

/-! ## Chafer windows -/

section
variable {s : State} {h : Nat} {w : ChWin} {c : ChWin → State → Bool} {f : ChWin → State → State}

theorem windowIf_some (window : chWin s h = some w) (holds : c w s = true) : windowIf h c f s = f w s := by
  simp only [windowIf, window, holds, if_true]

end

/-- Settles O23: each event finds its window in the state for it. -/
theorem chaferWindowsEnd : Obligations.ChaferWindowsEnd := by
  rintro s e g h stall data rfl rfl
  refine ⟨fun x answer event => ends_answered rfl answer ?start, fun w answer window early line => ends_answered rfl answer ?openTake,
    fun w answer window phase took => ends_answered rfl answer ?setup, fun w answer window phase line => ends_answered rfl answer ?eval,
    fun w window phase due => ends_event rfl ?token, fun w window phase line => ends_event rfl ?late, ?peer⟩
  case start => simp only [windowStart, event]
  case openTake => exact windowIf_some window (by simp [early, line])
  case setup => exact windowIf_some window (by simp [phase, took])
  case eval => exact windowIf_some window (by simp [phase, line])
  case token => exact windowIf_some window (by simp [phase])
  case late => exact windowIf_some window (by simp [phase, line])
  case peer =>
    intro i row
    simp only [List.mem_cons, List.not_mem_nil, or_false] at row
    rcases row with rfl | rfl | rfl | rfl <;> rfl

end Sys2Proof.Machine
end

