-- ==== Sys2Proof/Proofs/Display.lean ====
section
/-! Display heads, the palette, DSI packets, voices, nodes and samples (R375 to R420). -/
namespace Sys2Proof.Machine

/-! ## Heads -/

/-- Settles O24: each event is due on its head. -/
theorem displayEventsEnd : Obligations.DisplayEventsEnd := by
  rintro s e h bad late b rfl
  refine ⟨fun due => ends_eventIf rfl due rfl, fun due => ends_eventIf rfl due rfl, ?sprites, ?head0, ?head1,
    fun head => ends_eventIf rfl (by simp [head]) rfl⟩
  case sprites =>
    rintro running head line fresh begun x t rfl rfl on unlocked
    refine ⟨?_, ?_⟩
    · rintro rfl
      refine ends_eventIf rfl (by simp [running, head]) ?_
      simp [spriteFetch, line, fresh, begun, on, unlocked]
    · rintro rfl
      exact ends_eventIf rfl (by simp [running, head]) rfl
  case head0 =>
    intro x running due
    exact ends_eventIf rfl (by simp [running]) (by simp [tableFetch, due])
  case head1 =>
    intro k running due
    exact ends_eventIf rfl (by simp [running]) (by simp [tableFetch, due])

/-! ## Registers of the heads -/

/-- PAL_DATA and HEAD_CTRL of a head. -/
theorem named_palData {h : Nat} (head : h < 2) : ∃ x r, Named (wcReg Rg.WINGCASE_PAL_DATA h) (Pg.WINGCASE + h) 0x84 x r
    ∧ x.kind = .wingcase ∧ x.base = Pg.WINGCASE ∧ isConfig 1 x 0x84 false r = false := by
  obtain rfl | rfl : h = 0 ∨ h = 1 := by omega
  all_goals exact ⟨_, _, .of_offset rfl (by decide) (by decide) (by decide) (by decide) rfl rfl (by decide), rfl, rfl, rfl⟩

theorem named_headCtrl {h : Nat} (head : h < 2) : ∃ x r, Named (wcReg Rg.WINGCASE_HEAD_CTRL h) (Pg.WINGCASE + h) 0x48 x r
    ∧ x.kind = .wingcase ∧ x.base = Pg.WINGCASE ∧ isConfig 1 x 0x48 false r = true ∧ r.flds = [⟨0, 0, .rh, 0⟩] := by
  obtain rfl | rfl : h = 0 ∨ h = 1 := by omega
  all_goals exact ⟨_, _, .of_offset rfl (by decide) (by decide) (by decide) (by decide) rfl rfl (by decide), rfl, rfl, rfl, rfl⟩

section
variable {q : Req} {v : W32} {s e : State} {h : Nat} (head : h < 2)
include head

theorem ends_palDataWrite (edge : e = edgeOf q.same s) (lands : Lands q (wcReg Rg.WINGCASE_PAL_DATA h) v e) :
    Ends (.palDataWrite q h v) s (recorded q (wcReg Rg.WINGCASE_PAL_DATA h) v (palWrite h Rg.WINGCASE_PAL_IDX v e)) := by
  obtain ⟨x, r, named, wing, base, data⟩ := named_palData head
  refine named.data (congrArg Host.Outcome.next (if_pos head)) edge lands data ?_
  rw [writeFx_port (by simp [wing]) (by simp [wing]) (.inl (by decide)) (by simp [regVirtual, wing])]
  simp [pageFx, wing, wingFx, base]

theorem ends_palDataRead {o : Nat} (reads : ReadsAt o (Pg.WINGCASE + h) 0x84 (newEdge s)) :
    Ends (.palDataRead o h) s (emit (.readData o (palRead h Rg.WINGCASE_PAL_IDX (newEdge s)).1.toNat)
      (palRead h Rg.WINGCASE_PAL_IDX (newEdge s)).2) := by
  have here : ∀ h < 2, ([Member.zs832f, .zs816h, .zs804q].all fun m => present m (Pg.WINGCASE + h)) = true := by decide
  obtain ⟨x, r, named, wing, base, -⟩ := named_palData head
  refine ends_readBody named.offset (by simp only [Pg.WINGCASE]; omega) (.inr (by decide)) (by decide) (by decide)
    (congrArg Host.Outcome.next (if_pos head)) reads named.page (present_of_all (here h head) _) ?_
  simp [readPage, named.page, wing, base]

theorem ends_headCtrl (edge : e = edgeOf q.same s) (lands : Lands q (wcReg Rg.WINGCASE_HEAD_CTRL h) v e) :
    Ends (.safeOnlyWrite q h v) s (recorded q (wcReg Rg.WINGCASE_HEAD_CTRL h) v
      (wrF (wcReg Rg.WINGCASE_HEAD_CTRL h) 0 0 (fld v 0 0) (logged q (wcReg Rg.WINGCASE_HEAD_CTRL h) v e e))) := by
  obtain ⟨x, r, named, wing, base, config, flds⟩ := named_headCtrl head
  refine named.config (congrArg Host.Outcome.next (if_pos head)) edge lands config (by simp [wing, fxFirst]) ?_
  rw [writeFx_store (by simp [wing]) (by simp [wing]) (.inl (by decide)) (by simp [regVirtual, regStores, wing, flds]), ← named.offset]
  simp [pageFx, wing, wingFx, flds, storeWord, wrF]

end

theorem fld_mod (v : W32) (hi lo : Nat) : fld v hi lo % 2 ^ (hi + 1 - lo) = fld v hi lo :=
  Nat.mod_mod ..

/-- Settles O25: each write that lands has its register's effect. -/
theorem displayAndAudioRegistersEnd : Obligations.DisplayAndAudioRegistersEnd := by
  intro q v s e h o edge
  refine ⟨?palWrite, ?palRead, ?ctrl, ?genGo, ?keyOn, ?keyOff, ?node⟩
  case palWrite =>
    rintro a x rfl rfl head lands
    exact ends_palDataWrite head edge lands
  case palRead =>
    rintro x n rfl rfl head reads
    exact ends_palDataRead head reads
  case ctrl =>
    rintro a l rfl rfl head lands
    exact ends_headCtrl head edge lands
  case genGo =>
    rintro w l rfl rfl lands
    have named : Named Rg.DSI_GEN_GO Pg.DSI 0x58 _ _ := .of_offset rfl (by decide) (by decide) (by decide) (by decide) rfl rfl (by decide)
    refine named.config rfl edge lands rfl rfl ?_
    rw [writeFx_port (by decide) (by decide) (by decide) rfl]
    simp [pageFx]
  case keyOn =>
    intro lands
    have named : Named Rg.CHOIR_KEY_ON Pg.CHOIR 0x40 _ _ := .of_offset rfl (by decide) (by decide) (by decide) (by decide) rfl rfl (by decide)
    refine named.data rfl edge lands rfl ?_
    rw [writeFx_port (by decide) (by decide) (by decide) rfl]
    have program : fld v 4 0 % 32 = fld v 4 0 := fld_mod v 4 0
    simp [pageFx, choirFx, keyQueue, program]
  case keyOff =>
    rintro x rfl sounds lands
    have named : Named Rg.CHOIR_KEY_OFF Pg.CHOIR 0x44 _ _ := .of_offset rfl (by decide) (by decide) (by decide) (by decide) rfl rfl (by decide)
    refine named.data rfl edge lands rfl ?_
    rw [writeFx_port (by decide) (by decide) (by decide) rfl]
    simp [pageFx, choirFx, keyOff, sounds]
  case node =>
    rintro l rfl lands
    have named : Named Rg.CHOIRXP_XP_NODE Pg.CHOIRXP 0x44 _ _ := .of_offset rfl (by decide) (by decide) (by decide) (by decide) rfl rfl (by decide)
    refine named.config rfl edge lands rfl rfl ?_
    rw [writeFx_port (by decide) (by decide) (by decide) rfl]
    simp [pageFx, xpNode]

/-! ## Packets, samples and frames of slots -/

/-- Settles O26: each event is due. -/
theorem audioEventsEnd : Obligations.AudioEventsEnd := by
  rintro s e late bad raw p b rfl
  refine ⟨?send, fun running => ends_eventIf rfl running rfl, fun at_ fresh => ends_event rfl rfl, fun at_ third freshC freshA => ends_event rfl rfl,
    fun port runs domain => ends_event rfl ?lock, fun port locked => ends_event rfl ?unlock, fun open_ => ends_event rfl ?frame⟩
  case send =>
    intro lin g d queued later blank on
    refine ends_event rfl ?_
    simp only [dsiGenSend, queued, later, blank, on]
    rfl
  case lock => simp [asrcLock, port, runs, domain]
  case unlock => simp [asrcUnlock, port, locked]
  case frame =>
    by_cases domain : tdmDomain (newEdge s) p = 1
    · simp [tdmReceive, domain]
    · simpa [tdmReceive, domain] using liveInput_passes (open_.resolve_left domain) _

end Sys2Proof.Machine
end

