-- ==== Sys2Proof/Proofs/Safety.lean ====
section
/-! Rounds, unison, age watches, fences, faults and the watchdog (R451 to R468). -/
namespace Sys2Proof.Machine

/-! ## Rounds, unison and watches -/

theorem named_hartCtrl {h : Nat} (pair : h < 4) : ∃ x r, Named (Rg.HART_CTRL + h * 0x1000) (Pg.HART + h) 0x48 x r ∧ x.kind = .hart
    ∧ x.base = Pg.HART ∧ Takes x 0x48 r false true false := by
  have alike : ∀ h < 4, pageDesc (Pg.HART + h) = pageDesc Pg.HART := by decide
  refine ⟨_, _, .of_alike alike pair ?_ ?_ (by decide) (by decide) (by decide) rfl rfl rfl ?_, rfl, rfl, by decide⟩
  all_goals simp only [Rg.HART_CTRL, Pg.HART, Rg.SRIOV_TEN_CFG]; omega

theorem findReg_awCfg {w : Nat} (watch : w < 256) : findReg 0 regsAgewatch (0x400 + 4 * w)
    = some ⟨0x400, 256, 4, false, none, [⟨2, 0, .rw, 0⟩, ⟨15, 3, .rw, 0⟩, ⟨31, 16, .rw, 0⟩]⟩ := by
  have past : ∀ k ≤ 0x400, ¬ 0x400 + 4 * w < k := fun k _ => by omega
  simp [findReg, regsAgewatch, past]
  omega

theorem named_awCfg {w : Nat} (watch : w < 256) : ∃ x r, Named (Rg.AGEWATCH_AW_CFG + 4 * w) Pg.AGEWATCH (0x400 + 4 * w) x r
    ∧ x.kind = .agewatch ∧ Takes x (0x400 + 4 * w) r true true false
    ∧ r.flds = [⟨2, 0, .rw, 0⟩, ⟨15, 3, .rw, 0⟩, ⟨31, 16, .rw, 0⟩] := by
  refine ⟨_, _, .of_offset ?_ (by decide) (.inr (by omega)) (by omega) (by omega) rfl (findReg_awCfg watch) ?_, rfl, ?_, rfl⟩
  case refine_3 => exact ⟨.inl (by decide), by decide, .inl (by omega), rfl, rfl, rfl⟩
  all_goals simp only [Rg.AGEWATCH_AW_CFG, Pg.AGEWATCH, Rg.SRIOV_TEN_CFG]; omega

/-- Settles O31: each event is due, and each write that lands has its register's effect. -/
theorem watchRowsEnd : Obligations.WatchRowsEnd := by
  refine ⟨?rounds, ?watches⟩
  case rounds =>
    rintro q v s e n k id h pc edge rfl
    refine ⟨fun m sent => ends_event rfl (by simp only [sigArrive, sent]), fun x round due => ends_event rfl (by simp [roundDeadline, round, due]),
      ?mismatch, ?restart⟩
    case mismatch =>
      rintro b t pair running rfl rfl
      exact ends_eventIf rfl (by simp [pair, running]) rfl
    case restart =>
      rintro w a l rfl rfl pair rfl lands
      obtain ⟨x, r, named, hart, base, takes⟩ := named_hartCtrl pair
      exact named.configPort (congrArg Host.Outcome.next (if_pos pair)) edge lands takes (by simp [pageFx, hart, base, unisonRestart])
  case watches =>
    rintro q v s e n w edge rfl
    refine ⟨?config, ?feed, ?expiry⟩
    case config =>
      rintro a l rfl watch rfl lands
      obtain ⟨x, r, named, kind, takes, flds⟩ := named_awCfg watch
      refine named.configStore (congrArg Host.Outcome.next (if_pos watch)) edge lands takes ?_
      have window : 0x400 + 4 * w < 0x800 := by omega
      have register : ¬ 0x400 + 4 * w = 0x48 := by omega
      simp [pageFx, kind, flds, awCfgAfter, window, register]
    case feed =>
      intro lands software
      exact (Named.fixed (a := Rg.AGEWATCH_AW_FEED) (p := Pg.AGEWATCH) (o := 0x48) rfl (by decide) rfl rfl).dataPort rfl edge lands (by decide)
        (by simp [pageFx, software, feedWatch])
    case expiry =>
      rintro watch due t rfl
      exact ends_eventIf rfl (by simp [watch, due]) rfl

/-! ## Fences and faults -/

/-- Settles O32: each write that lands has its register's effect. -/
theorem faultRowsEnd : Obligations.FaultRowsEnd := by
  rintro q v s e n edge rfl
  refine ⟨?fence, ?raise, ?map, ?lock, ?pin, ?released, ?wdog, ?kick, fun due => ends_eventIf rfl due rfl⟩
  case fence =>
    intro lands
    exact (Named.fixed (a := Rg.SAFETY_FENCE) (p := Pg.SAFETY) (o := 0x40) rfl (by decide) rfl rfl).dataPort rfl edge lands (by decide)
      (by simp [pageFx])
  case raise =>
    intro lands
    exact (Named.fixed (a := Rg.FAULT_RAISE) (p := Pg.FAULT) (o := 0x50) rfl (by decide) rfl rfl).dataPort rfl edge lands (by decide)
      (by simp [pageFx, faultFx])
  case map =>
    rintro a l rfl rfl lands
    exact (Named.fixed (a := Rg.FAULT_CLASS_MAP) (p := Pg.FAULT) (o := 0x40) rfl (by decide) rfl rfl).configStore rfl edge lands (by decide)
      (by simp [pageFx, faultFx, storeWord, wrF])
  case lock =>
    rintro a w l rfl rfl rfl lands
    exact (Named.fixed (a := Rg.FAULT_CLASS_LOCK) (p := Pg.FAULT) (o := 0x44) rfl (by decide) rfl rfl).configPort rfl edge lands (by decide)
      (by simp [pageFx, faultFx, b2n, w32])
  case pin =>
    rintro a w l rfl rfl rfl lands
    exact (Named.fixed (a := Rg.FAULT_PIN) (p := Pg.FAULT) (o := 0x48) rfl (by decide) rfl rfl).configPort rfl edge lands (by decide)
      (by simp [pageFx, faultFx, pinReleaseWrite])
  case released =>
    rintro waits late t rfl
    exact ends_eventIf rfl (by simp [waits, late]) rfl
  case wdog =>
    rintro a l rfl rfl lands
    exact (Named.fixed (a := Rg.FAULT_WDOG_CFG) (p := Pg.FAULT) (o := 0x54) rfl (by decide) rfl rfl).configStore rfl edge lands (by decide)
      (by simp [pageFx, faultFx, storeWord, wrF])
  case kick =>
    intro lands
    exact (Named.fixed (a := Rg.FAULT_WDOG_KICK) (p := Pg.FAULT) (o := 0x58) rfl (by decide) rfl rfl).dataPort rfl edge lands (by decide)
      (by simp [pageFx, faultFx, wdogKick, and_assoc])

end Sys2Proof.Machine
end

