-- ==== Sys2Proof/Proofs/Link.lean ====
section
/-! Stave Link and the Hymnal (R471 to R496). -/
namespace Sys2Proof.Machine

/-! ## Ports -/

theorem pageDesc_slink {p : Nat} (port : p < 2) : ∃ x, pageDesc (slPg p) = some x ∧ x.kind = .slink ∧ x.base = Pg.SLINK := by
  have alike : ∀ p < 2, pageDesc (slPg p) = pageDesc Pg.SLINK := by decide
  exact ⟨_, (alike p port).trans rfl, rfl, rfl⟩

/-- ENABLE of a port that was off. -/
theorem ends_slinkEnable {q : Req} {v : W32} {s e : State} {p : Nat} (port : p < 2) (edge : e = edgeOf q.same s)
    (lands : Lands q (hdr (slPg p) Hdr.BLK_CTRL) (v ||| 1) e) (reset : fbit v 1 = false) (off : enabled e (slPg p) = false) :
    Ends (.slinkEnable q p v) s (recorded q (hdr (slPg p) Hdr.BLK_CTRL) (v ||| 1)
      (logged q (hdr (slPg p) Hdr.BLK_CTRL) (v ||| 1) e (linkTrain p (wrB (hdr (slPg p) Hdr.BLK_CTRL) 0 true e)))) := by
  obtain ⟨x, page, kind, base⟩ := pageDesc_slink port
  have ends := ends_blkCtrl (i := .slinkEnable q p v) (congrArg Host.Outcome.next (if_pos port)) edge lands
    (by simp only [slPg, Pg.SLINK]; omega) page (by simp [kind]) (by simp [kind]) fun t => ctrlFx_enable t (by simp) (by simp [reset])
  have index : slPg p - Pg.SLINK = p := Nat.add_sub_cancel_left ..
  simpa [kind, fxFirst, enableFx, base, index, off, linkEnable] using ends

/-- Settles O33: each event is due, and ENABLE trains. -/
theorem linkPortRowsEnd : Obligations.LinkPortRowsEnd := by
  rintro q v s e n p lat edge rfl port
  refine ⟨?enable, ?trained, fun training late => ends_eventIf rfl (by simp [training, late]) rfl,
    fun here trained => ends_eventIf rfl (by simp [slHere, port, here, trained]) rfl, ?idSend⟩
  case enable =>
    rintro w a rfl rfl lands reset off
    exact ends_slinkEnable port edge lands reset off
  case trained =>
    rintro training t x rfl rfl
    exact ends_eventIf rfl training rfl
  case idSend =>
    rintro due t rfl
    exact ends_eventIf rfl due rfl

/-! ## Flits -/

section
variable {s : State} {p root : Nat} {l : List Byte}

/-- A good flit of a type below 9. -/
theorem flitRecv_good (trained : (linkPort s p).trained = true) (good : flitGood l = true) (listed : flitType l < 9) :
    flitRecv p l root s = (if flitType l == 1 then idRecv p l (flitReturns p l s)
      else if flitSequenced (flitType l) then seqRecv p l (flitReturns p l s)
      else if flitType l == 5 then barrierArrive p l root (flitReturns p l s)
      else if flitType l == 6 then { flitReturns p l s with
        link := { (flitReturns p l s).link with echoes := (flitReturns p l s).link.echoes ++ [(p, l)] } }
      else if flitType l == 7 then echoRecv p l root (flitReturns p l s)
      else if flitType l == 8 then nakRecv p l (flitReturns p l s) else flitReturns p l s) := by
  have known : ¬ 9 ≤ flitType l := by omega
  simp only [flitRecv, trained, good, known, Bool.not_true, Bool.false_eq_true, if_false]

/-- A flit at a port with no rule in the way is received. -/
theorem ends_flit {i : Instr} {ok : Nat → Bool} {u : State} (runs : Sys2Proof.Machine.exec i s = .next (flitEvent ok p l root s))
    (port : p < 2) (here : present (newEdge s).member (slPg p) = true) (trained : (linkPort (newEdge s) p).trained = true)
    (idle : wvIdle (newEdge s) = true) (good : flitGood l = true) (type : ok (flitType l) = true)
    (effect : flitRecv p l root (newEdge s) = u) : Ends i s u :=
  ends_eventIf runs (by simp [flitIs, here, port, trained, good, type]) (by simp only [flitArrive, wvPass_idle idle, effect])

end

/-- Settles O34: each flit is taken by its type. -/
theorem receivedFlitsEnd : Obligations.ReceivedFlitsEnd := by
  rintro s n r p root l rfl rfl port here trained idle
  refine ⟨fun good => ⟨?idle, ?id, ?write, ?event, ?fault, ?barrier, ?cal, ?echo, ?nak, ?reserved⟩, ?crc⟩
  case reserved =>
    intro type
    exact ends_flit rfl port here trained idle good (by simpa using type) (by simp [flitRecv, trained, good, type, slErr])
  case crc =>
    intro bad
    refine ends_eventIf rfl (by simp [slHere, port, here, trained, bad]) ?_
    simp [flitArrive, wvPass_idle idle, flitRecv, trained, bad, slErr]
  all_goals
    intro type
    refine ends_flit rfl port here trained idle good (by simp [type]) ((flitRecv_good trained good (by omega)).trans ?_)
    simp [type, flitSequenced]

/-! ## Requests -/

/-- A write of LOCK_CTRL that lands. -/
theorem ends_lockCtrl {i : Instr} {q : Req} {w : W32} {s e : State}
    (runs : Sys2Proof.Machine.exec i s = .next (regCmd q Rg.SLINK_LOCK_CTRL w s)) (edge : e = edgeOf q.same s)
    (lands : Lands q Rg.SLINK_LOCK_CTRL w e) :
    Ends i s (recorded q Rg.SLINK_LOCK_CTRL w (logged q Rg.SLINK_LOCK_CTRL w e (lockFx w e))) :=
  (Named.fixed (a := Rg.SLINK_LOCK_CTRL) (p := Pg.SLINK) (o := 0xA0) rfl (by decide) rfl rfl).latePort runs edge lands (by decide)
    (by simp [pageFx, slinkFx])

/-- Settles O35: each event finds what it serves, and each write that lands has its register's effect. -/
theorem linkRequestsEnd : Obligations.LinkRequestsEnd := by
  rintro q v s e n p l edge rfl
  refine ⟨?echo, ?forward, ?data, ?send, ?cal, ?calDone, ?take, fun k stopped => ends_event rfl (by simp [lockRelease, stopped]), ?release⟩
  case echo =>
    rintro r t waits rfl
    exact ends_event rfl (by simp [calEcho, waits])
  case forward =>
    rintro r t waits rfl
    exact ends_event rfl (by simp [forwardFirst, waits])
  case data =>
    intro lands
    exact (Named.fixed (a := Rg.SLINK_RW_DATA) (p := Pg.SLINK) (o := 0x8C) rfl (by decide) rfl rfl).dataPort rfl edge lands (by decide)
      (by simp [pageFx, slinkFx])
  case send =>
    intro lands
    exact (Named.fixed (a := Rg.SLINK_EV_SEND) (p := Pg.SLINK) (o := 0x94) rfl (by decide) rfl rfl).dataPort rfl edge lands (by decide)
      (by simp [pageFx, slinkFx])
  case cal =>
    rintro w a rfl rfl take release lands
    have ends := ends_lockCtrl (i := .lockCal q v) rfl edge lands
    simpa [lockFx, take, release] using ends
  case calDone =>
    rintro on r x ok t rtts lat good after
    refine ends_event rfl ?_
    rw [calDone, if_neg (by rw [on]; decide), ← rtts, good, after, lat]
  case take =>
    rintro w a rfl rfl cal release lands
    have ends := ends_lockCtrl (i := .lockTake q v) rfl edge lands
    simpa [lockFx, cal, release] using ends
  case release =>
    rintro w a rfl rfl cal take lands
    have ends := ends_lockCtrl (i := .lockRelease q v) rfl edge lands
    simpa [lockFx, cal, take] using ends

/-! ## The Hymnal -/

theorem pageDesc_hymnal : ∃ x, pageDesc Pg.HYMNAL = some x ∧ x.kind = .hymnal := ⟨_, rfl, rfl⟩

/-- ENABLE of a Hymnal that was off. -/
theorem ends_hymnalEnable {q : Req} {v : W32} {s e : State} (edge : e = edgeOf q.same s)
    (lands : Lands q (hdr Pg.HYMNAL Hdr.BLK_CTRL) (v ||| 1) e) (reset : fbit v 1 = false)
    (off : enabled (logged q (hdr Pg.HYMNAL Hdr.BLK_CTRL) (v ||| 1) e e) Pg.HYMNAL = false) :
    Ends (.hymnalEnable q v) s (recorded q (hdr Pg.HYMNAL Hdr.BLK_CTRL) (v ||| 1)
      (wrB Rg.HYMNAL_STAT 3 false (wrB Rg.HYMNAL_STAT 1 true (wrB (hdr Pg.HYMNAL Hdr.BLK_CTRL) 0 true
        (logged q (hdr Pg.HYMNAL Hdr.BLK_CTRL) (v ||| 1) e e))))) := by
  obtain ⟨x, page, kind⟩ := pageDesc_hymnal
  have ends := ends_blkCtrl (i := .hymnalEnable q v) rfl edge lands (by decide) page (by simp [kind]) (by simp [kind])
    fun t => ctrlFx_enable t (by simp) (by simp [reset])
  simpa only [kind, fxFirst, enableFx, off, hymnEnable, Bool.not_false, Bool.and_true, if_true, Bool.false_eq_true, if_false] using ends

/-- Settles O36: each write that lands has its register's effect, and each replay its entry. -/
theorem hymnalRowsEnd : Obligations.HymnalRowsEnd := by
  rintro q v s e n edge rfl
  refine ⟨?enable, ?read, ?write, ?issue, ?timeout⟩
  case enable =>
    rintro w a l rfl rfl rfl lands reset off
    exact ends_hymnalEnable edge lands reset off
  case read =>
    intro lands
    exact (Named.fixed (a := Rg.HYMNAL_RD_SEQ) (p := Pg.HYMNAL) (o := 0x48) rfl (by decide) rfl rfl).dataStore rfl edge lands (by decide)
      (by simp [pageFx, storeWord, wrF])
  case write =>
    intro lands
    exact (Named.fixed (a := Rg.HYMNAL_WR_SEQ) (p := Pg.HYMNAL) (o := 0x44) rfl (by decide) rfl rfl).dataStore rfl edge lands (by decide)
      (by simp [pageFx, storeWord, wrF])
  case issue =>
    rintro a t x y replays rfl rfl due read intime
    refine ends_event rfl ?_
    simp [replayIssue, replays, Int.not_lt.mpr due, read, replayOne, Int.not_lt.mpr intime]
  case timeout =>
    rintro f t replays fetched ⟨k, line, waits, late⟩ rfl
    refine ends_event rfl ?_
    have overdue : (newEdge s).adm.fetches.any (fun f => match f.res with
        | .waiting _ l => decide (l + 75 ≤ linLine (newEdge s))
        | _ => false) = true :=
      List.any_eq_true.mpr ⟨f, fetched, by simp [waits, late]⟩
    simp only [replayTimeout, replays, Bool.true_and]
    exact if_pos overdue

end Sys2Proof.Machine
end

