-- ==== Sys2Proof/Proofs/Debug.lean ====
section
/-! Weevil, run control, System Bus Access, the TAP, the hold and the trace (R499 to R519). -/
namespace Sys2Proof.Machine

/-! ## Weevil -/

/-- A write of ARM that lands. -/
theorem ends_weevilArm {i : Instr} {q : Req} {v : W32} {s e : State}
    (runs : Sys2Proof.Machine.exec i s = .next (regCmd q Rg.WEEVIL_ARM v s)) (edge : e = edgeOf q.same s) (lands : Lands q Rg.WEEVIL_ARM v e) :
    Ends i s (recorded q Rg.WEEVIL_ARM v (armFx v (logged q Rg.WEEVIL_ARM v e e))) :=
  (Named.fixed (a := Rg.WEEVIL_ARM) (p := Pg.WEEVIL) (o := 0x44) rfl (by decide) rfl rfl).configPort runs edge lands (by decide)
    (by simp [pageFx, weevilFx])

theorem armFx_key1 (s : State) : armFx 0x5745 s = wrB Rg.WEEVIL_STAT 3 true { wrB Rg.WEEVIL_STAT 3 false s with
    weevil := { (wrB Rg.WEEVIL_STAT 3 false s).weevil with keyEnd := linSub (wrB Rg.WEEVIL_STAT 3 false s) + lines75 } } := rfl

theorem armFx_key2 {v : W32} {s : State} (code : fld v 15 0 = 0x564C) (keyed : wvKeyed s = true) :
    armFx v s = wvArm (wrB Rg.WEEVIL_STAT 3 false s) := by
  simp [armFx, code, keyed]

theorem armFx_other {v : W32} {s : State} (other : fld v 15 0 ≠ 0x5745) (disarms : fld v 15 0 = 0 ∨ wvKeyed s = false) :
    armFx v s = wrB Rg.WEEVIL_STAT 0 false (wrB Rg.WEEVIL_STAT 3 false s) := by
  rcases disarms with zero | unkeyed
  · simp [armFx, zero]
  · simp [armFx, other, unkeyed]

/-- Settles O37: ARM answers its keys, FIRE its rules, and each event is due. -/
theorem weevilRowsEnd : Obligations.WeevilRowsEnd := by
  rintro q v s e n pt edge rfl
  refine ⟨?key1, ?key2, ?disarm, fun key late => ends_eventIf rfl (by simp [key, late]) rfl, ?fire,
    fun h due => ends_event rfl (by simp only [unitRelease, due])⟩
  case key1 =>
    rintro l t rfl rfl lands
    have ends := ends_weevilArm (i := .weevilArmKey1 q) rfl edge lands
    rwa [armFx_key1] at ends
  case key2 =>
    rintro l t rfl rfl lands keyed
    have ends := ends_weevilArm (i := .weevilArmKey2 q) rfl edge lands
    rwa [armFx_key2 (by decide) keyed] at ends
  case disarm =>
    rintro l t rfl rfl lands other disarms
    have ends := ends_weevilArm (i := .weevilDisarm q v) rfl edge lands
    rwa [armFx_other other disarms] at ends
  case fire =>
    intro lands
    exact (Named.fixed (a := Rg.WEEVIL_FIRE) (p := Pg.WEEVIL) (o := 0x48) rfl (by decide) rfl rfl).dataPort rfl edge lands (by decide)
      (by simp [pageFx, weevilFx])

/-! ## Run control and System Bus Access -/

theorem length_toLE (n v : Nat) : (toLE n v).length = n := by
  induction n generalizing v with
  | zero => rfl
  | succ n ih => simp [toLE, ih]

/-- An aligned access, where debug is allowed. -/
theorem sbaRun_aligned {s : State} {a size : Nat} {write : Option W32} {err : Bool} (allowed : debugAllow s = true)
    (listed : size = 1 ∨ size = 2 ∨ size = 4) (aligned : a % size = 0) :
    sbaRun a size write err s = if 0x40000000 ≤ a ∧ a < 0x50000000 then sbaReg (a - 0x40000000) size write s
      else sbaGuard a size write err s := by
  have known : (size == 1 || size == 2 || size == 4) = true := by simpa [or_assoc] using listed
  simp [sbaRun, allowed, known, aligned]

/-- Settles O38: each command finds its pair in the state for it, and each access its target. -/
theorem debugRowsEnd : Obligations.DebugRowsEnd := by
  refine ⟨?control, ?bus⟩
  case control =>
    rintro q v s e n h pc k b edge rfl
    refine ⟨?allow, fun pair allowed => ⟨?halt, ?resume, ?step, fun halted listed => ⟨ends_event rfl ?regWrite, ?regRead⟩⟩⟩
    case allow =>
      rintro a l rfl rfl lands
      exact (Named.fixed (a := Rg.DEBUG_CTRL) (p := Pg.DEBUG) (o := 0x44) rfl (by decide) rfl rfl).configStore rfl edge lands (by decide)
        (by simp [pageFx, debugFx])
    case halt =>
      rintro x t running halted asked rfl rfl
      have halts : (decide (h < 4) && debugAllow (newEdge s) && hartRunning (newEdge s) h && !pairHalted (newEdge s) h
          && (b || haltReq (newEdge s) h)) = true := by
        simpa [pair, allowed, running, halted] using asked
      exact ends_event rfl (by simp only [pairHalt, halts, Bool.not_true, Bool.false_eq_true, if_false])
    case resume =>
      rintro x asked halted rfl
      exact ends_eventIf rfl (by simp [pair, allowed, asked]) (by simp [pairResume, halted])
    case step =>
      rintro y t x halted taken rfl
      exact ends_event rfl (by simp [pairStep, pair, allowed, halted, taken])
    case regWrite => simp [accessRegister, pair, allowed, halted, Nat.not_le.mpr listed]
    case regRead =>
      intro y t read
      exact ends_event rfl (by simp [accessRegister, pair, allowed, halted, Nat.not_le.mpr listed, read])
  case bus =>
    rintro s n a size v bad rfl allowed
    refine ⟨fun listed aligned => ⟨?space, ?guardWrite, ?guardRead⟩, fun unlisted => ends_event rfl ?size, fun listed askew => ends_event rfl ?askew⟩
    case space =>
      rintro o rfl inside
      have here : 0x40000000 ≤ 0x40000000 + o ∧ 0x40000000 + o < 0x50000000 := by omega
      have offset : 0x40000000 + o - 0x40000000 = o := by omega
      refine ⟨ends_event rfl ?_, fun w t read => ends_event rfl ?_⟩
      · rw [sbaRun_aligned allowed listed aligned, if_pos here, offset]; rfl
      · rw [sbaRun_aligned allowed listed aligned, if_pos here, offset, sbaReg, read]
    case guardWrite =>
      intro low high
      refine ends_event rfl ?_
      rw [sbaRun_aligned allowed listed aligned, if_neg (by omega)]
      simp [sbaGuard, guardWrite, length_toLE, low, high]
    case guardRead =>
      intro low high
      refine ends_event rfl ?_
      rw [sbaRun_aligned allowed listed aligned, if_neg (by omega)]
      simp [sbaGuard, guardRead, low, high]
    case size =>
      have unknown : (size == 1 || size == 2 || size == 4) = false := by simpa [not_or, and_assoc] using unlisted
      simp [sbaRun, allowed, unknown]
    case askew =>
      have known : (size == 1 || size == 2 || size == 4) = true := by simpa [or_assoc] using listed
      simp [sbaRun, allowed, known, askew]

/-! ## The TAP, the hold and the trace -/

/-- An instruction that is available is the one selected. -/
theorem tapSelect_avail {s : State} {ir : Nat} (avail : tapAvail s ir = true) :
    tapSelect ir s = { s with dbg := { s.dbg with ir := ir } } := by
  simp [tapSelect, avail]

theorem tapDmi_avail {s t : State} {op a data : Nat} (avail : tapAvail s 0x11 = true)
    (after : t = { s with dbg := { s.dbg with ir := 0x11 } }) :
    tapDmi op a data s = if op = 1 then emit (.tdo 0x11 (dmRead (a % 128) t).1.toNat) (dmRead (a % 128) t).2
      else if op = 2 then emit (.tdo 0x11 data) (dmWrite (a % 128) (w32 data) t) else emit (.tdo 0x11 0) t := by
  have selected : tapSelect 0x11 s = t := (tapSelect_avail avail).trans after.symm
  have dmi : t.dbg.ir = 0x11 := by rw [after]
  simp [tapDmi, selected, dmi]

/-- A write of HOLD_CTRL that lands. -/
theorem ends_holdCtrl {i : Instr} {q : Req} {w : W32} {s e : State}
    (runs : Sys2Proof.Machine.exec i s = .next (regCmd q Rg.DEBUG_HOLD_CTRL w s)) (edge : e = edgeOf q.same s)
    (lands : Lands q Rg.DEBUG_HOLD_CTRL w e) :
    Ends i s (recorded q Rg.DEBUG_HOLD_CTRL w
      (holdCtrl w (wrF Rg.DEBUG_HOLD_CTRL 2 2 (fld w 2 2) (logged q Rg.DEBUG_HOLD_CTRL w e e)))) :=
  (Named.fixed (a := Rg.DEBUG_HOLD_CTRL) (p := Pg.DEBUG) (o := 0x48) rfl (by decide) rfl rfl).configStore runs edge lands (by decide)
    (by simp [pageFx, debugFx, storeWord, wrF])

/-- Settles O39: each instruction of the TAP is selected or not, and each write that lands has its register's effect. -/
theorem tapHoldAndTraceEnd : Obligations.TapHoldAndTraceEnd := by
  refine ⟨?tap, ?hold⟩
  case tap =>
    rintro s n t ir x op a data rfl powered
    refine ⟨ends_eventIf rfl powered rfl, ends_eventIf rfl powered rfl, ends_eventIf rfl powered rfl, ends_eventIf rfl powered rfl,
      fun lacks => ends_eventIf rfl powered ?bypass, ?extest, ?sample, ?dtmcs, fun avail after => ⟨?dmRead, ?dmWrite, ?dmNone⟩⟩
    case bypass => simp [tapBypass, tapSelect, lacks]
    case extest =>
      rintro avail rfl
      exact ends_eventIf rfl powered (by simp [tapBoundary, tapSelect_avail avail])
    case sample =>
      rintro avail rfl
      exact ends_eventIf rfl powered (by simp [tapBoundary, tapSelect_avail avail])
    case dtmcs =>
      rintro f y z avail rfl free rfl
      exact ends_eventIf rfl powered (by simp [tapDtmcs, tapSelect_avail avail, free])
    case dmRead =>
      rintro w y rfl read
      exact ends_eventIf rfl powered (by simp [tapDmi_avail avail after, read])
    case dmWrite =>
      rintro rfl
      exact ends_eventIf rfl powered (by simp [tapDmi_avail avail after])
    case dmNone =>
      intro read write
      exact ends_eventIf rfl powered (by simp [tapDmi_avail avail after, read, write])
  case hold =>
    rintro q v s e n o x edge rfl
    refine ⟨?request, ?release, ?mark, ?data⟩
    case request =>
      rintro a w l rfl rfl keep rfl lands
      have ends := ends_holdCtrl (i := .holdReq q v) rfl edge lands
      simpa [holdCtrl, keep] using ends
    case release =>
      rintro a w l rfl rfl keep rfl lands
      have ends := ends_holdCtrl (i := .holdRelease q v) rfl edge lands
      simpa [holdCtrl, keep] using ends
    case mark =>
      intro lands
      exact (Named.fixed (a := Rg.DEBUG_TRACE_MARK) (p := Pg.DEBUG) (o := 0x8C) rfl (by decide) rfl rfl).dataPort rfl edge lands (by decide)
        (by simp [pageFx, debugFx])
    case data =>
      rintro reads rfl
      exact ends_readBody (a := Rg.DEBUG_TRACE_DATA) (p := Pg.DEBUG) (o := 0x94) rfl (by decide) (by decide) (by decide) (by decide) rfl
        reads rfl (present_of_all (by decide) _) rfl

end Sys2Proof.Machine
end

