-- ==== Sys2Proof/Proofs/Boot.lean ====
section
/-! Power, reset, clocks, supplies, boot stages, OTP and the tuning record (R26 to R29, R97 to R120, R538 to R548). -/
namespace Sys2Proof.Machine

/-! ## Power and reset -/

/-- A write of GUARD.RESET that lands. -/
theorem ends_guardReset {i : Instr} {q : Req} {w : W32} {s e : State}
    (runs : Sys2Proof.Machine.exec i s = .next (regCmd q Rg.GUARD_RESET w s)) (edge : e = edgeOf q.same s)
    (lands : Lands q Rg.GUARD_RESET w e) :
    Ends i s (recorded q Rg.GUARD_RESET w (guardReset w (logged q Rg.GUARD_RESET w e e))) :=
  (Named.fixed (a := Rg.GUARD_RESET) (p := Pg.GUARD) (o := 0x40) rfl (by decide) rfl rfl).configPort runs edge lands (by decide)
    (by simp [pageFx])

/-- Settles O1: each pulse is short, long or between, and each bit of GUARD.RESET has its reset. -/
theorem resetCommandsEnd : Obligations.ResetCommandsEnd := by
  refine ⟨?pins, ?register⟩
  case pins =>
    rintro s e n b rfl
    refine ⟨fun off => ends_eventIf rfl (by simp [off]) rfl, fun on => ends_eventIf rfl on rfl, ?_, ?_, ?_, ?_, ?_, ?_, ?_, ?_⟩
    · intro off
      simp [exec, execPorstNRise, off]
    · intro on low
      refine ends_eventIf (c := fun s => !s.boot.porstN) (f := beginS1 b) ?_ (by simp [low]) rfl
      simp [exec, execPorstNRise, on]
    · intro runs short
      exact ends_eventIf rfl runs (by simp [porstPulse, short])
    · intro runs long
      have counted : ¬ n < 32 := by omega
      exact ends_eventIf rfl runs (by simp [porstPulse, counted, Nat.not_lt.mpr long])
    · intro runs low high
      exact ends_eventIf rfl runs (by simp [porstPulse, Nat.not_lt.mpr low, high, freeBit])
    · intro runs short
      exact ends_eventIf rfl runs (by simp [warmPulse, short])
    · intro runs long
      have counted : ¬ n < 4 := by omega
      exact ends_eventIf rfl runs (by simp [warmPulse, counted, Nat.not_lt.mpr long])
    · intro runs low high
      exact ends_eventIf rfl runs (by simp [warmPulse, Nat.not_lt.mpr low, high, freeBit])
  case register =>
    intro q v s e edge
    refine ⟨fun lands => ?cold, fun lands cold => ?warm, fun lands cold warm => ?stave⟩
    case cold =>
      have ends := ends_guardReset (i := .guardResetCold q v) rfl edge lands
      simpa [guardReset] using ends
    case warm =>
      have ends := ends_guardReset (i := .guardResetWarm q v) rfl edge lands
      simpa [guardReset, cold] using ends
    case stave =>
      have ends := ends_guardReset (i := .guardResetStave q v) rfl edge lands
      simpa [guardReset, cold, warm, staveResetRequest] using ends

/-! ## Clocks and supplies -/

/-- Settles O2: each event finds its clock or its supply in the state for it. -/
theorem clocksAndSuppliesEnd : Obligations.ClocksAndSuppliesEnd := by
  refine ⟨?clocks, ?supplies⟩
  case clocks =>
    rintro s e pll ppm rfl
    refine ⟨fun stage strap out => ends_eventIf rfl (by simp [stage, strap, out]) rfl, fun awaited => ends_eventIf rfl awaited rfl,
      fun awaited => ends_eventIf rfl awaited rfl, fun runs locked still => ends_eventIf rfl (by simp [releaseMay, runs, locked, still]) rfl,
      fun running released beat => ends_eventIf rfl (by simp [running, released, beat]) rfl, fun locked => ends_eventIf rfl locked rfl,
      fun low high locked => ends_eventIf rfl (by simp [low, high, locked]) rfl, fun runs => ends_eventIf rfl runs rfl⟩
  case supplies =>
    rintro s n h x rfl rfl
    refine ⟨?request, fun v asked => ends_eventIf rfl (by simp [asked]) (by simp [avsAck, asked]),
      fun v due asked => ends_eventIf rfl due (by simp [avsRetry, asked])⟩
    rintro t v due target rfl
    exact ends_eventIf rfl due (by simp [avsRequest, target])

/-! ## Boot stages -/

/-- A write of a download register, where they accept writes. -/
theorem ends_download {i : Instr} {off : Nat} {v : W32} {s u : State}
    (runs : Sys2Proof.Machine.exec i s = .next (event (cfgArrive (.write 0 off v)) s)) (reached : HostReaches (newEdge s))
    (effect : cfgWrite 0 off v (newEdge s) = u) : Ends i s u :=
  ends_cfg runs reached effect

/-- Settles O3: each event is of its stage, and each download register takes its write. -/
theorem bootStagesEnd : Obligations.BootStagesEnd := by
  refine ⟨?stages, ?download⟩
  case stages =>
    rintro s e img mr4 code info speed width bad rfl
    refine ⟨fun reads good => ends_eventIf rfl reads (by simp [slotCheck, good]),
      fun reads refused => ends_eventIf rfl reads (by simp [slotCheck, refused]), fun reads => ends_eventIf rfl reads rfl,
      fun listed => ends_eventIf rfl listed rfl, fun stage => ends_eventIf rfl stage rfl, fun stage => ends_eventIf rfl stage rfl,
      fun stage => ends_eventIf rfl stage rfl, fun stage image fresh => ends_eventIf rfl (by simp [stage, image, fresh]) rfl,
      fun stage state good => ends_eventIf rfl (by simp [stage, state]) (by simp [dlVerified, good, putDl]),
      fun stage state refused => ends_eventIf rfl (by simp [stage, state]) (by simp [dlVerified, refused, putDl])⟩
  case download =>
    rintro s e w rfl reached accepts
    refine ⟨ends_download rfl reached ?_, ends_download rfl reached ?_, ends_download rfl reached ?_⟩
    · simp [cfgWrite, accepts, dlGo, putDl]
    · simp [cfgWrite, accepts, dlRestart, putDl]
    · simp [cfgWrite, accepts, dlData, putDl]

/-! ## OTP and the tuning record -/

/-- Settles O4: each write that lands has its register's effect, and each event finds what it ends. -/
theorem otpAndTuneEnd : Obligations.OtpAndTuneEnd := by
  rintro q v s e edge
  refine ⟨?program, fun w x under => ends_event rfl (by simp only [otpDone, under]), ?buffer, ?unlock,
    fun expired => ends_eventIf rfl expired rfl, ?commit, fun ok under => ends_eventIf rfl under rfl, ?record⟩
  case program =>
    intro lands
    exact (Named.fixed (a := Rg.GUARD_OTP_PROG) (p := Pg.GUARD) (o := 0x54) rfl (by decide) rfl rfl).configPort rfl edge lands (by decide)
      (by simp [pageFx])
  case buffer =>
    intro lands
    exact (Named.fixed (a := Rg.TUNE_BUF_DATA) (p := Pg.TUNE) (o := 0x5C) rfl (by decide) rfl rfl).dataPort rfl edge lands (by decide)
      (by simp [pageFx, tuneFx, bufWrite])
  case unlock =>
    intro lands
    exact (Named.fixed (a := Rg.TUNE_UNLOCK) (p := Pg.TUNE) (o := 0x48) rfl (by decide) rfl rfl).configPort rfl edge lands (by decide)
      (by simp [pageFx, tuneFx])
  case commit =>
    intro lands
    exact (Named.fixed (a := Rg.TUNE_COMMIT) (p := Pg.TUNE) (o := 0x4C) rfl (by decide) rfl rfl).configPort rfl edge lands (by decide)
      (by simp [pageFx, tuneFx])
  case record =>
    intro o reads
    exact ends_readBody (a := Rg.TUNE_REC_DATA) (p := Pg.TUNE) (o := 0x54) rfl (by decide) (by decide) (by decide) (by decide) rfl
      reads rfl (present_of_all (by decide) _) rfl

end Sys2Proof.Machine
end

