-- ==== Sys2Proof/Proofs/Pages.lean ====
section
/-! The headers of the pages, the header locks and the registers of the change roll. -/
namespace Sys2Proof.Machine

variable {i : Instr} {s e u : State} {q : Req} {v : W32}

/-! ## Writes by another way than the register space -/

theorem ends_cfgWrite {f off : Nat} (edge : e = edgeOf q.same s) (reaches : HostReaches e) (sent : cmdOrigin q.origin = true) :
    Ends (.registerWrite q (.cfg f off) v) s (cfgWrite f off v e) := by
  have done : writeCmd q (.cfg f off) v s = finish (cfgWrite f off v e) := by
    rw [writeCmd, if_pos sent, ← edge, anyWrite, cfgArrive_reaches _ reaches, cfgDo]
  exact congrArg Host.Outcome.next done

theorem ends_msixWrite {f off : Nat} (edge : e = edgeOf q.same s) (reaches : HostReaches e) (sent : cmdOrigin q.origin = true) :
    Ends (.registerWrite q (.msix f off) v) s (msixWrite f off v e) := by
  have done : writeCmd q (.msix f off) v s = finish (msixWrite f off v e) := by
    rw [writeCmd, if_pos sent, ← edge, anyWrite, cfgArrive_reaches _ reaches, cfgDo]
  exact congrArg Host.Outcome.next done

/-! ## The header -/

/-- A write of the header breaks what is under way on TUNE and WEEVIL (R120, R499), and then has its own effect. -/
theorem writeFx_hdr {x : PageDesc} {p o : Nat} {r : RegDesc} (s : State) :
    writeFx q x p o true r v s = headerFx x p o r v (keyBreak x true (tuneBreak x true 0x40 false s)) := by
  simp [writeFx, tuneBreak]

/-- A write of a header register that lands: its roll entry and its effect, in the page's order. -/
theorem ends_hdr {p o : Nat} {x : PageDesc} {r : RegDesc} {g : State → State}
    (runs : Sys2Proof.Machine.exec i s = .next (regCmd q (hdr p o) v s)) (edge : e = edgeOf q.same s)
    (lands : Lands q (hdr p o) v e) (below : p < 0x200) (here : o < 0x40 ∧ o % 4 = 0) (page : pageDesc p = some x)
    (reg : regNamed x p o true = some r) (config : isConfig 1 x o true r = true)
    (effect : ∀ t, headerFx x p o r v (keyBreak x true (tuneBreak x true 0x40 false t)) = g t) :
    Ends i s (recorded q (hdr p o) v
      (if fxFirst x.kind then logged q (hdr p o) v e (g e) else g (logged q (hdr p o) v e e))) :=
  ends_header runs edge lands below here.1 here.2 page reg ((isConfig_origin lands.origin_ne _).trans config)
    fun t => (writeFx_hdr t).trans (effect t)

/-- The write mask takes its seven bits one by one. -/
theorem storeWord_wmask (w : W32) :
    storeWord [⟨0, 0, .rw, 1⟩, ⟨1, 1, .rw, 1⟩, ⟨2, 2, .rw, 0⟩, ⟨3, 3, .rw, 0⟩, ⟨4, 4, .rw, 0⟩, ⟨5, 5, .rw, 0⟩, ⟨6, 6, .rw, 0⟩] w v
      = (List.range 7).foldl (fun w i => setFld w i i (fld v i i)) w := by
  simp [storeWord, List.range_succ]

/-- Settles O6: an accepted write of a listed register is the write of R63, and one of the header has the header's effect. -/
theorem pageRowsEnd : Obligations.PageRowsEnd := by
  unfold Obligations.PageRowsEnd
  refine ⟨fun q v s e off p o f isHdr x r edge => ⟨fun lands here page reg => ends_write rfl edge lands here page reg rfl,
    ends_cfgWrite edge, ends_msixWrite edge⟩, fun q v s e p x k edge below page broken => ⟨?owner, ?wmask, ?set, ?discard, ?reset,
    fun due => ends_eventIf rfl due rfl, ends_event rfl rfl⟩⟩ <;> subst broken
  case owner =>
    rintro a u rfl effect lands
    exact ends_hdr (g := u) (o := Hdr.PAGE_OWNER) rfl edge lands below (by decide) page rfl rfl
      fun t => by simp [effect, headerFx, storeWord, hdr]
  case wmask =>
    rintro a u rfl effect lands
    exact ends_hdr (g := u) (o := Hdr.PAGE_WMASK) rfl edge lands below (by decide) page rfl rfl
      fun t => by simp [effect, headerFx, storeWord_wmask]
  case set =>
    rintro a u rfl effect lands
    exact ends_hdr (g := u) (o := Hdr.EVT_SET) rfl edge lands below (by decide) page rfl rfl
      fun t => by simp [effect, headerFx]
  case discard =>
    rintro a u rfl effect staged lands
    have reg : regNamed x p Hdr.PAGE_STAGE true = some ⟨0x30, 1, 4, false, none, [⟨0, 0, .ro, 0⟩, ⟨1, 1, .w1s, 0⟩, ⟨2, 2, .ro, 0⟩]⟩ := by
      simp [regNamed, staged]; decide
    exact ends_hdr (g := u) (o := Hdr.PAGE_STAGE) rfl edge lands below (by decide) page reg rfl fun t => by simp [effect, headerFx]
  case reset =>
    rintro a u rfl effect lands
    exact ends_hdr (g := u) (o := Hdr.BLK_CTRL) rfl edge lands below (by decide) page rfl rfl
      fun t => by simp [effect, headerFx, ctrlFx]

/-! ## The header locks and the roll -/

/-- AUTH.LOCK only ever gains bits (R84). -/
theorem ends_lock (runs : Sys2Proof.Machine.exec i s = .next (regCmd q Rg.AUTH_LOCK v s)) (edge : e = edgeOf q.same s)
    (lands : Lands q Rg.AUTH_LOCK v e) (entered : u = logged q Rg.AUTH_LOCK v e e) :
    Ends i s (recorded q Rg.AUTH_LOCK v (wr Rg.AUTH_LOCK (rd u Rg.AUTH_LOCK ||| (v &&& 3)) u)) :=
  (Named.fixed (a := Rg.AUTH_LOCK) (p := Pg.AUTH) (o := 0x40) rfl (by decide) rfl rfl).configPort runs edge lands (by decide)
    (by simp [pageFx, entered])

/-- A new TAIL_SEQ updates FILL, and ends the hold of R93 below the low-water mark. -/
theorem rollFx_tail (o : Nat) (s : State) : rollFx o 0x4C v s = if rdN (rollFillSync s) Rg.ROLL_FILL < 16128
    then { rollFillSync s with roll := { (rollFillSync s).roll with holding := false } } else rollFillSync s := by
  by_cases low : rdN (rollFillSync s) Rg.ROLL_FILL < 16128 <;> simp [rollFx, low]

theorem readPage_roll {o : Nat} {x : PageDesc} (page : pageDesc Pg.ROLL = some x) (roll : x.kind = .roll) (s : State) :
    readPage o Pg.ROLL 0x80 s = rollSnap o s := by
  simp [readPage, page, roll]

/-- Settles O7: a register of AUTH and of the roll by its page's effect, and a word of an entry by the origin's snapshot. -/
theorem rollAndLockRowsEnd : Obligations.RollAndLockRowsEnd := by
  unfold Obligations.RollAndLockRowsEnd
  refine fun q v s e l o same edge => ⟨fun entered lands => ends_lock rfl edge lands entered,
    fun entered lands => ends_lock rfl edge lands entered, fun lands => ?mode, ?tail, fun lands => ?seq, fun reads => ?first,
    fun reads => ?last⟩
  case mode =>
    exact (Named.fixed (a := Rg.ROLL_CTRL) (p := Pg.ROLL) (o := 0x40) rfl (by decide) rfl rfl).lateStore rfl edge lands (by decide)
      (by simp [pageFx, rollFx, storeWord, wrF])
  case tail =>
    intro t synced lands
    have stored : wrF Rg.ROLL_TAIL_SEQ 31 0 (fld v 31 0) e
        = wr Rg.ROLL_TAIL_SEQ (storeWord [⟨31, 0, .rw, 0⟩] (rd e Rg.ROLL_TAIL_SEQ) v) e := rfl
    rw [synced, stored, ← rollFx_tail (v := v) q.origin]
    exact (Named.fixed (a := Rg.ROLL_TAIL_SEQ) (p := Pg.ROLL) (o := 0x4C) rfl (by decide) rfl rfl).dataStore rfl edge lands
      (by decide) (by simp only [pageFx])
  case seq =>
    exact (Named.fixed (a := Rg.ROLL_RD_SEQ) (p := Pg.ROLL) (o := 0x60) rfl (by decide) rfl rfl).dataPort rfl edge lands (by decide)
      (by simp [pageFx, rollFx])
  case first =>
    have snap : readPage o Pg.ROLL 0x80 (edgeOf same s) = rollSnap o (edgeOf same s) := readPage_roll rfl rfl _
    exact ends_read_on rfl (locate_body (a := Rg.ROLL_RD_DATA) (p := Pg.ROLL) (o := 0x80) rfl (by decide) (.inr (by decide))
        (by decide) (by decide)) reads (by decide) (x := ⟨.roll, 0x4, 1, true, false, false, 0xF, 0x3, 4, 0, regsRoll⟩) rfl
      (by decide) (present_of_all (by decide) _) (congrArg Prod.fst snap) (congrArg Prod.snd snap)
  case last =>
    exact ends_readBody (a := Rg.ROLL_RD_DATA + 28) rfl (by decide) (.inr (by decide)) (by decide) (by decide) rfl reads rfl
      (present_of_all (by decide) _) rfl

end Sys2Proof.Machine
end

