-- ==== Sys2Proof/Proofs/HostLink.lean ====
section
/-! The host link and its data (R122 to R140, R180 to R184), the functions behind it, and the tenants (R141 to R146). -/
namespace Sys2Proof.Machine

variable {i : Instr} {s e u : State} {q : Req} {v : W32}

/-! ## The link -/

theorem pcieUp_down {speed width : Nat} (down : dlUp e = false) : pcieUp speed width e =
    hwSet 5 Rg.HOST_LINK_STAT (linkUpStat (wrB Rg.CLOCK_STAT 2 true e) speed width)
      (setEvt Pg.HOST 0 (wrB Rg.CLOCK_STAT 2 true e)) := by
  simp [pcieUp, down]

/-- PCIE_PERST_N low before the link can be up changes its own level alone. -/
theorem perst_early (early : stage e < 5) : perst false e = { e with boot := { e.boot with perstN := false } } := by
  have before : ¬ 5 ≤ stage { e with boot := { e.boot with perstN := false } } := Nat.not_le.2 early
  simp only [perst, Bool.false_eq_true, if_false, if_neg before]

theorem perst_late (late : 5 ≤ stage e) : perst false e = linkLost 1 { e with boot := { e.boot with perstN := false } } := by
  have after : 5 ≤ stage { e with boot := { e.boot with perstN := false } } := late
  simp only [perst, Bool.false_eq_true, if_false, if_pos after]

/-- The Hymnal passes what goes down with PCIE_PERST_N. -/
theorem perstInput_passes (replay : replaying e = false) (quiet : recording e = false) (level : Bool) :
    perstInput level e = perst level e := by
  simp [perstInput, hostEvent_passes replay quiet]

/-- Settles O8: where the Hymnal passes its inputs, an event of the link is what its own rule does. -/
theorem hostLinkEventsEnd : Obligations.HostLinkEventsEnd := by
  unfold Obligations.HostLinkEventsEnd
  rintro s e speed width rfl replay quiet
  have passes := fun k fn f => hostEvent_passes replay quiet k fn f
  refine ⟨fun may => ?up, fun up => ends_eventIf rfl up (passes ..), fun up => ends_eventIf rfl up (passes ..),
    ends_event rfl (perstInput_passes replay quiet true), fun late => ?low, fun early down => ?early, fun up other => ?speed,
    fun up l0 allowed idle => ?l0s, fun up awake allowed idle st chosen => ?l1, fun up => ends_eventIf rfl up rfl,
    fun up low => ends_event rfl (by simp [linkToL0, up, low])⟩
  case up =>
    have down : dlUp (newEdge s) = false := by
      simp only [linkMay, Bool.and_eq_true, Bool.not_eq_true'] at may
      simp only [may]
    exact ends_eventIf rfl may ((passes ..).trans (pcieUp_down down))
  case low => exact ends_event rfl ((perstInput_passes replay quiet false).trans (perst_late late))
  case early => exact ends_event rfl ((perstInput_passes replay quiet false).trans (perst_early early))
  case speed => exact ends_eventIf rfl (by simpa [up] using other) rfl
  case l0s => exact ends_event rfl (by simp [aspmL0s, up, l0, allowed, idle])
  case l1 => exact ends_event rfl (by simp [aspmL1, freeBit, up, awake, allowed, idle, chosen])

/-- Settles O9: what the host does to a function it reaches is the configuration access's own effect. -/
theorem functionEventsEnd : Obligations.FunctionEventsEnd := by
  unfold Obligations.FunctionEventsEnd
  rintro s e n f v vec rfl reaches
  refine ⟨fun vf here => ends_cfg rfl reaches (by simp [cfgDo, vf, here]), fun _ => ends_cfg rfl reaches rfl,
    fun off => ends_cfg rfl reaches (by simp [cfgDo, vfEnable, off]),
    fun off few => ends_cfg rfl reaches (by simp [cfgDo, setNumVfs, off, Nat.not_lt.2 few]), ends_cfg rfl reaches rfl,
    fun awake => ends_cfg rfl reaches (by simp [cfgDo, toD3hot, awake]),
    fun asleep => ends_cfg rfl reaches (by simp [cfgDo, toD0, asleep]),
    fun on => ends_cfg rfl reaches (by simp [cfgDo, setBme, on]), fun off => ends_cfg rfl reaches (by simp [cfgDo, setBme, off]),
    fun awake masked vector => ends_cfg rfl reaches ?_⟩
  simp only [cfgDo, awake, unmaskVec, masked, Nat.not_le.2 vector, decide_false, Bool.or_self, Bool.false_eq_true, if_false]

/-! ## The data of the host -/

section
variable {e : State}

theorem HostReaches.winWrite (h : HostReaches e) (off : Nat) (l : List Byte) :
    winWrite off l e = winAccess off 0 (some l) e := by
  rw [Machine.winWrite, h.pcieRx, inputOf_passes h.replay h.quiet]

section
variable {off len pa : Nat} {l : List Byte} (address : pa = rdF e Rg.HOST_WIN_BASE 6 0 * 0x10000000 + off)
  (awake : (fnCfg e 0).d3 = false)
include address awake

theorem winAccess_write (some : l ≠ []) (inside : pa + l.length ≤ dramTop e.member) (serves : paServes e pa l.length = true) :
    winAccess off len (.some l) e = devWrite 5 pa l e := by
  have beyond : ¬ dramTop e.member < pa + l.length := by omega
  simp only [winAccess, ← address, awake, List.length_eq_zero_iff, some, beyond, serves, winDo, beq_iff_eq, Bool.false_or, if_true,
    Bool.false_eq_true, if_false, Option.isNone_some, Option.getD_some]

theorem winAccess_read (some : len ≠ 0) (inside : pa + len ≤ dramTop e.member) (serves : paServes e pa len = true) :
    winAccess off len none e = emit (.memData (devRead 5 pa len e).1 (devRead 5 pa len e).2.1) (devRead 5 pa len e).2.2 := by
  have beyond : ¬ dramTop e.member < pa + len := by omega
  simp only [winAccess, ← address, awake, some, beyond, serves, winDo, beq_iff_eq, Bool.false_or, if_true,
    if_false, Option.isNone_none, Option.getD_none]
  rfl

theorem winAccess_drop (some : l ≠ []) (beyond : dramTop e.member < pa + l.length) :
    winAccess off len (.some l) e = bump Rg.HOST_WIN_DROPS e := by
  simp only [winAccess, ← address, awake, List.length_eq_zero_iff, some, beyond, beq_iff_eq, Bool.false_or, if_true,
    Bool.false_eq_true, if_false, Option.isNone_some]

end

/-- Settles O10: each command meets its branch of the window or of the read under way. -/
theorem hostDataEnds : Obligations.HostDataEnds := by
  rintro s e n off len o l rfl
  refine ⟨fun f under => ?readFailure, fun up => ?poisoned, fun pa address reached inBar awake some inside serves => ?write,
    fun pa address reached inBar awake some inside serves => ?read, fun pa address reached inBar awake some beyond => ?drop,
    fun reads => ?npOut⟩
  case readFailure => exact ends_event rfl rfl
  case poisoned => exact ends_eventIf rfl up rfl
  case write =>
    exact ends_eventIf rfl (by simp [reached.up, inBar])
      ((reached.winWrite off l).trans (winAccess_write address awake some inside serves))
  case read =>
    exact ends_eventIf rfl (by simp [reached.up, inBar]) (by rw [winTake, reached.linkToL0, winAccess_read address awake some inside serves])
  case drop =>
    exact ends_eventIf rfl (by simp [reached.up, inBar]) ((reached.winWrite off l).trans (winAccess_drop address awake some beyond))
  case npOut => exact ends_read rfl (p := Pg.HOST) rfl reads (by decide) rfl rfl (present_of_all (by decide) _) rfl rfl

theorem devWrite_inside {cls pa : Nat} {l : List Byte} (some : l ≠ []) (inside : pa + l.length ≤ dramTop e.member) :
    devWrite cls pa l e = (homeWrite 0 cls pa l e).2 := by
  simp [devWrite, some, inside]

/-- A store of a unit, from a quiet state, brought to a command's end: memory holds the bytes stored. -/
theorem finish_homeWrite {half cls pa : Nat} {l : List Byte} (quiet : Quiet e) (reached : reaches e half pa = true) :
    (finish (homeWrite half cls pa l e).2).mem = cellsWrite e.mem pa l := by
  obtain ⟨mem, beside⟩ := homeWrite_beside e (c := cls) (l := l) reached
  have after : Quiet (homeWrite half cls pa l e).2 := quiet.congr beside.held beside.regq beside.adm beside.host
  rw [finish_calm after.made after.fires after.regq after.answer after.answered, mirrors_mem, mem]

/-- Settles O53: the write is performed at its home, which stores its bytes. -/
theorem windowWritesStoreTheirBytes : Obligations.WindowWritesStoreTheirBytes := by
  rintro s e off len pa l quiet rfl reached inBar awake some address inside serves home
  refine ⟨_, rfl, ?_⟩
  have stored : (eventIf (fun s => dlUp s && decide (off < 0x10000000)) (winTake off len (.some l)) s).mem = cellsWrite s.mem pa l := by
    rw [eventIf, event, newEdge_quiet quiet.held]
    simp only [reached.up, inBar, decide_true, Bool.and_self, if_true]
    rw [winTake, reached.winWrite, winAccess_write address awake some inside serves, devWrite_inside some inside,
      finish_homeWrite quiet.edge home, edgeBegin_mem]
  refine ⟨fun x => ?_, fun wf => ?_⟩
  · rw [byteAt, stored, kvGet_cellsWrite, byteAt]
    simp
  · rw [stored]
    exact wf_cellsWrite wf pa l

end

/-! ## The tenants' registers -/

theorem tenCfg_reg : ∀ n < 65, findReg 0 regsSriov (0x3FC + 16 * n)
    = some ⟨0x3FC, 65, 16, false, none, [⟨2, 0, .rw, 0⟩, ⟨16, 4, .rw, 0⟩, ⟨31, 31, .rw, 0⟩]⟩ := by decide

/-- A configuration change of a page that is given another value than the one written. -/
theorem ends_config_as {a p o : Nat} {isHdr : Bool} {x : PageDesc} {r : RegDesc} {w : W32}
    (runs : Sys2Proof.Machine.exec i s = .next (regCmd q a v s)) (edge : e = edgeOf q.same s) (lands : Lands q a v e)
    (dest : (spaceDest a).tgt = .page p o isHdr) (page : pageDesc p = some x) (reg : regNamed x p o isHdr = some r)
    (config : isConfig q.origin x o isHdr r = true) (early : fxFirst x.kind = false) (value : acceptVal p o isHdr v = w)
    (effect : writeFx q x p o isHdr r w (logged q a v e e) = u) : Ends i s (recorded q a v u) :=
  ends_write runs edge lands dest page reg (by rw [← effect]; simp [acceptReg, config, early, value, logged, dest, page, reg])

section
variable {n : Nat} (tenant : n < 65)
include tenant

/-- TEN_RINGS, TEN_GUAR and TEN_CEIL of a tenant: configuration that takes its fields and does nothing more. -/
theorem ends_tenant {a o : Nat} {x : PageDesc} {r : RegDesc} (runs : Sys2Proof.Machine.exec i s = .next (entryCmd n 65 q a v s))
    (edge : e = edgeOf q.same s) (lands : Lands q a v e) (offset : a = Pg.SRIOV * 0x1000 + o)
    (row : o = 0x3F0 + 16 * n ∨ o = 0x3F4 + 16 * n ∨ o = 0x3F8 + 16 * n) (page : pageDesc Pg.SRIOV = some x)
    (sriov : x.kind = .sriov) (reg : regNamed x Pg.SRIOV o false = some r) (takes : Takes x o r true true false)
    (entered : u = logged q a v e e) : Ends i s (recorded q a v (wr a (storeWord r.flds (rd u a) v) u)) := by
  have named : Named a Pg.SRIOV o x r := by
    refine .of_offset offset (by decide) (.inr (by omega)) (by omega) (by omega) page reg ?_
    simp only [Rg.SRIOV_TEN_CFG, Pg.SRIOV] at *; omega
  have plain : ∀ t, sriovFx o v t = t := fun t => by
    have column : ¬ o % 16 = 12 := by omega
    simp [sriovFx, column]
  refine named.configStore (runs.trans (congrArg Host.Outcome.next (if_pos tenant))) edge lands takes ?_
  simp only [pageFx, sriov, plain, entered]

/-- TEN_CFG of a tenant: what is given to PF0 has ENABLE set (R143). -/
theorem ends_tenCfg {a : Nat} {t : State} {w : W32} (runs : Sys2Proof.Machine.exec i s = .next (entryCmd n 65 q a v s))
    (edge : e = edgeOf q.same s) (lands : Lands q a v e) (offset : a = Rg.SRIOV_TEN_CFG + 16 * n)
    (given : w = if n = 0 then v ||| 0x80000000 else v) (entered : t = logged q a v e e)
    (taken : u = wr a (setFld (setFld (setFld (rd t a) 2 0 (fld w 2 0)) 16 4 (fld w 16 4)) 31 31 (fld w 31 31)) t) :
    Ends i s (recorded q a v (if n = 0 then wrB Rg.SRIOV_TEN_CFG 31 true u else wrB (Rg.SRIOV_TEN_STAT + 4 * n) 1 (fbit w 31) u)) := by
  have here : a = Pg.SRIOV * 0x1000 + (0x3FC + 16 * n) := by simp only [offset, Rg.SRIOV_TEN_CFG, Pg.SRIOV]; omega
  have dest := spaceDest_page here (by decide) (by omega) (by omega) rfl (.inr (by omega))
  have page : pageDesc Pg.SRIOV = some ⟨.sriov, 0x21, 1, false, false, false, 0xF, 0x49, 4, 0, regsSriov⟩ := rfl
  have value : acceptVal Pg.SRIOV (0x3FC + 16 * n) false v = w := by
    have first : (Pg.SRIOV * 0x1000 + (0x3FC + 16 * n) == Rg.SRIOV_TEN_CFG) = decide (n = 0) := by
      rw [Bool.eq_iff_iff]; simp only [beq_iff_eq, decide_eq_true_eq, Rg.SRIOV_TEN_CFG, Pg.SRIOV]; omega
    simp [acceptVal, first, given]
  refine ends_config_as (runs.trans (congrArg Host.Outcome.next (if_pos tenant))) edge lands dest page (tenCfg_reg n tenant)
    ((isConfig_origin lands.origin_ne _).trans rfl) rfl value ?_
  rw [writeFx_store (.inl (by decide)) (by decide) (.inr (.inr rfl)) rfl, ← here, ← entered]
  have stored : wr a (storeWord [⟨2, 0, .rw, 0⟩, ⟨16, 4, .rw, 0⟩, ⟨31, 31, .rw, 0⟩] (rd t a) w) t = u := by
    simp [taken, storeWord]
  have column : (0x3F0 ≤ 0x3FC + 16 * n) ∧ (0x3FC + 16 * n) % 16 = 12 ∧ ¬ 0x3FC + 16 * n < 0x304
      ∧ (0x3FC + 16 * n - 0x3F0) / 16 = n := by
    omega
  simp [pageFx, sriovFx, stored, column]

end

/-- The address of a tenant's mailbox in its BAR0 is that of its page. -/
theorem destOf_mbox {n : Nat} (s : State) :
    destOf s (.vfBar n 0x5C) = ⟨.page (0x400 + n) 0x5C false, 0x021, 0x5C, some (0x400 + n)⟩ := by
  simp [destOf, vfDest]

theorem ends_mbox {n : Nat} (tenant : n < 65) (edge : e = edgeOf q.same s) (vf : 1 ≤ n) (own : q.origin = n)
    (lands : LandsAt q (.vfBar n 0x5C) v e) : Ends (.tenantMbox q n v) s
      (inputRec q (.vfBar n 0x5C) (toLE 4 v.toNat) (raiseSrc (0x800 + 4 * (n - 1) + fld v 1 0) e)) := by
  have runs : Sys2Proof.Machine.exec (.tenantMbox q n v) s = .next (writeCmd q (.vfBar n 0x5C) v s) := by
    simp [Sys2Proof.Machine.exec, execTenantMbox, tenant, own]
  have page : pageDesc (0x400 + n) = some tenantDesc := by
    have inside : 0x400 ≤ 0x400 + n ∧ 0x400 + n ≤ 0x440 := by omega
    simp [pageDesc, inside]
  have reg : regNamed tenantDesc (0x400 + n) 0x5C false = some ⟨0x5C, 1, 4, true, none, [⟨1, 0, .wo, 0⟩, ⟨31, 2, .wo, 0⟩]⟩ :=
    (findReg_inst (by decide) _ _).trans (by decide)
  have raises : writeFx q tenantDesc (0x400 + n) 0x5C false ⟨0x5C, 1, 4, true, none, [⟨1, 0, .wo, 0⟩, ⟨31, 2, .wo, 0⟩]⟩ v e
      = raiseSrc (0x800 + 4 * (n - 1) + fld v 1 0) e := by
    have source : 0x400 < 0x400 + n ∧ 0x400 + n - 0x401 = n - 1 := by omega
    rw [writeFx_port (.inl (by decide)) (by decide) (.inl (by decide)) rfl]
    simp [pageFx, tenantDesc, source]
  have value : acceptVal (0x400 + n) 0x5C false v = v := acceptVal_ne _ _ (by omega)
  have taken := lands.taken
  rw [destOf_mbox] at taken
  have accepted : acceptReg q ⟨.page (0x400 + n) 0x5C false, 0x021, 0x5C, some (0x400 + n)⟩ tenantDesc (0x400 + n) 0x5C false
      ⟨0x5C, 1, 4, true, none, [⟨1, 0, .wo, 0⟩, ⟨31, 2, .wo, 0⟩]⟩ v e = raiseSrc (0x800 + 4 * (n - 1) + fld v 1 0) e := by
    rw [acceptReg, value, raises]; simp [isConfig]
  exact runs.trans (congrArg Host.Outcome.next (writeCmd_lands edge lands (fun _ _ => ⟨nofun, nofun⟩) (by
    rw [destOf_mbox]; simp [writeNow, taken, page, reg, accepted])))

/-- Settles O11: a tenant's registers take their fields, ENABLE shows in its status, and its mailbox raises a source. -/
theorem tenantRowsEnd : Obligations.TenantRowsEnd := by
  unfold Obligations.TenantRowsEnd
  intro q v s e n edge tenant
  have rings : ∀ n < 65, findReg 0 regsSriov (0x3F0 + 16 * n)
      = some ⟨0x3F0, 65, 16, false, none, [⟨13, 0, .rw, 0⟩, ⟨28, 16, .rw, 0⟩]⟩ := by decide
  have guar : ∀ n < 65, findReg 0 regsSriov (0x3F4 + 16 * n) = some ⟨0x3F4, 65, 16, false, none, [⟨21, 0, .rw, 0⟩]⟩ := by decide
  have ceil : ∀ n < 65, findReg 0 regsSriov (0x3F8 + 16 * n) = some ⟨0x3F8, 65, 16, false, none, [⟨21, 0, .rw, 0⟩]⟩ := by decide
  refine ⟨?rings, ?guar, ?ceil, ?cfg, ends_mbox tenant edge⟩
  case rings =>
    rintro a l rfl entered lands
    exact (ends_tenant (i := .tenRingsWrite q n v) tenant rfl edge lands
      (by simp only [Rg.SRIOV_TEN_RINGS, Pg.SRIOV]; omega) (.inl rfl) rfl rfl (rings n tenant)
      ⟨.inl (by decide), by decide, .inr (.inr rfl), rfl, rfl, rfl⟩ entered :)
  case guar =>
    rintro a l rfl entered lands
    exact (ends_tenant (i := .tenGuarWrite q n v) tenant rfl edge lands
      (by simp only [Rg.SRIOV_TEN_GUAR, Pg.SRIOV]; omega) (.inr (.inl rfl)) rfl rfl
      (guar n tenant) ⟨.inl (by decide), by decide, .inr (.inr rfl), rfl, rfl, rfl⟩ entered :)
  case ceil =>
    rintro a l rfl entered lands
    exact (ends_tenant (i := .tenCeilWrite q n v) tenant rfl edge lands
      (by simp only [Rg.SRIOV_TEN_CEIL, Pg.SRIOV]; omega) (.inr (.inr rfl)) rfl rfl
      (ceil n tenant) ⟨.inl (by decide), by decide, .inr (.inr rfl), rfl, rfl, rfl⟩ entered :)
  case cfg =>
    intro c w a l x u written offset entered given taken lands
    have runs : Sys2Proof.Machine.exec c s = .next (entryCmd n 65 q a w s) := by
      simp only [List.mem_cons, List.not_mem_nil, or_false, Prod.mk.injEq] at written
      rcases written with ⟨rfl, rfl⟩ | ⟨rfl, rfl⟩ | ⟨rfl, rfl⟩ | ⟨rfl, rfl⟩ <;> exact offset ▸ rfl
    exact ends_tenCfg tenant runs edge lands offset given entered taken

end Sys2Proof.Machine
end

