-- ==== Sys2Proof/Proofs/Rings.lean ====
section
/-! Rings, doorbells, buffer pools and the event controller. -/
namespace Sys2Proof.Machine

variable {i : Instr} {s e u : State} {q : Req} {v w : W32}

/-! ## A ring's slot -/

/-- The row of the block map for the RINGSTATE pages, its last. -/
abbrev ringstateDesc : PageDesc := ⟨.ringstate, 0x100, 256, false, false, false, 0x0, 0x0, 0, 0, regsRingstate⟩

theorem pageDesc_ringstate {m : Nat} (index : m < 256) : pageDesc (0x100 + m) = some ringstateDesc := by
  have rows : pageTable = pageTable.dropLast ++ [ringstateDesc] := rfl
  have before : pageTable.dropLast.all (fun d => decide (d.base + d.count ≤ 0x100)) = true := by decide
  have others : pageTable.dropLast.find? (fun d => decide (d.base ≤ 0x100 + m) && decide (0x100 + m < d.base + d.count)) = none := by
    refine List.find?_eq_none.2 fun d member => ?_
    have row := List.all_eq_true.1 before d member
    simp only [decide_eq_true_eq] at row
    simp; omega
  have low : ¬ 0x400 ≤ 0x100 + m := by omega
  rw [pageDesc, rows, List.find?_append, others]
  simp [low]; omega

/-- A register of a ring's slot on the RINGSTATE pages. -/
theorem named_slot {r k a : Nat} {d : RegDesc} (ring : r < 16384) (slot : k < 0x40 ∧ k % 4 = 0) (offset : a = 0x100000 + k + 64 * r)
    (reg : findReg 0 regsRingstate (r % 64 * 64 + k) = some d) : Named a (0x100 + r / 64) (r % 64 * 64 + k) ringstateDesc d := by
  refine .of_offset (by omega) (by omega) (.inl (by simp [isRingPage]; omega)) (by omega) (by omega)
    (pageDesc_ringstate (by omega)) ((findReg_inst (by decide) _ _).trans reg) ?_
  simp only [Rg.SRIOV_TEN_CFG]; omega

/-- What a write of a slot's register does before its fields are taken: an open window fires (R179). -/
def slotFires (r k : Nat) (old v : W32) (s : State) : State :=
  if k = 0x18 ∨ k = 0x14 ∧ fld v 16 8 ≠ fld old 16 8 then (if (modOf s r).p = 0 then s else fire r s) else s

/-- A write of a slot's register that takes its fields: entered in the roll, then its effects in their order. -/
theorem ends_slot {r k a : Nat} {d : RegDesc} {l : State} (ring : r < 16384)
    (runs : Sys2Proof.Machine.exec i s = .next (entryCmd r 16384 q a v s)) (edge : e = edgeOf q.same s) (lands : Lands q a v e)
    (slot : k < 0x40 ∧ k % 4 = 0) (offset : a = 0x100000 + k + 64 * r) (reg : findReg 0 regsRingstate (r % 64 * 64 + k) = some d)
    (stores : regStores d = true) (config : isConfig 1 ringstateDesc 0 false d = true) (entered : l = logged q a v e e) :
    Ends i s (recorded q a v (ringFx r k (rd l a) v (wr a (storeWord d.flds (rd l a) v) (slotFires r k (rd l a) v l)))) := by
  have here : ringAt (0x100 + r / 64) (r % 64 * 64 + k) = (r, k) := by
    simp only [ringAt, Prod.mk.injEq]; omega
  have address : (0x100 + r / 64) * 0x1000 + (r % 64 * 64 + k) = a := by omega
  refine (named_slot ring slot offset reg).config (runs.trans (congrArg Host.Outcome.next (if_pos ring))) edge lands config rfl ?_
  simp only [writeFx, keyBreak, tuneBreak, beforeFx, pageFx, here, address, entered, slotFires]
  simp [stores, regVirtual]

/-- What a write of CTRL does once its fields are taken (R149, R150). -/
theorem ringFx_ctrl {r : Nat} (old : W32) (s : State) : ringFx r 0x14 old v s =
    (if fbit v 1 then ringReset r (if fbit v 0 && !fbit old 0 then ringEnable r s
        else if !fbit v 0 && fbit old 0 then ringDisable r s else s)
      else if fbit v 0 && !fbit old 0 then ringEnable r s else if !fbit v 0 && fbit old 0 then ringDisable r s else s) := rfl

/-- An open window fires before VECTOR changes. -/
theorem slotFires_ctrl {r : Nat} (old : W32) (s : State) : slotFires r 0x14 old v s =
    if fld v 16 8 = fld old 16 8 ∨ (modOf s r).p = 0 then s else fire r s := by
  by_cases same : fld v 16 8 = fld old 16 8 <;> simp [slotFires, same]

theorem slotRegs : ∀ m < 64, findReg 0 regsRingstate (m * 64 + 0x14)
      = some ⟨0x14, 64, 64, false, none, [⟨0, 0, .rw, 0⟩, ⟨1, 1, .w1s, 0⟩, ⟨16, 8, .rw, 0⟩]⟩
    ∧ findReg 0 regsRingstate (m * 64 + 0x18) = some ⟨0x18, 64, 64, false, none, [⟨7, 0, .rw, 1⟩, ⟨14, 8, .rw, 0⟩]⟩ := by decide

theorem ends_ringCtrl {r : Nat} {a : Nat} {l b t x : State} (ring : r < 16384)
    (runs : Sys2Proof.Machine.exec i s = .next (ringCmd r q Rg.RINGSTATE_CTRL v s)) (edge : e = edgeOf q.same s)
    (offset : a = Rg.RINGSTATE_CTRL + 64 * r) (entered : l = logged q a v e e)
    (fires : b = if fld v 16 8 = fld (rd l a) 16 8 ∨ (modOf l r).p = 0 then l else fire r l)
    (taken : t = wr a (setFld (setFld (rd l a) 0 0 (fld v 0 0)) 16 8 (fld v 16 8)) b)
    (enabled : x = if fbit v 0 && !fbit (rd l a) 0 then ringEnable r t else if !fbit v 0 && fbit (rd l a) 0 then ringDisable r t else t)
    (lands : Lands q a v e) : Ends i s (recorded q a v (if fbit v 1 then ringReset r x else x)) := by
  have reg := (slotRegs (r % 64) (by omega)).1
  have here : a = 0x100000 + 0x14 + 64 * r := offset
  have done := ends_slot (l := l) ring (runs.trans (offset ▸ rfl)) edge lands (by decide) here reg
    (by decide) (by decide) entered
  have stored : wr a (storeWord [⟨0, 0, .rw, 0⟩, ⟨1, 1, .w1s, 0⟩, ⟨16, 8, .rw, 0⟩] (rd l a) v) (slotFires r 0x14 (rd l a) v l) = t := by
    rw [slotFires_ctrl, ← fires, taken]; simp [storeWord]
  rwa [stored, ringFx_ctrl, ← enabled] at done

theorem ends_ringMod {r : Nat} {a : Nat} {l : State} (ring : r < 16384) (edge : e = edgeOf q.same s)
    (offset : a = Rg.RINGSTATE_MOD + 64 * r) (entered : l = logged q a v e e) (lands : Lands q a v e) :
    Ends (.modWrite q r v) s (recorded q a v (wr a (setFld (setFld (rd l a) 7 0 (fld v 7 0)) 14 8 (fld v 14 8))
      (if (modOf l r).p = 0 then l else fire r l))) := by
  have done := ends_slot (i := .modWrite q r v) (l := l) ring (offset ▸ rfl) edge lands (by decide)
    (offset : a = 0x100000 + 0x18 + 64 * r) (slotRegs (r % 64) (by omega)).2 (by decide) (by decide) entered
  simpa only [ringFx, slotFires, storeWord, List.foldl_cons, List.foldl_nil, Nat.reduceBEq, Bool.false_eq_true, if_false, true_or, if_true]
    using done

/-! ## Doorbells -/

theorem w32_leAt_append (l : List Byte) : w32 (leAt (toLE 4 v.toNat ++ l) 0 4) = v := by
  have front : leAt (toLE 4 v.toNat ++ l) 0 4 = leAt (toLE 4 v.toNat) 0 4 := by simp [leAt, toLE]
  rw [front, w32_leAt]

theorem w32_leAt_back : w32 (leAt (toLE 4 v.toNat ++ toLE 4 w.toNat) 4 4) = w := by
  have back : leAt (toLE 4 v.toNat ++ toLE 4 w.toNat) 4 4 = leAt (toLE 4 w.toNat) 0 4 := by simp [leAt, toLE]
  rw [back, w32_leAt]

/-- A place that is a doorbell is in the register space, in a VF's BAR0, or the device's own. -/
theorem door_place {pl : Place} {r o : Nat} (door : (destOf e pl).tgt = .door r o) (f a : Nat) : pl ≠ .cfg f a ∧ pl ≠ .msix f a := by
  constructor <;> rintro rfl <;> cases door

/-- An accepted doorbell of one word (R151). -/
theorem ends_door {pl : Place} {r o : Nat} (runs : Sys2Proof.Machine.exec i s = .next (writeCmd q pl v s)) (edge : e = edgeOf q.same s)
    (door : (destOf e pl).tgt = .door r o) (lands : LandsAt q pl v e)
    (effect : (if o == 0 then doorTail r v e else doorHead r v e) = u) : Ends i s (inputRec q pl (toLE 4 v.toNat) u) := by
  refine runs.trans (congrArg Host.Outcome.next (writeCmd_lands edge lands (door_place door) ?_))
  simp only [writeNow, lands.taken, door, effect]

/-- A doorbell of both words from the host arrives as one written by the device itself does. -/
theorem doorArrive_reaches {pl : Place} {r o : Nat} (door : (destOf e pl).tgt = .door r o)
    (host : ∀ f, senderFn q pl = some f → fnAnswers e f = true ∧ linkState e = 0 ∧ wvIdle e = true) (replay : replaying e = false) :
    doorArrive q pl v w e = doorBoth q pl v w e := by
  have live : ∀ f, liveInput hyHostWrite f e = f e := fun f => liveInput_passes (by simp [isolated, replay]) f
  cases pl with
  | cfg f a => exact absurd rfl (door_place door f a).1
  | msix f a => exact absurd rfl (door_place door f a).2
  | dev a => rfl
  | vfBar n a =>
    by_cases own : q.origin = n
    · obtain ⟨answers, l0, idle⟩ := host n (by simp [senderFn, own])
      simp [doorArrive, own, answers, pcieRx, linkToL0, l0, idle, live, w32_leAt_append, w32_leAt_back]
    · simp [doorArrive, own]
  | space a =>
    by_cases own : q.origin = 0x41
    · obtain ⟨answers, l0, idle⟩ := host 0 (by simp [senderFn, own])
      simp [doorArrive, own, answers, pcieRx, linkToL0, l0, idle, live, w32_leAt_append, w32_leAt_back]
    · simp [doorArrive, own]

/-- Settles O12: a slot's register takes its fields among the ring's own rules, and a doorbell is taken by its ring. -/
theorem ringWritesEnd : Obligations.RingWritesEnd := by
  unfold Obligations.RingWritesEnd
  refine ⟨fun q v s e r edge ring => ⟨?ctrl, ?mod⟩, fun q v w s e pl r edge => ⟨fun door lands => ?tail, fun door lands => ?head, ?both⟩⟩
  case ctrl =>
    intro c w a l b t x written offset entered fires taken enabled lands
    have runs : Sys2Proof.Machine.exec c s = .next (ringCmd r q Rg.RINGSTATE_CTRL w s) := by
      simp only [List.mem_cons, List.not_mem_nil, or_false, Prod.mk.injEq] at written
      rcases written with ⟨rfl, rfl⟩ | ⟨rfl, rfl⟩ | ⟨rfl, rfl⟩ | ⟨rfl, rfl⟩ <;> rfl
    exact ends_ringCtrl ring runs edge offset entered fires taken enabled lands
  case mod =>
    intro a l offset entered lands
    exact ends_ringMod ring edge offset entered lands
  case tail => exact ends_door rfl edge door lands (if_pos rfl)
  case head => exact ends_door rfl edge door lands (if_neg (by decide))
  case both =>
    intro o door sent host replay accepted
    have done : doorBoth q pl v w e = inputRec q pl (toLE 4 v.toNat ++ toLE 4 w.toNat) (doorHead r w (doorTail r v e)) := by
      simp only [doorBoth, door, accepted]
    have runs : tailCmd q pl v (some w) s = finish (inputRec q pl (toLE 4 v.toNat ++ toLE 4 w.toNat) (doorHead r w (doorTail r v e))) := by
      rw [tailCmd, if_pos sent, ← edge, doorArrive_reaches door host replay, done]
    exact congrArg Host.Outcome.next runs

/-! ## The ring engine and the pools -/

/-- The arrival of a descriptor that was asked for, at a ring that has not stopped since. -/
theorem descArrive_waiting {r pa line : Nat} {f : Fetch} {l : List Byte} (found : s.adm.fetches.find? (·.ring == r) = some f)
    (waits : f.res = .waiting pa line) (kept : f.dropped = false) : descArrive r (some l) s =
      descCheck r (ringOwner (hymnRec hyHostCpl f.owner pa l
        (npSet (npNow { s with adm := { s.adm with fetches := s.adm.fetches.erase f } } - 1)
          { s with adm := { s.adm with fetches := s.adm.fetches.erase f } })) r) l
        (hymnRec hyHostCpl f.owner pa l (npSet (npNow { s with adm := { s.adm with fetches := s.adm.fetches.erase f } } - 1)
          { s with adm := { s.adm with fetches := s.adm.fetches.erase f } })) := by
  simp [descArrive, found, waits, kept, FetchRes.waits]

/-- Settles O13: an event of the ring engine that is due is the engine's own step. -/
theorem ringEngineEventsEnd : Obligations.RingEngineEventsEnd := by
  unfold Obligations.RingEngineEventsEnd
  rintro s e g r sub data l rfl rfl
  refine ⟨fun resetting idle => ends_event rfl (by simp [ringResetDone, resetting, idle]), fun _ => ends_event rfl rfl, ?arrival,
    fun _ known _ => ends_answered rfl known rfl, fun _ known _ => ends_answered rfl known rfl, rfl, rfl,
    fun due => ends_eventIf rfl due rfl⟩
  case arrival =>
    rintro f pa n t known found waits kept arrives rfl
    exact ends_answered rfl known (by rw [arrives]; exact descArrive_waiting found waits kept)

/-- Settles O14: a handle given back is told by its generation and its index. -/
theorem poolRowsEnd : Obligations.PoolRowsEnd := by
  unfold Obligations.PoolRowsEnd
  refine fun q v s e port pool h edge => ⟨fun low unit => ends_eventIf rfl (by simp [low, unit]) rfl,
    fun low current inside out => ends_eventIf rfl (by simp [low]) ?good, fun low stale => ends_eventIf rfl (by simp [low]) ?stale,
    fun low current bad => ends_eventIf rfl (by simp [low]) ?bad, fun lands => ?request, fun lands => ?free⟩
  case good =>
    simp only [freeBuf, current, bne_self_eq_false, out, Nat.not_le.2 inside, decide_false, Bool.or_self, Bool.false_eq_true, if_false]
  case stale => simp [freeBuf, stale]
  case bad =>
    have refused : (decide (poolCount (newEdge s) pool ≤ h % 0x1000)
        || (poolFreeList (newEdge s) pool).contains (h % 0x1000)) = true := by
      simpa using bad
    simp only [freeBuf, current, bne_self_eq_false, Bool.false_eq_true, if_false, refused, if_true]
  case request =>
    exact (Named.fixed (a := Rg.POOL_SW_REQ) (p := Pg.POOL) (o := 0x60) rfl (by decide) rfl rfl).dataPort rfl edge lands (by decide)
      (by simp [pageFx, poolFx])
  case free =>
    exact (Named.fixed (a := Rg.POOL_SW_FREE) (p := Pg.POOL) (o := 0x68) rfl (by decide) rfl rfl).dataPort rfl edge lands (by decide)
      (by simp [pageFx, poolFx])

/-! ## The event controller -/

/-- A register of a word of the pages EVCSRC. -/
theorem named_evcsrc {m o a : Nat} {d : RegDesc} (index : m < 8) (offset : a = (0x14 + m) * 0x1000 + o) (body : 0x40 ≤ o) (inside : o < 0x1000)
    (word : o % 4 = 0) (reg : findReg 0 regsEvcsrc o = some d) :
    Named a (0x14 + m) o ⟨.evcsrc, 0x14, 8, true, false, false, 0x0, 0x0, 0, 0, regsEvcsrc⟩ d := by
  have alike : ∀ m < 8, pageDesc (0x14 + m) = pageDesc 0x14 := by decide
  refine .of_alike alike index offset (by omega) body inside word rfl (by decide) reg ?_
  simp only [Rg.SRIOV_TEN_CFG]; omega

section
variable {k : Nat} (index : k < 128) (edge : e = edgeOf q.same s)
include index edge

theorem ends_pendSet (lands : Lands q (Rg.EVCSRC_PEND_SET + k / 16 * 0x1000 + 4 * (k % 16)) v e) : Ends (.evcPendSet q k v) s
    (recorded q (Rg.EVCSRC_PEND_SET + k / 16 * 0x1000 + 4 * (k % 16)) v ((bitsFrom (32 * k) v).foldl (fun t m => evTake m t) e)) := by
  have reg : ∀ m < 16, findReg 0 regsEvcsrc (0x80 + 4 * m) = some ⟨0x80, 16, 4, true, none, [⟨31, 0, .w1s, 0⟩]⟩ := by decide
  have first : k / 16 * 512 + 4 * (k % 16) * 8 = 32 * k := by omega
  have port : ¬ (0x80 + 4 * (k % 16) < 0x80) ∧ 0x80 + 4 * (k % 16) < 0xC0 := by omega
  refine (named_evcsrc (m := k / 16) (by omega) ?_ (by omega) (by omega) (by omega) (reg (k % 16) (by omega))).dataPort
    (congrArg Host.Outcome.next (if_pos index)) edge lands ⟨.inl (by decide), by decide, .inl (by omega), ?_, rfl, rfl⟩ ?_
  · simp only [Rg.EVCSRC_PEND_SET]; omega
  · simp [regStores]
  · simp [pageFx, evcsrcFx, port, first]

theorem ends_pendClear (lands : Lands q (Rg.EVCSRC_PEND + k / 16 * 0x1000 + 4 * (k % 16)) v e) : Ends (.evcPendClear q k v) s
    (recorded q (Rg.EVCSRC_PEND + k / 16 * 0x1000 + 4 * (k % 16)) v ((bitsFrom (32 * k) v).foldl (fun t m => evClear m t) e)) := by
  have reg : ∀ m < 16, findReg 0 regsEvcsrc (0x40 + 4 * m) = some ⟨0x40, 16, 4, false, none, [⟨31, 0, .w1c, 0⟩]⟩ := by decide
  have first : k / 16 * 512 + 4 * (k % 16) * 8 = 32 * k := by omega
  have port : 0x40 + 4 * (k % 16) < 0x80 := by omega
  refine (named_evcsrc (m := k / 16) (by omega) ?_ (by omega) (by omega) (by omega) (reg (k % 16) (by omega))).dataPort
    (congrArg Host.Outcome.next (if_pos index)) edge lands ⟨.inl (by decide), by decide, .inl (by omega), ?_, rfl, rfl⟩ ?_
  · simp only [Rg.EVCSRC_PEND]; omega
  · simp [regVirtual, port]
  · simp [pageFx, evcsrcFx, port, first]

end

theorem ends_evcCfg {k a : Nat} {l : State} (index : k < 2048) (edge : e = edgeOf q.same s)
    (offset : a = Rg.EVCSRC_CFG + k / 256 * 0x1000 + 4 * (k % 256)) (entered : l = logged q a v e e) (lands : Lands q a v e) :
    Ends (.evcCfgWrite q k v) s (recorded q a v (wakeHarts (evCfgAfter (2 * k + 1) (fld (rd l a) 31 16)
      (evCfgAfter (2 * k) (fld (rd l a) 15 0) (wr a (setFld (setFld (rd l a) 15 0 (fld v 15 0)) 31 16 (fld v 31 16)) l))))) := by
  have reg : findReg 0 regsEvcsrc (0x400 + 4 * (k % 256)) = some ⟨0x400, 256, 4, false, none, [⟨15, 0, .rw, 0⟩, ⟨31, 16, .rw, 0⟩]⟩ := by
    have past : ∀ b ≤ 0x400, ¬ 0x400 + 4 * (k % 256) < b := by omega
    simp [findReg, regsEvcsrc, past]; omega
  have first : k / 256 * 512 + 4 * (k % 256) / 2 = 2 * k := by omega
  have column : ¬ 0x400 + 4 * (k % 256) < 0x80 ∧ ¬ 0x400 + 4 * (k % 256) < 0xC0 ∧ 0x400 + 4 * (k % 256) < 0x800 := by omega
  refine (named_evcsrc (m := k / 256) (by omega) ?_ (by omega) (by omega) (by omega) reg).configStore
    ((congrArg Host.Outcome.next (if_pos index)).trans (offset ▸ rfl)) edge lands
    ⟨.inl (by decide), by decide, .inr (.inr rfl), ?_, rfl, rfl⟩ ?_
  · simp only [offset, Rg.EVCSRC_CFG]; omega
  · simp [regVirtual, regStores, column]
  · simp [pageFx, evcsrcFx, column, first, entered, storeWord]

/-- Settles O15: a raise is taken for its source, and a claim, a completion and a word of EVCSRC do what their rules say. -/
theorem eventControllerRowsEnd : Obligations.EventControllerRowsEnd := by
  unfold Obligations.EventControllerRowsEnd
  rintro q v s e n k i o src same edge rfl
  refine ⟨fun lands => ?doorbell, fun found => ?raise, fun x l held => ends_event rfl (by simp [heldRaise, held]), ?commit, ?claim,
    fun lands holds => ?complete, ?set, ?clear, fun a l offset index entered lands => ends_evcCfg index edge offset entered lands⟩
  case doorbell =>
    exact (Named.fixed (a := Rg.EVC_DOORBELL) (p := Pg.EVC) (o := 0x40) rfl (by decide) rfl rfl).dataPort rfl edge lands (by decide)
      (by simp [pageFx, evcFx])
  case raise =>
    have arrives : raiseArrive k (edgeOf same s) = evTake src { edgeOf same s with
        evc := { (edgeOf same s).evc with inflight := dropAt (edgeOf same s).evc.inflight k } } := by
      simp [raiseArrive, found]
    exact congrArg (fun t => Host.Outcome.next (finish t)) arrives
  case commit =>
    rintro a rfl low waits
    exact ends_eventIf rfl (by simp [low]) (by simp [fwdCommit, waits])
  case claim =>
    rintro h x reads rfl main best rfl
    have claims : readPage (0x44 + h) Pg.EVC 0x44 (newEdge s) = evClaim (0x44 + h) (newEdge s) := rfl
    have hart : ¬ 0x47 < 0x44 + h := by omega
    refine ends_readBody (a := Rg.EVC_CLAIM) rfl (by decide) (.inr (by decide)) (by decide) (by decide) rfl reads rfl
      (present_of_all (by decide) _) (claims.trans ?_)
    simp [evClaim, hart, best]
  case complete =>
    exact (Named.fixed (a := Rg.EVC_COMPLETE) (p := Pg.EVC) (o := 0x48) rfl (by decide) rfl rfl).dataPort rfl edge lands (by decide)
      (by simp [pageFx, evcFx, holds])
  case set =>
    rintro a rfl index lands
    exact ends_pendSet index edge lands
  case clear =>
    rintro a rfl index lands
    exact ends_pendClear index edge lands

end Sys2Proof.Machine
end

