-- ==== Sys2Proof/Proofs/Memory.lean ====
section
/-! Memory accesses, the registers and events of memory, and Cantor's events. -/
namespace Sys2Proof.Machine

variable {i : Instr} {s e u : State} {q : Req} {v : W32}

/-! ## Accesses -/

/-- Whose access it is: the command's context, requester, half and job. -/
theorem jobWho_names (s : State) (ctx req half job : Nat) : (jobWho s ctx req half job).ctx = ctx
    ∧ (jobWho s ctx req half job).req = req ∧ (jobWho s ctx req half job).half = half ∧ (jobWho s ctx req half job).job = job := by
  unfold jobWho
  cases (jobAt s job).bind (·.inv) <;> exact ⟨rfl, rfl, rfl, rfl⟩

section
variable {ctx req half job kind va len : Nat} {data : List Byte} {w : Who} {t : State}

/-- An access is issued for the requester that the command names. -/
theorem ends_access (edge : e = newEdge s) (fits : accessFits e half kind va len data = true) (who : w = jobWho e ctx req half job)
    (effect : accessIssue regRead w kind va len data e = u) : Ends (.memoryAccess ctx req half job kind va len data) s u := by
  subst edge who
  exact ends_eventIf rfl fits effect

theorem accessIssue_fault {f : XFault} (own : w.ctx = ctx ∧ w.half = half) (faults : translate ctx half (accOf kind) va s = (.flt f, t)) :
    accessIssue regRead w kind va len data s
      = accessFail w.job ⟨xStatus f.kind, f.kind == 10, f.kind⟩ w.req w.req 0 (xLog w (accOf kind) va f t) := by
  simp only [accessIssue, own, faults]

variable {o : XOut} (own : w.ctx = ctx ∧ w.half = half) (found : translate ctx half (accOf kind) va s = (.ok o, t))
include own found

/-- A page of the host, for an invocation whose function may not issue requests. -/
theorem accessIssue_held (host : o.host = true) (held : hostHeld t w = true) : accessIssue regRead w kind va len data s = s := by
  simp [accessIssue, own, found, host, held]

theorem accessIssue_host (host : o.host = true) (free : hostHeld t w = false) : accessIssue regRead w kind va len data s =
    putAccess ⟨some w, memKind w kind o, va, o.pa, o.host, if kind = 1 then data.length else len, o.cls, data, 0, o.dying⟩
      (emitTlp (if kind = 1 then .hostWrite ctx o.pa data else .hostRead ctx o.pa len) t).2 := by
  by_cases write : kind = 1
  · subst write; simp [accessIssue, own, found, host, free]
  · simp [accessIssue, own, found, host, free, write]

/-- A page of device memory whose channels serve it. -/
theorem accessIssue_served {a : Access}
    (built : a = ⟨some w, memKind w kind o, va, o.pa, o.host, if kind = 1 then data.length else len, o.cls, data, 0, o.dying⟩)
    (device : o.host = false) (memory : targetOf t.member o.pa ≠ .regs) (serves : paServes t o.pa a.len = true) :
    accessIssue regRead w kind va len data s = memOrder w a t := by
  subst built
  simp only at serves
  simp [accessIssue, own, found, device, memory, serves]

end

/-- The end of an access of device memory: its failure, or a read's data. -/
theorem accessDone_device {k err place : Nat} {ans : Option (List Byte)} {a b : Access} {x : Who} {t : State}
    (here : s.ms.accesses[k]? = some a) (errs : accessErr a err place { s with ms := { s.ms with accesses := dropAt s.ms.accesses k } } = (b, t))
    (device : b.host = false) (who : b.who = some x) : accessDone k err place ans s =
      if b.bad ≠ 0 then accessFail x.job ⟨0x0406, true, 0⟩ x.req x.req 0 t else if b.kind = 1 then t else emit (.memData b.data false) t := by
  simp [accessDone, here, errs, device, who]

/-- Settles O16: an access is issued by where its page is, and ends by what it met. -/
theorem accessRowsEnd : Obligations.AccessRowsEnd := by
  unfold Obligations.AccessRowsEnd
  rintro s e g ctx req half job kind va len k err place data ans w edge rfl who
  obtain ⟨ctxOf, reqOf, halfOf, jobOf⟩ := jobWho_names e ctx req half job
  rw [← who] at ctxOf reqOf halfOf jobOf
  have own := And.intro ctxOf halfOf
  refine ⟨fun f t fits faults => ?fault, ?host, fun o t fits found host held => ?held, ?served,
    fun a b t x known here errs device whose => ?ends, fun a known here => ?done, rfl⟩
  case fault =>
    exact ends_access edge fits who (by rw [accessIssue_fault own faults, reqOf, jobOf])
  case host =>
    rintro o t a fits found rfl host free
    exact ends_access edge fits who (accessIssue_host own found host free)
  case held => exact ends_access edge fits who (accessIssue_held own found host held)
  case served =>
    intro o t a fits found built device memory serves
    exact ends_access edge fits who (accessIssue_served own found built device memory serves)
  case ends => exact ends_answered rfl known (accessDone_device here errs device whose)
  case done => exact ends_answered rfl known (by simp only [accessAnswer, here])

/-! ## Registers and events of memory -/

/-- TAIL of a fault log on a page that there are two of: a port that takes the word and does nothing more. -/
theorem ends_flogTail {a p : Nat} (edge : e = edgeOf q.same s) (lands : Lands q a v e) (tail : flogTail p = some a) {o : Nat} {x : PageDesc}
    {r : RegDesc} (named : Named a p o x r) (takes : Takes x o r true false (fxFirst x.kind)) (word : r.flds = [⟨31, 0, .rw, 0⟩])
    (effect : pageFx q x p o (rd e a) v (wrF a 31 0 (fld v 31 0) e) = u) : Ends (.flogTailWrite q p v) s (recorded q a v u) := by
  have runs : Sys2Proof.Machine.exec (.flogTailWrite q p v) s = .next (regCmd q a v s) := by
    simp [Sys2Proof.Machine.exec, execFlogTailWrite, tail]
  exact named.dataStore runs edge lands takes (by rw [← effect, word]; rfl)

section
variable {h : Nat} (half : h < 2)
include half

theorem flogTail_cantor : flogTail (Pg.CANTOR + h) = some (Rg.CANTOR_FLOG_TAIL + h * 0x1000) := by
  obtain rfl | rfl : h = 0 ∨ h = 1 := by omega
  all_goals rfl

theorem flogTail_slink : flogTail (Pg.SLINK + h) = some (Rg.SLINK_FLOG_TAIL + h * 0x1000) := by
  obtain rfl | rfl : h = 0 ∨ h = 1 := by omega
  all_goals rfl

theorem named_cantorTail : ∃ x r, Named (Rg.CANTOR_FLOG_TAIL + h * 0x1000) (Pg.CANTOR + h) 0xD4 x r ∧ x.kind = .cantor
    ∧ Takes x 0xD4 r true false (fxFirst x.kind) ∧ r.flds = [⟨31, 0, .rw, 0⟩] := by
  obtain rfl | rfl : h = 0 ∨ h = 1 := by omega
  all_goals exact ⟨_, _, .fixed rfl (by decide) rfl rfl, rfl, by decide, rfl⟩

theorem named_slinkTail : ∃ x r, Named (Rg.SLINK_FLOG_TAIL + h * 0x1000) (Pg.SLINK + h) 0xB4 x r ∧ x.kind = .slink
    ∧ Takes x 0xB4 r true false (fxFirst x.kind) ∧ r.flds = [⟨31, 0, .rw, 0⟩] := by
  obtain rfl | rfl : h = 0 ∨ h = 1 := by omega
  all_goals exact ⟨_, _, .fixed rfl (by decide) rfl rfl, rfl, by decide, rfl⟩

theorem named_nrcInv : ∃ x r, Named (Rg.LLC_NRC_INV + h * 0x1000) (Pg.LLC + h) 0x40 x r ∧ x.kind = .llc ∧ x.base = Pg.LLC
    ∧ Takes x 0x40 r false true false := by
  obtain rfl | rfl : h = 0 ∨ h = 1 := by omega
  all_goals exact ⟨_, _, .fixed rfl (by decide) rfl rfl, rfl, rfl, by decide⟩

end

/-- ENABLE of a DRAM channel (R240), or its block reset. -/
theorem ends_dramcEnable {h a : Nat} {l : State} (channel : h < 8) (edge : e = edgeOf q.same s)
    (offset : a = hdr (Pg.DRAMC + h) Hdr.BLK_CTRL) (entered : l = logged q a v e e) (lands : Lands q a v e) :
    Ends (.dramcEnableWrite q h v) s (recorded q a v
      (if fbit v 1 then startReset (Pg.DRAMC + h) (wrB a 1 true (wrB a 0 (fbit v 0) l))
        else stalledRun (selfRefresh h (wrB a 0 (fbit v 0) l)))) := by
  subst offset entered
  have alike : ∀ h < 8, pageDesc (Pg.DRAMC + h) = pageDesc Pg.DRAMC := by decide
  have index : Pg.DRAMC + h - Pg.DRAMC = h := Nat.add_sub_cancel_left ..
  have ends := ends_blkCtrl (i := .dramcEnableWrite q h v) (congrArg Host.Outcome.next (if_pos channel)) edge lands
    (by simp only [Pg.DRAMC]; omega) ((alike h channel).trans rfl) (by decide) (by decide) fun t => rfl
  simpa [fxFirst, ctrlFx, enableFx, index] using ends

/-- A poll of MR4 where the Hymnal passes its inputs (R237). -/
theorem mr4Poll_passes (quiet : recording e = false) (replay : replaying e = false) (c rate : Nat) : mr4Poll c rate e = mr4Read c rate e := by
  simp [mr4Poll, inputOf_passes replay quiet]

/-- Settles O17: a register of memory by its page's effect, and each event where it is due. -/
theorem memoryRowsEnd : Obligations.MemoryRowsEnd := by
  unfold Obligations.MemoryRowsEnd
  refine ⟨fun q v s e h edge => ⟨fun lands => ?mmu, fun lands => ?fault, ?cantor, ?slink, fun lands go => ?inv, ?nrc,
    fun a l offset channel entered lands => ends_dramcEnable channel edge offset entered lands⟩,
    fun s e c rate word cls edge => ?events⟩
  case mmu =>
    exact ends_flogTail edge lands rfl (.fixed (a := Rg.MMU_FLOG_TAIL) (p := Pg.MMU) (o := 0x84) rfl (by decide) rfl rfl) (by decide) rfl
      (by simp [pageFx])
  case fault =>
    exact ends_flogTail edge lands rfl (.fixed (a := Rg.FAULT_FLOG_TAIL) (p := Pg.FAULT) (o := 0xC4) rfl (by decide) rfl rfl) (by decide)
      rfl (by simp [pageFx, faultFx, rdN])
  case cantor =>
    rintro a rfl half lands
    obtain ⟨x, r, named, kind, takes, word⟩ := named_cantorTail half
    exact ends_flogTail edge lands (flogTail_cantor half) named takes word (by simp [pageFx, kind, cantorFx])
  case slink =>
    rintro a rfl half lands
    obtain ⟨x, r, named, kind, takes, word⟩ := named_slinkTail half
    exact ends_flogTail edge lands (flogTail_slink half) named takes word (by simp [pageFx, kind, slinkFx])
  case inv =>
    exact (Named.fixed (a := Rg.MMU_INV_GO) (p := Pg.MMU) (o := 0x50) rfl (by decide) rfl rfl).dataPort rfl edge lands (by decide)
      (by simp [pageFx, go, invGo])
  case nrc =>
    rintro a l rfl half rfl lands
    obtain ⟨x, r, named, kind, base, takes⟩ := named_nrcInv half
    exact named.configPort (congrArg Host.Outcome.next (if_pos half)) edge lands takes (by simp [pageFx, kind, base])
  case events =>
    subst edge
    refine ⟨?invDone, ?refresh, fun here trained low quiet replay =>
        ends_eventIf rfl (by simp only [here, trained, low, decide_true, Bool.and_self]) (mr4Poll_passes quiet replay ..),
      fun here may low => ends_eventIf rfl (by simp only [here, may, low, decide_true, Bool.and_self]) rfl,
      fun here behind => ends_eventIf rfl (by simp only [here, behind, Bool.and_self]) rfl,
      fun up => ends_eventIf rfl up rfl, fun up => ends_eventIf rfl up rfl⟩
    case invDone =>
      rintro runs used t rfl
      exact ends_eventIf rfl (by simpa only [invMayEnd, runs, Bool.true_and, List.all_eq_true, Bool.not_eq_true'] using used) rfl
    case refresh =>
      rintro d a here due rfl rfl
      exact ends_eventIf rfl (by simp only [here, due, Bool.and_self]) rfl

end Sys2Proof.Machine
end

