-- ==== Sys2Proof/Proofs/Cores.lean ====
section
/-! Cantor's events, and the commands of the inference cores. -/
namespace Sys2Proof.Machine

variable {i : Instr} {s e u : State}

/-! ## Cantor -/

/-- The end of a validation, where no write has come upon the image. -/
theorem ends_loadDone (image : s.cantor.imageWritten = false) (edge : e = newEdge s) (effect : loadDone e = u) :
    Ends .scoreLoadDone s u := by
  subst edge
  exact ends_event (if_neg (Bool.eq_false_iff.1 image)) effect

/-- A task that may fire on a core that is free does. -/
theorem tryFire_fires {c : Nat} {t : State} {w : Wait} (free : held e = false) (core : fenced e (Pg.CORE + c) = false)
    (asked : t = requestBufs c e) (idle : coreRun t c = none) (first : firstToFire ((begun t c).filter (mayFire t)) = some w) :
    tryFire c e = fireTask c w t := by
  subst asked
  simp [tryFire, free, core, idle, first]

/-- Settles O19: each of Cantor's events does what its rule says where it is due, and stops where its image or its stream was written. -/
theorem cantorEventsEnd : Obligations.CantorEventsEnd := by
  unfold Obligations.CantorEventsEnd
  rintro s e g core k addr n wt data edge rfl
  refine ⟨?armed, ?refused, fun image => ?image, ?fire, fun w runs here free slips => ?slip, fun w l runs here fence waits => ?cancel,
    fun clean ends => ?done, fun hit => ?doneHit, fun t found => ?token, fun clean known => ?fetch, fun hit => ?fetchHit,
    fun clean => ?peer, fun r x _ _ => edge ▸ ends_event rfl rfl⟩
  case armed =>
    rintro t c image valid rfl reads
    exact ends_loadDone image edge (by simp [loadDone, valid, reads])
  case refused =>
    rintro t x image valid rfl reads
    exact ends_loadDone image edge (by simp [loadDone, valid, reads])
  case image => exact if_pos image
  case fire =>
    intro t w runs here free clear asked idle first
    subst edge
    exact ends_eventIf rfl (by simp [runs, here]) (tryFire_fires free clear asked idle first)
  case slip =>
    subst edge
    exact ends_eventIf rfl (by simp [runs, here]) (by simp [taskSlip, slips, free])
  case cancel =>
    subst edge
    exact ends_eventIf rfl (by simp [runs, here]) (by simp [fencedCancel, fence, waits])
  case done =>
    subst edge
    exact ends_eventIf (if_neg (Bool.eq_false_iff.1 clean)) ends rfl
  case doneHit => exact if_pos hit
  case token =>
    subst edge
    exact ends_event rfl (by simp [tokenArrive, found])
  case fetch =>
    exact ends_answered (if_neg (Bool.eq_false_iff.1 clean)) known rfl
  case fetchHit => exact if_pos hit
  case peer => exact if_neg (Bool.eq_false_iff.1 clean)

/-! ## The commands of a core's stream -/

/-- What is left of the issue of a command once it has run: its failure, or its place among those outstanding. -/
def issueEnd (c : Nat) (r : CoreRun) (d o : List (Nat × Nat)) (l : List Byte) (z : State)
    (ran : Option XErr × Option SigMsg × State) : State :=
  match ran with
  | (some x, _, y) => if x.held then z else accessFail r.w.job x c c r.w.task.idx y
  | (none, g, y) =>
    if opcodeOf l == tcNop || opcodeOf l == tcToken then fetchFault c (countCmd c y)
    else match coreRun y c with
      | none => y
      | some r2 => fetchFault c { y with cantor := { y.cantor with
          runs := kvInsert y.cantor.runs c { r2 with out := r2.out ++ [⟨unitOf (opcodeOf l), d, o, linBeat y, g⟩] } } }

section
variable {c : Nat} {row : Nat × Nat} {r : CoreRun} {l : List Byte} {rest : List (List Byte)} {z : State}
  (run : coreRun z c = some r) (cmds : r.w.cmds = l :: rest) (here : tcmdRow l = row)
include run cmds here

/-- A command that passes its checks and may issue: the stream advances, and it runs. -/
theorem issueCmd_issues {d o : List (Nat × Nat)} {r1 : CoreRun} {t : State} (sound : tcmdCause z c r.w l = 0)
    (reads : d = absSpans z c r.w.inv (inSpans l ++ (if bit (subopOf l) 0 then accSpan l else [])))
    (writes : o = absSpans z c r.w.inv (outSpans l)) (may : mayIssueCmd r l d o = true)
    (next : r1 = { r with w := { r.w with cmds := rest }, idx := r.idx + 1 })
    (advanced : t = wr (Rg.CORE_CMD_IDX + c * 0x1000) (w32 r1.idx)
      { z with cantor := { z.cantor with runs := kvInsert z.cantor.runs c r1 } }) :
    issueCmd regRead c row z = issueEnd c r1 d o l z (runCmd regRead c r1.w l t) := by
  have own : (tcmdRow l != row) = false := by simp [here]
  subst reads writes next advanced
  simp only [issueCmd, run, cmds, own, sound, may, bne_self_eq_false, Bool.not_true, Bool.false_eq_true, if_false, issueEnd]
  rcases runCmd regRead c _ l _ with ⟨x | x, g, y⟩ <;> rfl

/-- A command that a check refuses, with none outstanding. -/
theorem issueCmd_errs (bad : tcmdCause z c r.w l ≠ 0) (alone : r.out = []) :
    issueCmd regRead c row z = cmdError c r (tcmdCause z c r.w l) l z := by
  simp [issueCmd, run, cmds, here, bad, alone]

end

/-- The instruction of a row issues the command of that row at the head of its core's stream. -/
def Issues (i : Instr) (c : Nat) (row : Nat × Nat) (s z : State) : Prop :=
  ∀ u, issueCmd regRead c row z = u → Ends i s u

theorem issues_row {c : Nat} {row : Nat × Nat} (runs : Sys2Proof.Machine.exec i s = issueRow c row s) : Issues i c row s (newEdge s) :=
  fun _ effect => ends_event runs effect

theorem issues_host {c : Nat} {row : Nat × Nat} {data : HostData} (runs : Sys2Proof.Machine.exec i s = issueHost c row data s)
    (known : data ≠ .peer) : Issues i c row s (newEdge (given data s)) :=
  fun _ effect => ends_answered runs known effect

/-- Settles O20: the command at the head of the stream issues, waits or errs by its checks and by how it ran. -/
theorem tensorCommandsIssue : Obligations.TensorCommandsIssue := by
  unfold Obligations.TensorCommandsIssue
  intro s c data z i row r l rest listed run cmds here
  have issues : Issues i c row s z := by
    rcases listed with ⟨rfl, member⟩ | ⟨rfl, known, member⟩
    · refine issues_row ?_
      simp only [List.mem_cons, List.not_mem_nil, or_false, Prod.mk.injEq] at member
      rcases member with ⟨rfl, rfl⟩ | ⟨rfl, rfl⟩ | ⟨rfl, rfl⟩ | ⟨rfl, rfl⟩ | ⟨rfl, rfl⟩ | ⟨rfl, rfl⟩ | ⟨rfl, rfl⟩ | ⟨rfl, rfl⟩
        | ⟨rfl, rfl⟩ | ⟨rfl, rfl⟩ | ⟨rfl, rfl⟩ | ⟨rfl, rfl⟩ | ⟨rfl, rfl⟩ | ⟨rfl, rfl⟩ | ⟨rfl, rfl⟩ | ⟨rfl, rfl⟩ | ⟨rfl, rfl⟩
        | ⟨rfl, rfl⟩ | ⟨rfl, rfl⟩ | ⟨rfl, rfl⟩ | ⟨rfl, rfl⟩ | ⟨rfl, rfl⟩ | ⟨rfl, rfl⟩ <;> rfl
    · refine issues_host ?_ known
      simp only [List.mem_cons, List.not_mem_nil, or_false, Prod.mk.injEq] at member
      rcases member with ⟨rfl, rfl⟩ | ⟨rfl, rfl⟩ | ⟨rfl, rfl⟩ | ⟨rfl, rfl⟩ <;> rfl
  refine ⟨fun d o r1 t sound reads writes may next advanced => ?_, fun bad alone => issues _ (issueCmd_errs run cmds here bad alone)⟩
  have ends : ∀ u, issueEnd c r1 d o l z (runCmd regRead c r1.w l t) = u → Ends i s u := fun u ran =>
    issues u ((issueCmd_issues run cmds here sound reads writes may next advanced).trans ran)
  refine ⟨fun x g y ran free => ends _ ?fails, fun x g y ran held => ends _ ?waits, fun g y ran atOnce => ends _ ?done,
    fun g y r2 r3 ran other notToken running out => ends _ ?outstanding⟩
  case fails => simp [issueEnd, ran, free]
  case waits => simp [issueEnd, ran, held]
  case done =>
    have ended : (opcodeOf l == tcNop || opcodeOf l == tcToken) = true := by simpa using atOnce
    simp only [issueEnd, ran, ended, if_true, countCmd]
  case outstanding => simp [issueEnd, ran, other, notToken, running, out]

end Sys2Proof.Machine
end
